-- ==== Sys2Proof/Word.lean ====
section
/-! DEFINITION. The word types of the module and their plainest arithmetic: 32-bit words, bytes, fields of a number (R4, R5). -/

namespace Sys2Proof

/-- A 32-bit word: a register of a scalar core, an a-register, a payload word. -/
abbrev Word := BitVec 32

/-- One byte. -/
abbrev Byte := BitVec 8

/-- Where a UDP datagram comes from and goes to: the interface, the sender's address and port, the destination port. -/
structure UdpIn where
  iface : Fin 32
  addr  : BitVec 128
  sport : BitVec 16
  dport : BitVec 16
deriving DecidableEq, Repr

/-- What a remote source has returned: its bytes, and how it failed (0: not). -/
structure RemoteIn where
  bytes : List Byte
  fail  : Fin 3
deriving DecidableEq, Repr

/-- The field [hi:lo] of a number, bit 0 least significant (R4). -/
def slice (n hi lo : Nat) : Nat := (n >>> lo) % 2 ^ (hi + 1 - lo)

/-- Bit i of a number. -/
def bitAt (n i : Nat) : Bool := n.testBit i

/-- A number read as two's complement of `w` bits. -/
def sext (w n : Nat) : Int := if n % 2 ^ w < 2 ^ (w - 1) then (n % 2 ^ w : Nat) else (n % 2 ^ w : Nat) - (2 ^ w : Nat)

/-- An integer wrapped to a 32-bit word. -/
def wordOfInt (z : Int) : Word := BitVec.ofInt 32 z

/-- 1 for true, 0 for false. -/
def b2n (b : Bool) : Nat := if b then 1 else 0

/-- A counter that saturates at `top` (R9: RCL counters with a stated limit). -/
def satAdd (top n k : Nat) : Nat := if n + k < top then n + k else top

/-- Quotient rounded up. -/
def ceilDiv (a b : Nat) : Nat := (a + (b - 1)) / b

end Sys2Proof
end

