-- ==== Sys2Proof/Syntax.lean ====
section
/-! DEFINITION. The commands of the module, one constructor per row of the table of operations and events. Operands are what the outside world decides: the core that issues, the bytes that arrive, the measurement taken. -/

namespace Sys2Proof

/-- A command to the module: an instruction that a core issues, an event of the module, a request of an owner. -/
inductive Instr where
  /-- R75: Scalar core issues NOP and does nothing for one cycle. -/
  | scNop (h : BitVec 13) (n : Fin 123)
  /-- R75: Scalar core writes ra + rb modulo 2^32 to rd. -/
  | scAdd (h : BitVec 13) (n : Fin 123)
  /-- R75: Scalar core writes ra - rb modulo 2^32 to rd. -/
  | scSub (h : BitVec 13) (n : Fin 123)
  /-- R75: Scalar core writes the bitwise and of ra and rb to rd. -/
  | scAnd (h : BitVec 13) (n : Fin 123)
  /-- R75: Scalar core writes the bitwise or of ra and rb to rd. -/
  | scOr (h : BitVec 13) (n : Fin 123)
  /-- R75: Scalar core writes the bitwise exclusive or of ra and rb to rd. -/
  | scXor (h : BitVec 13) (n : Fin 123)
  /-- R75: Scalar core shifts ra left by rb[4:0]. -/
  | scShl (h : BitVec 13) (n : Fin 123)
  /-- R75: Scalar core shifts ra logically right by rb[4:0]. -/
  | scShr (h : BitVec 13) (n : Fin 123)
  /-- R75: Scalar core shifts ra arithmetically right by rb[4:0]. -/
  | scSra (h : BitVec 13) (n : Fin 123)
  /-- R75: Scalar core writes the low 32 bits of ra times rb. -/
  | scMul (h : BitVec 13) (n : Fin 123)
  /-- R75: Scalar core writes the high 32 bits of the unsigned product. -/
  | scMulhu (h : BitVec 13) (n : Fin 123)
  /-- R75: Scalar core sets rd to 1 if ra is less than rb signed. -/
  | scSlt (h : BitVec 13) (n : Fin 123)
  /-- R75: Scalar core sets rd to 1 if ra is less than rb unsigned. -/
  | scSltu (h : BitVec 13) (n : Fin 123)
  /-- R75: Scalar core writes the signed minimum. -/
  | scMin (h : BitVec 13) (n : Fin 123)
  /-- R75: Scalar core writes the signed maximum. -/
  | scMax (h : BitVec 13) (n : Fin 123)
  /-- R75: Scalar core writes the unsigned minimum. -/
  | scMinu (h : BitVec 13) (n : Fin 123)
  /-- R75: Scalar core writes the unsigned maximum. -/
  | scMaxu (h : BitVec 13) (n : Fin 123)
  /-- R75: Scalar core counts leading zeros of ra. -/
  | scClz (h : BitVec 13) (n : Fin 123)
  /-- R75: Scalar core counts set bits of ra. -/
  | scPopc (h : BitVec 13) (n : Fin 123)
  /-- R75: Scalar core adds a sign-extended immediate to ra. -/
  | scAddi (h : BitVec 13) (n : Fin 123)
  /-- R75: Scalar core ands ra with a zero-extended immediate. -/
  | scAndi (h : BitVec 13) (n : Fin 123)
  /-- R75: Scalar core ors ra with a zero-extended immediate. -/
  | scOri (h : BitVec 13) (n : Fin 123)
  /-- R75: Scalar core xors ra with a zero-extended immediate. -/
  | scXori (h : BitVec 13) (n : Fin 123)
  /-- R75: Scalar core shifts ra left by an immediate amount. -/
  | scShli (h : BitVec 13) (n : Fin 123)
  /-- R75: Scalar core shifts ra logically right by an immediate amount. -/
  | scShri (h : BitVec 13) (n : Fin 123)
  /-- R75: Scalar core loads the immediate shifted left by 14 into rd. -/
  | scLui (h : BitVec 13) (n : Fin 123)
  /-- R75: Scalar core extracts a bit field of ra into rd. -/
  | scBext (h : BitVec 13) (n : Fin 123)
  /-- R81: Scalar core computes the fixed multiplicative hash bucket of ra. -/
  | scHash (h : BitVec 13) (n : Fin 123)
  /-- R82: Scalar core performs one stage of a four-element sorting network. -/
  | scSort (h : BitVec 13) (n : Fin 123)
  /-- R75: Scalar core loads an aligned word from data memory. -/
  | scLd (h : BitVec 13) (n : Fin 123)
  /-- R75: Scalar core loads a zero-extended byte from data memory. -/
  | scLdb (h : BitVec 13) (n : Fin 123)
  /-- R75: Scalar core stores an aligned word to data memory. -/
  | scSt (h : BitVec 13) (n : Fin 123)
  /-- R75: Scalar core stores a byte to data memory. -/
  | scStb (h : BitVec 13) (n : Fin 123)
  /-- R75: Scalar core branches if ra equals rb, with the target checked at issue. -/
  | scBeq (h : BitVec 13) (n : Fin 123)
  /-- R75: Scalar core branches if ra differs from rb. -/
  | scBne (h : BitVec 13) (n : Fin 123)
  /-- R75: Scalar core branches if ra is less than rb signed. -/
  | scBlt (h : BitVec 13) (n : Fin 123)
  /-- R75: Scalar core branches if ra is greater than or equal to rb signed. -/
  | scBge (h : BitVec 13) (n : Fin 123)
  /-- R75: Scalar core branches if ra is less than rb unsigned. -/
  | scBltu (h : BitVec 13) (n : Fin 123)
  /-- R75: Scalar core branches if ra is greater than or equal to rb unsigned. -/
  | scBgeu (h : BitVec 13) (n : Fin 123)
  /-- R75: Scalar core saves PC + 1 and jumps by the immediate. -/
  | scJal (h : BitVec 13) (n : Fin 123)
  /-- R75: Scalar core jumps to the address in ra. -/
  | scJr (h : BitVec 13) (n : Fin 123)
  /-- R76: Scalar core issues a compare and swap on an own-HS word through engine 0. -/
  | scCas (h : BitVec 13) (n : Fin 123)
  /-- R76: Scalar core posts an atomic INT32 add to an own-HS word. -/
  | scAadd (h : BitVec 13) (n : Fin 123)
  /-- R77: Scalar core removes the head token of an input queue into rd and data memory. -/
  | scTake (h : BitVec 13) (n : Fin 123)
  /-- R78: Scalar core sends one token from data memory on an output queue. -/
  | scPut (h : BitVec 13) (n : Fin 123)
  /-- R79: Scalar core reads the header of a queue's head token without removing it. -/
  | scPeek (h : BitVec 13) (n : Fin 123)
  /-- R79: Scalar core reads the number of takeable tokens in a queue. -/
  | scQcnt (h : BitVec 13) (n : Fin 123)
  /-- R71: Scalar core issues a gather of one window element to a named queue. -/
  | scGath (h : BitVec 13) (n : Fin 123)
  /-- R75: Scalar core scatters a data-memory element to a window element. -/
  | scScat (h : BitVec 13) (n : Fin 123)
  /-- R75: Scalar core scatters an element as an atomic INT32 add. -/
  | scScata (h : BitVec 13) (n : Fin 123)
  /-- R75: Scalar core waits until its scatters and atomics have taken effect. -/
  | scFence (h : BitVec 13) (n : Fin 123)
  /-- R65: Scalar core begins a firing block with declared counts. -/
  | scBlk (h : BitVec 13) (n : Fin 123)
  /-- R65: Scalar core ends its firing block and releases unused room. -/
  | scEnd (h : BitVec 13) (n : Fin 123)
  /-- R83: Scalar core contributes a FLAG or SUM operand to a sync-tree channel. -/
  | scSync (h : BitVec 13) (n : Fin 123)
  /-- R88: Vector core issues NOP. -/
  | vcNop (h : BitVec 13) (n : Fin 4)
  /-- R88: Vector core adds va and vb per lane. -/
  | vadd (h : BitVec 13) (n : Fin 4)
  /-- R88: Vector core subtracts vb from va per lane. -/
  | vsub (h : BitVec 13) (n : Fin 4)
  /-- R88: Vector core multiplies va by vb per lane. -/
  | vmul (h : BitVec 13) (n : Fin 4)
  /-- R88: Vector core computes va times vb plus vc with one rounding. -/
  | vfma (h : BitVec 13) (n : Fin 4)
  /-- R88: Vector core writes the lane minimum with the NaN and signed-zero rules. -/
  | vmin (h : BitVec 13) (n : Fin 4)
  /-- R88: Vector core writes the lane maximum with the NaN and signed-zero rules. -/
  | vmax (h : BitVec 13) (n : Fin 4)
  /-- R88: Vector core compares lanes and writes a mask register. -/
  | vcmp (h : BitVec 13) (n : Fin 4)
  /-- R88: Vector core selects lanes from va or vb by a mask. -/
  | vsel (h : BitVec 13) (n : Fin 4)
  /-- R90: Vector core converts a group of 32 elements between formats. -/
  | vcvt (h : BitVec 13) (n : Fin 4)
  /-- R88: Vector core reduces enabled lanes by a fixed pairwise tree into lane 0. -/
  | vred (h : BitVec 13) (n : Fin 4)
  /-- R94: Vector core reduces a segment of n data tokens and sends the result row. -/
  | vsegr (h : BitVec 13) (n : Fin 4)
  /-- R98: Vector core approximates e^x per lane. -/
  | vexp (h : BitVec 13) (n : Fin 4)
  /-- R98: Vector core approximates ln x per lane. -/
  | vlog (h : BitVec 13) (n : Fin 4)
  /-- R98: Vector core approximates 1/x per lane. -/
  | vrcp (h : BitVec 13) (n : Fin 4)
  /-- R98: Vector core approximates 1/sqrt(x) per lane. -/
  | vrsq (h : BitVec 13) (n : Fin 4)
  /-- R98: Vector core approximates tanh x per lane. -/
  | vtanh (h : BitVec 13) (n : Fin 4)
  /-- R88: Vector core loads 32 B from local memory. -/
  | vld (h : BitVec 13) (n : Fin 4)
  /-- R88: Vector core stores 32 B to local memory. -/
  | vst (h : BitVec 13) (n : Fin 4)
  /-- R88: Vector core loads 32 B from the hearth store. -/
  | hld (h : BitVec 13) (n : Fin 4)
  /-- R88: Vector core stores 32 B to the hearth store. -/
  | hst (h : BitVec 13) (n : Fin 4)
  /-- R88: Vector core loads a word from local memory into an a-register. -/
  | ald (h : BitVec 13) (n : Fin 4)
  /-- R88: Vector core adds an immediate to an a-register. -/
  | aaddi (h : BitVec 13) (n : Fin 4)
  /-- R88: Vector core moves one 32-bit word of a vector register to an a-register. -/
  | amov (h : BitVec 13) (n : Fin 4)
  /-- R88: Vector core broadcasts an a-register to every lane. -/
  | vbcst (h : BitVec 13) (n : Fin 4)
  /-- R92: Vector core removes a token into a register pair, a7 and k3. -/
  | vtake (h : BitVec 13) (n : Fin 4)
  /-- R93: Vector core sends a token from a register pair. -/
  | vput (h : BitVec 13) (n : Fin 4)
  /-- R88: Vector core issues a gather of one window element to a named queue. -/
  | vgath (h : BitVec 13) (n : Fin 4)
  /-- R88: Vector core scatters one element from a register pair. -/
  | vscat (h : BitVec 13) (n : Fin 4)
  /-- R88: Vector core scatters one element as an atomic add. -/
  | vscata (h : BitVec 13) (n : Fin 4)
  /-- R88: Vector core branches if an a-register is zero. -/
  | bz (h : BitVec 13) (n : Fin 4)
  /-- R88: Vector core branches if an a-register is non-zero. -/
  | bnz (h : BitVec 13) (n : Fin 4)
  /-- R88: Vector core branches unconditionally. -/
  | jmp (h : BitVec 13) (n : Fin 4)
  /-- R88: Vector core decrements an a-register and branches while it is non-zero. -/
  | vcLoop (h : BitVec 13) (n : Fin 4)
  /-- R101: Vector core loads a step parameter entry into the parameter latch, waiting for VALID. -/
  | parm (h : BitVec 13) (n : Fin 4)
  /-- R344: Vector core applies one adaptive-moment update to a block of 32 parameters. -/
  | stepM (h : BitVec 13) (n : Fin 4)
  /-- R65: Vector core begins a firing block. -/
  | vcBlk (h : BitVec 13) (n : Fin 4)
  /-- R65: Vector core ends its firing block. -/
  | vcEnd (h : BitVec 13) (n : Fin 4)
  /-- R88: Vector core waits until its scatters and HS stores have taken effect. -/
  | vcFence (h : BitVec 13) (n : Fin 4)
  /-- R120: Sequencer starts an MC block, taking triggers, reserving room and initialising slots. -/
  | tile (h : BitVec 13)
  /-- R122: A loader fills one OBA half with a panel from HS, the transpose port or a queue. -/
  | loadA (h : BitVec 13)
  /-- R122: B loader fills one OBB half with a panel. -/
  | loadB (h : BitVec 13)
  /-- R124: Array runs the K steps of a tile product into an accumulator slot. -/
  | mma (h : BitVec 13)
  /-- R126: Drain unit converts accumulator rows and writes them to HS or a queue. -/
  | drain (h : BitVec 13)
  /-- R127: Sequencer sends one header-only token. -/
  | signal (h : BitVec 13)
  /-- R128: Sequencer repeats the preceding body with strides and flips. -/
  | mcLoop (h : BitVec 13)
  /-- R117: The MC block ends when every descriptor of it has completed and unused room is released. -/
  | mcBlockEnd (h : BitVec 13)
  /-- R180: A VSEGR, LOAD or DRAIN waiting inside a block resumes when data or room arrives. -/
  | inblockWaitResume (h : BitVec 13) (core : BitVec 7)
  /-- R178: A core outside a block starts the next ready block in dataflow firing. -/
  | blockStart (h : BitVec 13) (core : BitVec 7)
  /-- R184: At a static schedule entry's cycle the core starts the named block or raises a schedule fault. -/
  | schedEntryStart (h : BitVec 13) (core : BitVec 7)
  /-- R173: A token enters an input queue's router or spill part and is judged by generation. -/
  | tokenArrival (prod q : Nat)
  /-- R174: Spill controller moves the oldest spilled token into a freed router entry. -/
  | spillRefill (q : Nat)
  /-- R175: A unicast credit returns to its producer after the consumer takes a token. -/
  | creditReturn (q : Nat)
  /-- R189: A tree credit returns when a token has entered every target of the tree. -/
  | treeCreditReturn (t : Nat)
  /-- R188: A split router forwards an owed multicast token on a branch whose credit has returned. -/
  | replicationForward (t node : Nat)
  /-- R71: A request engine delivers a gather response or completes a scatter or atomic. -/
  | engineResponse (h : BitVec 13) (eng : Fin 4) (core : BitVec 7)
  /-- R236: A drain marker reaching a queue head is removed and may drain the queue. -/
  | markerRemove (q : Nat)
  /-- R193: A hearth stall counter reaching 65,536 raises STALL and freezes counters. -/
  | stallFault (h : BitVec 13) (levels : List (BitVec 13 × BitVec 17))
  /-- R196: The collier voids the step, returns to the last commit and reruns with the faulting microbatch voided. -/
  | coreFault
  /-- R58: An uncorrectable error, parity or router fault stops every core of a hearth. -/
  | hearthFault (fs : List (BitVec 13 × Fin 9))
  /-- R48: Scrub reads, corrects and writes back one hearth-store granule. -/
  | patrolScrubGranule (h : BitVec 13) (spare : Bool) (found : Fin 3)
  /-- R376: The tick generator issues a boundary, TICK_CNT rises and the sync tree delivers it. -/
  | tickBoundary (times : List (BitVec 13 × Fin 28 × BitVec 48)) (hbm eth : Fin 101)
  /-- R245: The collier compares group digests and bounds before the boundary of tick t + 2. -/
  | digestCompare
  /-- R289: A move finishes and the mover sends its completion token. -/
  | moveComplete (i : Nat)
  /-- R285: HBM controllers refresh in a reserved slot and serve no request. -/
  | refreshSlot
  /-- R295: A controller scrubs one burst of a channel in an idle cycle. -/
  | hbmScrubBurst (c : Fin 384) (found : Fin 4)
  /-- R296: An uncorrectable HBM burst returns zeros and is handled by its region. -/
  | hbmUe (a : BitVec 40) (found : Fin 3)
  /-- R298: After the copy the set map swaps at the next boundary and the set is retired. -/
  | hbmRetireCopyDone
  /-- R310: A staged or demand-fetched turf lands in its slot and waiting gathers are served. -/
  | turfLanded (t : BitVec 31)
  /-- R317: A dirty turf's write-back ends and the turf becomes clean. -/
  | turfWritebackDone (t : BitVec 31) (die : Fin 64)
  /-- R321: A failed turf read is rebuilt from its stripe or the turf is lost. -/
  | turfReadFail (t : BitVec 31) (d : Fin 64) (rebuilt : Bool)
  /-- R322: A retired flash die's turves are rebuilt and the die is powered down. -/
  | flashRebuildDone
  /-- R323: The peat tier's shut-down completes and any pending on request is applied. -/
  | peatOffDone
  /-- R24: The module casts its commit vote when the four commit conditions hold. -/
  | commitVoteCast
  /-- R327: At the boundary after holding every vote the module flips the side bit and starts the settle. -/
  | sideFlip
  /-- R338: The collier computes step parameters from summaries and writes entries with VALID last. -/
  | stepParamWrite
  /-- R350: The collier compares chosen working-copy blocks with their committed masters. -/
  | driftAudit
  /-- R364: An owner verifies a CONTRIB and adds it into LOC. -/
  | contribReceive (r : BitVec 12) (suite : BitVec 8) (ctr : BitVec 64) (body : Option (List Byte)) (bucket piece : BitVec 16) (chunk : BitVec 32)
  /-- R365: An owner with every contribution forms SUMSQ, samples and flag and sends summaries. -/
  | summaryMake (bucket : BitVec 16)
  /-- R366: A member receives a SUMMARY and holds it for the shared decision. -/
  | summaryReceive (r : BitVec 12) (suite : BitVec 8) (ctr : BitVec 64) (body : Option (List Byte)) (bucket : BitVec 16)
  /-- R369: A RESEND makes the sender send the named chunk or summary again. -/
  | resendReceive (r : BitVec 12) (suite : BitVec 8) (ctr : BitVec 64) (body : Option (List Byte)) (bucket piece : BitVec 16) (chunk : BitVec 32)
  /-- R371: A VOID for the current attempt voids the step and reruns it with attempt + 1. -/
  | voidReceive (r : BitVec 12) (suite : BitVec 8) (ctr : BitVec 64) (body : Option (List Byte))
  /-- R378: A PTP message disciplines the module clock and may lock or unlock it. -/
  | ptpMessageReceive (i : Fin 32) (domain : BitVec 8) (type : BitVec 4) (rank : BitVec 144) (ptp : Bool) (off : BitVec 64) (time : BitVec 63)
  /-- R447: Stopped Announces move synchronisation to another interface or start holdover. -/
  | ptpAnnounceTimeout (i : Fin 32)
  /-- R447: As leader the module sends Sync and Announce at its interval. -/
  | ptpSyncSend
  /-- R378: After 10 s of holdover the module departs and stops the cord. -/
  | holdoverEnd
  /-- R391: The Hub sends a remote token batch when 56 tokens wait or 2 µs pass. -/
  | batchSend (w : BitVec 16)
  /-- R392: The receiver returns freed window credits when SLOTS/4 gather or 4 µs pass. -/
  | creditBatchSend (n : BitVec 16) (exch : Bool)
  /-- R393: A receiver judges a token batch and injects its tokens into the target queue. -/
  | batchReceive (r : BitVec 12) (qp : BitVec 16) (suite : BitVec 8) (ctr : BitVec 64) (body : Option (List Byte))
  /-- R387: When all shards of a gather have landed the Hub sends a completion token. -/
  | gatherComplete (r : BitVec 12) (ctr : BitVec 64) (ent : BitVec 16) (off : BitVec 40) (body : Option (List Byte)) (last : Bool)
  /-- R405: A module checks its partner's HELLO and fills differing state. -/
  | helloReceive (r : BitVec 12) (suite : BitVec 8) (ctr : BitVec 64) (body : Option (List Byte))
  /-- R407: No HELLO within 10 s fails pairing and retries. -/
  | pairTimeout
  /-- R409: The partner lands a gradient chunk and may write the replay entry. -/
  | mgradReceive (r : BitVec 12) (suite : BitVec 8) (ctr : BitVec 64) (body : Option (List Byte))
  /-- R409: The partner receives a forwarded summary for its replay. -/
  | msumReceive (r : BitVec 12) (suite : BitVec 8) (ctr : BitVec 64) (body : Option (List Byte))
  /-- R410: A partner's MACK fulfils condition 4 of the commit vote. -/
  | mackReceive (r : BitVec 12) (suite : BitVec 8) (ctr : BitVec 64) (body : Option (List Byte))
  /-- R412: A module aggregates a child's VOTE and forwards or sends OUTCOME. -/
  | voteReceive (r : BitVec 12) (suite : BitVec 8) (ctr : BitVec 64) (body : Option (List Byte))
  /-- R412: A module forwards an OUTCOME and acts on it. -/
  | outcomeReceive (r : BitVec 12) (suite : BitVec 8) (ctr : BitVec 64) (body : Option (List Byte))
  /-- R414: The Hub computes shard digests and sends a DIGEST to its partner. -/
  | digestRound
  /-- R415: A module compares digest records and decides the authoritative copy. -/
  | digestReceive (r : BitVec 12) (suite : BitVec 8) (ctr : BitVec 64) (body : Option (List Byte))
  /-- R415: A module writes received STATE chunks into its committed state. -/
  | stateReceive (r : BitVec 12) (suite : BitVec 8) (ctr : BitVec 64) (body : Option (List Byte))
  /-- R427: The root gathers manifest entries and writes the manifest last. -/
  | ckdoneReceive (r : BitVec 12) (suite : BitVec 8) (ctr : BitVec 64) (body : Option (List Byte))
  /-- R417: A watcher records the sender's last heartbeat. -/
  | heartbeatReceive (r : BitVec 12) (suite : BitVec 8) (ctr : BitVec 64) (body : Option (List Byte))
  /-- R417: A watcher declares a sender lost four ticks after its last heartbeat. -/
  | lossBySilence (r : BitVec 12)
  /-- R420: A survivor stops the attempt, returns to the last commit and acts on the loss. -/
  | lossReceive (r : BitVec 12) (suite : BitVec 8) (ctr : BitVec 64) (body : Option (List Byte))
  /-- R418: A watcher receiving DEPART sends LOSS for the departing module. -/
  | departReceive (r : BitVec 12) (suite : BitVec 8) (ctr : BitVec 64) (body : Option (List Byte))
  /-- R442: A peer's new address list adds and drops paths. -/
  | addrsReceive (r : BitVec 12) (suite : BitVec 8) (ctr : BitVec 64) (body : Option (List Byte))
  /-- R434: An Ethernet frame is dispatched to its protocol or dropped and counted. -/
  | frameReceive (i : Fin 32) (f : List Byte)
  /-- R437: An interface comes up or goes down and paths are added or dropped. -/
  | linkChange (i : Fin 32) (up : Bool)
  /-- R438: A RoCEv2 packet is processed by its queue pair or answered with NAK. -/
  | rocePacketReceive (i : Fin 32) (qpn : BitVec 24) (op : BitVec 8) (pkey : BitVec 16) (psn : BitVec 24) (ce : Bool) (rkey : BitVec 32) (addr : BitVec 64) (len imm : BitVec 32) (syn : BitVec 8) (body : List Byte)
  /-- R440: A requester retransmits or enters the error state on ACK timeout. -/
  | ackTimeout (c path : BitVec 16)
  /-- R440: An RNR NAK timer expires and the operation is retried. -/
  | rnrRetry (c : BitVec 16)
  /-- R441: A PSN missing for 16 µs is requested by NAK and resent on another path. -/
  | psnGapTimeout (c : BitVec 16)
  /-- R444: A CNP halves the rate of its queue pair or path. -/
  | cnpReceive (c path : BitVec 16) (due : Bool)
  /-- R444: After 55 µs without CNP the rate rises by 10 Gb/s. -/
  | rateIncrease (c path : BitVec 16)
  /-- R445: A received PFC frame pauses or resumes a priority or is ignored. -/
  | pfcReceive (p prio : Fin 8) (pause : Bool)
  /-- R445: A priority's receive buffer share crossing 75 % or 50 % sends XOFF or XON. -/
  | pfcThreshold (p prio : Fin 8) (high : Bool)
  /-- R455: A doorbell WRITE with immediate sets a ring's TAIL. -/
  | dmaDoorbell (c : BitVec 16) (rkey tail : BitVec 32)
  /-- R458: A channel fetches and starts the next descriptor of a ring. -/
  | dmaDescriptorStart (c : Fin 32)
  /-- R458: A descriptor completes or fails, writes status, clears OWN and may notify. -/
  | dmaDescriptorComplete (c : Fin 32) (remote : RemoteIn)
  /-- R462: Every 1 µs the Hub samples a paced queue and pauses or resumes the channel. -/
  | dmaPaceSample (c : Fin 32)
  /-- R463: A channel's shut-down completes and a pending enable is applied. -/
  | dmaDisableDone (c : Fin 32) (units : BitVec 20) (remote : List Byte)
  /-- R453: The cord fetch of a STAGE ends and its RESULT is sent. -/
  | cordFetchDone (bytes : Option (List Byte))
  /-- R465: A KOP datagram is checked for size, tag and sequence and dispatched or dropped. -/
  | kopDatagramReceive (u : UdpIn) (pdu : List Byte) (frag tagOk : Bool)
  /-- R469: A client opens a session and the module grants a role. -/
  | openCmd (u : UdpIn) (pdu : List Byte) (svcOk : Bool)
  /-- R467: A client closes its session. -/
  | close (ses seq : BitVec 32)
  /-- R474: A client reads objects, clearing RCL values. -/
  | get (ses seq : BitVec 32)
  /-- R476: A SET writes objects that have no row of their own, all or none. -/
  | objectWrite (ses seq : BitVec 32) (kept : Bool)
  /-- R481: A client creates a value or event subscription. -/
  | subscribe (ses seq : BitVec 32)
  /-- R467: A client ends a subscription. -/
  | unsubscribe (ses seq : BitVec 32)
  /-- R471: A client acknowledges a NOTIFY or RESULT. -/
  | ack (ses seq : BitVec 32)
  /-- R467: A client holds its session open. -/
  | keepalive (ses seq : BitVec 32)
  /-- R469: A session without a verified PDU for 60 s is closed. -/
  | sessionTimeout (ses : BitVec 32)
  /-- R471: An unacknowledged NOTIFY or RESULT is resent after 20 ms or given up. -/
  | notifyRetransmit (ses seq : BitVec 32)
  /-- R481: A value subscription's period expires and a NOTIFY is sent. -/
  | subscriptionDelivery (ses : BitVec 32) (no : BitVec 16)
  /-- R453: Owner command fetches a cord into a staging slot. -/
  | stage (ses seq : BitVec 32)
  /-- R215: Owner command starts the loader's checks of a staged cord. -/
  | load (ses seq : BitVec 32)
  /-- R215: The loader ends its checks, rejudges the case and installs or rejects the cord. -/
  | loadChecksDone (sigOk : Bool)
  /-- R238: A drained hearth switches to the successor cord's generation. -/
  | hearthSwitch (h : BitVec 13)
  /-- R240: HANDOVER ticks pass without every hearth switching and both cords stop. -/
  | switchTimeout
  /-- R221: Owner command starts the installed cord at its start boundary. -/
  | start (ses seq : BitVec 32)
  /-- R480: Owner command stops the cord after it flips a given step. -/
  | stop (ses seq : BitVec 32)
  /-- R480: Owner command removes the installed cord. -/
  | unload (ses seq : BitVec 32)
  /-- R351: Owner command exports committed shard records. -/
  | exportCmd (ses seq : BitVec 32)
  /-- R353: Owner command imports shard records and sets step state. -/
  | importCmd (ses seq : BitVec 32)
  /-- R414: Owner command starts a shard digest round. -/
  | digestNow (ses seq : BitVec 32)
  /-- R418: Operator command declares a rank lost. -/
  | declareLost (ses seq : BitVec 32)
  /-- R424: Owner command names a replacement module for a lost rank. -/
  | replace (ses seq : BitVec 32)
  /-- R247: Owner command captures per-tick records into a host-visible region. -/
  | capture (ses seq : BitVec 32)
  /-- R449: Operator command creates a host queue pair. -/
  | hostQpCreate (ses seq : BitVec 32)
  /-- R448: Operator command frees a host queue pair's context. -/
  | hostQpDestroy (ses seq : BitVec 32)
  /-- R455: Operator command creates a DMA ring. -/
  | ringCreate (ses seq : BitVec 32)
  /-- R455: Operator command destroys a DMA ring. -/
  | ringDestroy (ses seq : BitVec 32)
  /-- R298: Service command retires an HBM channel's physical set. -/
  | hbmRetire (ses seq : BitVec 32)
  /-- R300: Service command returns a retired physical set to service. -/
  | hbmReturn (ses seq : BitVec 32)
  /-- R322: Service command retires a flash die. -/
  | flashDieRetire (ses seq : BitVec 32)
  /-- R564: Service command retires a physical column or returns a die to f = 64. -/
  | columnRetire (ses seq : BitVec 32) (fails : Bool)
  /-- R502: Command binds an unbound module to an owner key. -/
  | bind (ses seq : BitVec 32) (kept : Bool)
  /-- R504: Owner command zeroises and erases the owner binding. -/
  | unbind (ses seq : BitVec 32)
  /-- R511: Command returns a signed attestation report over a nonce. -/
  | attest (ses seq : BitVec 32)
  /-- R516: Owner command unwraps and sets the job key. -/
  | jobKeySet (ses seq : BitVec 32) (opens : Bool)
  /-- R523: Owner command destroys the job key. -/
  | jobKeyClear (ses seq : BitVec 32)
  /-- R519: Service command returns a debug nonce. -/
  | debugChallenge (ses seq : BitVec 32)
  /-- R519: Service command with two signatures zeroises and enters a debug state. -/
  | debugUnlock (ses seq : BitVec 32) (svcOk : Bool)
  /-- R519: Command zeroises and returns the module to production. -/
  | debugLock (ses seq : BitVec 32)
  /-- R520: Owner command zeroises the module's secrets and memories. -/
  | zeroise (ses seq : BitVec 32)
  /-- R500: Command fetches, verifies and writes a firmware pair to the inactive bank as trial. -/
  | fwUpdate (ses seq : BitVec 32)
  /-- R542: Owner or Service command resets the module as RESET_IN_N for 10 µs. -/
  | reset (ses seq : BitVec 32) (slot : BitVec 6) (feed : BitVec 3) (start : Fin 4) (fails : List (Fin 2 × Fin 64 × Fin 65))
  /-- R557: Service command opens boundary scan. -/
  | scanOpen (ses seq : BitVec 32)
  /-- R557: Service command closes boundary scan and restores functional drive. -/
  | scanClose (ses seq : BitVec 32)
  /-- R562: Service command self-tests a die and settles its column map. -/
  | selftestRun (ses seq : BitVec 32)
  /-- R566: Service command runs PRBS31 on a disabled port's lanes. -/
  | laneTest (ses seq : BitVec 32)
  /-- R269: A write of a die's setting requests a clock change at the next boundary. -/
  | dieSettingWrite (ses seq : BitVec 32) (kept : Bool)
  /-- R271: Writing DIE_RUN 0 drains and stops a die. -/
  | dieStop (ses seq : BitVec 32) (kept : Bool)
  /-- R271: Writing DIE_RUN 1 starts a stopped die. -/
  | dieStart (ses seq : BitVec 32) (kept : Bool)
  /-- R272: A die drain not finished in 1 ms is refused and the die keeps running. -/
  | dieDrainTimeout (d : Fin 2) (loc : BitVec 13)
  /-- R271: A die's stop completes and a pending start is applied. -/
  | dieStopDone (d : Fin 2)
  /-- R268: A ring access into a stopped die aborts after 2^20 Hub cycles. -/
  | ringReadAbort (ses seq elem : BitVec 32)
  /-- R261: A stop's urgent bit tells the Hub of a fault, stale event or dump. -/
  | ringUrgent (h : BitVec 13)
  /-- R266: An event enters a crossing FIFO or overruns it and is counted. -/
  | crossingEvent (f : Fin 3) (v : BitVec 32) (taken : Bool)
  /-- R323: Writing PEAT_EN requests the peat tier off or on. -/
  | peatEnWrite (ses seq : BitVec 32) (kept : Bool)
  /-- R379: Writing TICK_SRC changes the tick source or is refused with a cord installed. -/
  | tickSrcWrite (ses seq : BitVec 32) (kept : Bool)
  /-- R436: Writing PORT_EN enables or disables a port. -/
  | portEnWrite (ses seq : BitVec 32) (kept : Bool)
  /-- R436: Writing PORT_LAYOUT re-lays a port's interfaces. -/
  | portLayoutWrite (ses seq : BitVec 32) (kept : Bool)
  /-- R436: Writing LANE_MODE switches a port's lanes between KR and C2M. -/
  | laneModeWrite (ses seq : BitVec 32) (kept : Bool)
  /-- R446: Writing VLAN_ID retags an interface and bounces it. -/
  | vlanIdWrite (ses seq : BitVec 32) (kept : Bool)
  /-- R436: A port's shut-down completes and a pending enable is applied. -/
  | portDownDone (p : Fin 8)
  /-- R463: Writing DMA_EN enables or disables a DMA channel. -/
  | dmaEnWrite (ses seq : BitVec 32) (kept : Bool)
  /-- R508: The higher rank answers KEX1 with KEX2. -/
  | kex1Receive (k : List Byte)
  /-- R509: The lower rank checks KEX2 and sends KEX3. -/
  | kex2Receive (k : List Byte) (certOk sigOk : Bool)
  /-- R510: The higher rank checks KEX3, derives keys and sends a sealed confirmation. -/
  | kex3Receive (k : List Byte) (certOk sigOk : Bool)
  /-- R508: The confirmation verifies and the session opens. -/
  | kexConfirmReceive (r : BitVec 12) (ok : Bool)
  /-- R508: A KEX not complete in 2 s fails and is retried. -/
  | kexTimeout (r : BitVec 12)
  /-- R500: A trial boot not Damped in 60 s is reset into the former bank. -/
  | bootWatchdog (slot : BitVec 6) (feed : BitVec 3) (start : Fin 4) (fails : List (Fin 2 × Fin 64 × Fin 65))
  /-- R541: A collier core silent for 1 s resets the module. -/
  | collierWatchdog (slot : BitVec 6) (feed : BitVec 3) (start : Fin 4) (fails : List (Fin 2 × Fin 64 × Fin 65))
  /-- R540: A qualified input starts the module from Off through Kindling to Damped. -/
  | powerUp (mv : BitVec 17) (slot : BitVec 6) (feed : BitVec 3) (start : Fin 4) (fails : List (Fin 2 × Fin 64 × Fin 65))
  /-- R533: The input switch opens and the hold-up bus carries the load. -/
  | inputOutOfWindow (mv : BitVec 17)
  /-- R535: The input back in window closes the switch and recovers under the recovery cap. -/
  | inputReturn (mv low : BitVec 17) (us : BitVec 32)
  /-- R528: The input enters or leaves the derated class. -/
  | derateChange (mv : BitVec 17)
  /-- R528: An input surge of up to 10 ms is counted and run through. -/
  | surge (peak : BitVec 17) (us : BitVec 32)
  /-- R536: The bus at 50 V gates everything, sends DEPART, writes LOSS and goes Off. -/
  | lossProcedure (written : Bool)
  /-- R531: Every 10 µs the power loop sets the gate duty or setting against the cap. -/
  | powerLoopUpdate (inMv inMa w busMv : BitVec 17) (dN dS : Fin 257) (step : Bool)
  /-- R545: Every 100 µs sensors set thermal duty, settings and THERM_ALERT_N. -/
  | thermalSample (jN jS jHub hN hS : List (BitVec 12))
  /-- R539: A rail out of regulation for 100 µs enters Fault. -/
  | railFault
  /-- R539: Draining ends and the module enters Damped. -/
  | drainingComplete
  /-- R539: Draining not complete in 10 ms enters Fault with FLT_DRAIN. -/
  | drainTimeout
  /-- R541: RESET_IN_N asserted for 2 µs resets the module and holds it. -/
  | resetInAssert
  /-- R585: Release of RESET_IN_N latches straps and resumes boot. -/
  | resetInRelease (slot : BitVec 6) (feed : BitVec 3) (start : Fin 4) (fails : List (Fin 2 × Fin 64 × Fin 65))
  /-- R550: Every 60 s of powered time a SNAPSHOT record is written. -/
  | journalSnapshot (lanes : List (Fin 32 × BitVec 64 × BitVec 64))
  /-- R377: A rising PPS_IN edge is captured for tick or PTP alignment. -/
  | ppsInEdge
  /-- R563: Every 1,024 ticks one spare-column hearth is self-tested. -/
  | spareOnlineTest (failN failS : Bool)
  /-- R556: TRST_N resets the TAP controller only. -/
  | trst
  /-- R558: TAP instruction selecting the 1-bit bypass register. -/
  | bypass
  /-- R556: TAP instruction reading the IDCODE register. -/
  | idcode
  /-- R558: TAP instruction sampling and preloading the boundary register. -/
  | samplePreload (pins din : BitVec 147)
  /-- R558: TAP instruction driving pins from the boundary register. -/
  | extest (pins din : BitVec 147)
  /-- R558: TAP instruction pulsing AC lanes under IEEE 1149.6. -/
  | extestPulse (pins din : BitVec 147)
  /-- R558: TAP instruction toggling AC lanes at 5 MHz. -/
  | extestTrain (pins din : BitVec 147)
  /-- R558: TAP instruction holding pins from the boundary register with bypass selected. -/
  | clamp
  /-- R558: TAP instruction placing every output in high impedance. -/
  | highz
  /-- R558: TAP debug instruction freezing or releasing a hearth's cores. -/
  | hdbgHalt (h : BitVec 13)
  /-- R558: TAP debug instruction performing one ring READ or WRITE. -/
  | hdbgRing (addr : BitVec 32) (write : Bool) (data : BitVec 64)
  /-- R558: TAP debug instruction reading or writing one HBM burst. -/
  | hdbgHbm (addr : BitVec 40) (data : Option (BitVec 512))
  /-- R558: TAP instruction selecting a collier core's debug port. -/
  | collierDbg (n : BitVec 8)
  /-- R565: Recovery TAP instruction erasing bank 0 and appending image words. -/
  | fwLoad (words : List Word)
  /-- R565: Recovery TAP instruction verifying bank 0 and resetting into it. -/
  | fwCommit (sigOk : Bool) (slot : BitVec 6) (feed : BitVec 3) (start : Fin 4) (fails : List (Fin 2 × Fin 64 × Fin 65))
  /-- R271: A die's start completes within 2 ms: it reads running with every hearth parked, its HBM leaves self-refresh and the collier's reserved-area copy is restored. -/
  | dieStartDone (d : Fin 2)
  /-- R351: The export's last shard record has been read and sent, and the RESULT carries the final outcome. -/
  | exportDone
  /-- R353: Every fetched record has verified and the state is written, or a refusal ends the import, and the RESULT is sent. -/
  | importDone (man : List Byte) (manOk : Bool) (recs : List (List Byte × Bool))
  /-- R500: The fetched firmware pair has verified and is written to the inactive bank, which is marked trial. -/
  | fwStaged (img : Option (List Byte)) (sigOk : Bool)
  /-- R562: Self-test of the requested die ends and its outcome settles the column map or holds or releases the die. -/
  | selftestDone (fails : List (Fin 2 × Fin 64 × Fin 65))
  /-- R566: The PRBS31 lane test's SECONDS expire, or the next second boundary after a held enable arrives, and errored bits are reported. -/
  | laneTestDone (errs : List (Fin 4 × BitVec 64))
  /-- R520: HBM zeroing ends, a fresh peat key is drawn where the module stays bound, the marker is cleared and other sessions close. -/
  | zeroiseDone
  /-- R543: At each PTP second the module raises PPS_OUT for 100 ms while PTP_LOCKED is 1 or it is leader. -/
  | ppsOutPulse (on : Bool)
  /-- R380: Exchange slot j opens at j × T / NXS and the Hub resumes exchange, gather and mirror messages that waited for it. -/
  | exchangeSlotStart
  /-- R322: A flash program or erase operation ends in failure, is counted, and the 64th failure on a die retires it. -/
  | flashProgramFail (d : Fin 64)
deriving DecidableEq, Repr

end Sys2Proof
end

