-- ==== Sys2Proof/Config.lean ====
section
/-! DEFINITION. What the manual leaves open: values of no stated number (free values), the ciphers and hashes that the manual names but does not define bit by bit, and the random source. No constant here has a body, so that a proof can lean on no value of it. -/

namespace Sys2Proof

namespace Config

/-- A value the manual leaves open at one point of a run; the argument is the free-value counter of State (log entry 3). -/
opaque freeValue : Nat → Nat

/-- Draws of the Hub's entropy source (R166, R519, R520): the argument is the free-value counter of State (log entry 3). -/
opaque entropy : Nat → Nat

/-- The result an approximation instruction proposes (R98), by opcode and operand bits; used only where it lies within the bound of R98 (log entry 4). -/
opaque approx : Nat → Nat → Nat

/-- Blocks of a flash die (R320): the manual counts erases per block and gives no size of a block (log entry 74). -/
opaque flashBlocks : Nat

/-- Block of its die in which a flash location lies (R303, R320; log entry 74). -/
opaque blockOf : Nat → Nat

/-- Flash reads that a channel has under way at once, beyond one (R303, R311): the manual gives rates only (log entry 124). -/
opaque flashReads : Nat

/-- UDP source port of a context and path: a hash that the manual does not give (R439; log entry 125). -/
opaque srcPort : Nat → Nat → Nat

/-- Bytes of the segment directory and the residency index (R309), which the module writes in a form of its own: by HBM address and
what is resident (log entry 82). -/
opaque peatMeta : Nat → Nat → BitVec 8

/-- The bytes of the module's identity certificate, from the IK and AK points, MODULE_ID, part number and serial number that it holds
(R497), and those of the device authority's: the manual leaves the form to X.509 and the vendor (log entry 3). -/
opaque certOf : List Byte → List Byte → Nat → String → List Byte → List Byte
opaque caCert : List Byte

/-- The serial number (R489), fixed at manufacture (log entry 3). -/
opaque serial : List Byte

end Config

end Sys2Proof
end

