-- ==== Sys2Proof/Machine/Flags.lean ====
section
/-! DEFINITION. Numbers, number formats, rounding and the status flags they set (chapter 05: R136 to R164). Every value is an exact dyadic number until it is rounded once. -/

namespace Sys2Proof.Machine

/-- The arithmetic status bits of a vector core (R164). -/
structure Flg where
  nv  : Bool := false
  ovf : Bool := false
  sat : Bool := false
  uf  : Bool := false
deriving DecidableEq, Repr

/-- Flags collected from two places. -/
def Flg.or (a b : Flg) : Flg :=
  { nv := a.nv || b.nv, ovf := a.ovf || b.ovf, sat := a.sat || b.sat, uf := a.uf || b.uf }

/-- The status word [3:0] of a set of flags (R164). -/
def Flg.bits (f : Flg) : Nat := b2n f.nv + 2 * b2n f.ovf + 4 * b2n f.sat + 8 * b2n f.uf

/-- An exact number: a NaN, an infinity, or (-1)^neg * man * 2^ex with signed zero (R137). -/
inductive Num where
  | nan
  | inf (neg : Bool)
  | fin (neg : Bool) (man : Nat) (ex : Int)
deriving DecidableEq, Repr

/-- +0. -/
def Num.zero : Num := .fin false 0 0

/-- Number of bits of a natural number. -/
def bitLen (n : Nat) : Nat := if n = 0 then 0 else Nat.log2 n + 1

/-- The number n shifted left by a possibly negative amount, low bits dropped. -/
def shl (n : Nat) (k : Int) : Nat := if 0 ≤ k then n <<< k.toNat else n >>> (-k).toNat

/-- An exact number from an integer. -/
def Num.ofInt (z : Int) : Num := .fin (decide (z < 0)) z.natAbs 0

/-- The formats of R86, by name. -/
inductive Fmt where
  | fp32 | bf16 | fp16 | e4m3 | e5m2 | e3m2 | e2m3 | e2m1 | int8 | int32 | mq8l | mq8q
deriving DecidableEq, Repr

/-- Format codes of R86; 0xC to 0xF are reserved. -/
def Fmt.ofCode : Nat → Option Fmt
  | 0 => some .fp32 | 1 => some .bf16 | 2 => some .fp16 | 3 => some .e4m3
  | 4 => some .e5m2 | 5 => some .e3m2 | 6 => some .e2m3 | 7 => some .e2m1
  | 8 => some .int8 | 9 => some .int32 | 10 => some .mq8l | 11 => some .mq8q
  | _ => none

/-- Width in bits of one element (R136, R139, R145, R146). -/
def Fmt.width : Fmt → Nat
  | .fp32 => 32 | .bf16 => 16 | .fp16 => 16 | .e4m3 => 8 | .e5m2 => 8 | .e3m2 => 6
  | .e2m3 => 6 | .e2m1 => 4 | .int8 => 8 | .int32 => 32 | .mq8l => 8 | .mq8q => 8

/-- Exponent bits (R136); 0 for the formats that are not floating-point. -/
def Fmt.eb : Fmt → Nat
  | .fp32 => 8 | .bf16 => 8 | .fp16 => 5 | .e4m3 => 4 | .e5m2 => 5 | .e3m2 => 3 | .e2m3 => 2
  | .e2m1 => 2 | _ => 0

/-- Mantissa bits (R136). -/
def Fmt.mb : Fmt → Nat
  | .fp32 => 23 | .bf16 => 7 | .fp16 => 10 | .e4m3 => 3 | .e5m2 => 2 | .e3m2 => 2 | .e2m3 => 3
  | .e2m1 => 1 | _ => 0

/-- Exponent bias (R136). -/
def Fmt.bias : Fmt → Int
  | .fp32 => 127 | .bf16 => 127 | .fp16 => 15 | .e4m3 => 7 | .e5m2 => 15 | .e3m2 => 3
  | .e2m3 => 1 | .e2m1 => 1 | _ => 0

/-- Formats whose all-ones exponent encodes infinity and NaN (R136). -/
def Fmt.ieee : Fmt → Bool
  | .fp32 | .bf16 | .fp16 | .e5m2 => true
  | _ => false

/-- Bits of the largest finite magnitude (R136). -/
def Fmt.maxBits : Fmt → Nat
  | .fp32 => 0x7F7FFFFF | .bf16 => 0x7F7F | .fp16 => 0x7BFF | .e4m3 => 0x7E | .e5m2 => 0x7B
  | .e3m2 => 0x1F | .e2m3 => 0x1F | .e2m1 => 7 | _ => 0

/-- Exponent of the largest finite element (R142). -/
def Fmt.emax : Fmt → Int
  | .e4m3 => 8 | .e5m2 => 15 | .e3m2 => 4 | .e2m3 => 2 | .e2m1 => 2 | _ => 0

/-- Canonical NaN (R138). -/
def Fmt.nanBits : Fmt → Nat
  | .fp32 => 0x7FC00000 | .bf16 => 0x7FC0 | .fp16 => 0x7E00 | .e4m3 => 0x7F | .e5m2 => 0x7E
  | _ => 0

/-- Floating-point formats. -/
def Fmt.isFloat : Fmt → Bool
  | .int8 | .int32 | .mq8l | .mq8q => false
  | _ => true

/-- Formats that always carry a shared scale (R157). -/
def Fmt.alwaysScaled : Fmt → Bool
  | .e3m2 | .e2m3 | .e2m1 | .mq8l | .mq8q => true
  | _ => false

/-- FP8 formats, scaled or unscaled. -/
def Fmt.isFp8 : Fmt → Bool
  | .e4m3 | .e5m2 => true
  | _ => false

/-- The finite magnitude that bits (sign removed) of a floating-point format encode (R137). -/
def Fmt.mag (f : Fmt) (bits : Nat) : Nat × Int :=
  let e := slice bits (f.mb + f.eb - 1) f.mb
  let m := bits % 2 ^ f.mb
  if e = 0 then (m, 1 - f.bias - f.mb) else (2 ^ f.mb + m, (e : Int) - f.bias - f.mb)

/-- Decoding of one element with scale 2^0 (R136, R137, R139, R145, R146). -/
def Fmt.dec (f : Fmt) (bits : Nat) : Num :=
  match f with
  | .int8 => .ofInt (sext 8 bits)
  | .int32 => .ofInt (sext 32 bits)
  | .mq8l => let z := sext 8 bits; .fin (decide (z < 0)) z.natAbs (-6)
  | .mq8q => let r := bits % 256; .fin false (r * r) (-14)
  | _ =>
    let neg := bits.testBit (f.width - 1)
    let e := slice bits (f.mb + f.eb - 1) f.mb
    let m := bits % 2 ^ f.mb
    if f.ieee ∧ e + 1 = 2 ^ f.eb then (if m = 0 then .inf neg else .nan)
    else if f = .e4m3 ∧ e = 15 ∧ m = 7 then .nan
    else let p := f.mag bits; .fin neg p.1 p.2

/-- FP32 decoding. -/
def f32 (w : Word) : Num := Fmt.dec .fp32 w.toNat

/-- Multiplication by a power of two: exact (R141). -/
def Num.scale (k : Int) : Num → Num
  | .fin s m e => .fin s m (e + k)
  | x => x

/-- Decoding under a shared scale (R140, R141, R145, R146): `none` is no scale, taken as 2^0. -/
def Fmt.decScaled (f : Fmt) (x : Option Nat) (bits : Nat) : Num :=
  match x with
  | none => f.dec bits
  | some x =>
    if x % 256 = 255 then .nan
    else
      let k : Int := (x % 256 : Nat) - (127 : Int)
      (f.dec bits).scale (if f = .mq8q then 2 * k else k)

/-! ### Exact arithmetic -/

def Num.isNan : Num → Bool
  | .nan => true
  | _ => false

def Num.isFin : Num → Bool
  | .fin .. => true
  | _ => false

def Num.neg : Num → Num
  | .nan => .nan
  | .inf s => .inf (!s)
  | .fin s m e => .fin (!s) m e

/-- The signed mantissa. -/
def sgn (s : Bool) (m : Nat) : Int := if s then -(m : Int) else m

/-- Exact sum of two finite numbers; an exact zero of unlike signs is +0 (IEEE 754, all modes but downward). -/
def addFin (s1 : Bool) (m1 : Nat) (e1 : Int) (s2 : Bool) (m2 : Nat) (e2 : Int) : Num :=
  let e := min e1 e2
  let z := sgn s1 (shl m1 (e1 - e)) + sgn s2 (shl m2 (e2 - e))
  if z = 0 then .fin (s1 && s2) 0 0 else .fin (decide (z < 0)) z.natAbs e

/-- Exact sum, with the NV flag of R164. -/
def Num.add : Num → Num → Num × Bool
  | .nan, _ => (.nan, false)
  | _, .nan => (.nan, false)
  | .inf a, .inf b => if a = b then (.inf a, false) else (.nan, true)
  | .inf a, _ => (.inf a, false)
  | _, .inf b => (.inf b, false)
  | .fin s1 m1 e1, .fin s2 m2 e2 => (addFin s1 m1 e1 s2 m2 e2, false)

/-- Exact product, with the NV flag of R164. -/
def Num.mul : Num → Num → Num × Bool
  | .nan, _ => (.nan, false)
  | _, .nan => (.nan, false)
  | .inf a, .inf b => (.inf (a != b), false)
  | .inf a, .fin b m _ => if m = 0 then (.nan, true) else (.inf (a != b), false)
  | .fin b m _, .inf a => if m = 0 then (.nan, true) else (.inf (a != b), false)
  | .fin s1 m1 e1, .fin s2 m2 e2 => (.fin (s1 != s2) (m1 * m2) (e1 + e2), false)

/-- Sign of the difference of two numbers that are not NaN: -1, 0 or 1; the two zeros are equal. -/
def Num.cmp : Num → Num → Int
  | .inf a, .inf b => if a = b then 0 else if a then -1 else 1
  | .inf a, _ => if a then -1 else 1
  | _, .inf b => if b then 1 else -1
  | .fin s1 m1 e1, .fin s2 m2 e2 =>
    let e := min e1 e2
    let z := sgn s1 (shl m1 (e1 - e)) - sgn s2 (shl m2 (e2 - e))
    z.sign
  | _, _ => 0

/-! ### Rounding -/

/-- A resolved rounding mode (R150); a stochastic rounding carries its 16 random bits. -/
inductive Rnd where
  | rne
  | rz
  | sto (r : Nat)
deriving DecidableEq, Repr

/-- A magnitude man * 2^ex rounded to a whole number of quanta 2^q (R150). -/
def roundQ (rd : Rnd) (man : Nat) (ex q : Int) : Nat :=
  if q ≤ ex then man <<< (ex - q).toNat
  else
    let k := (q - ex).toNat
    let n := man >>> k
    let rem := man % 2 ^ k
    match rd with
    | .rne => if 2 * rem > 2 ^ k ∨ (2 * rem = 2 ^ k ∧ n % 2 = 1) then n + 1 else n
    | .rz => n
    | .sto r => if r % 65536 < (65536 * rem) / 2 ^ k then n + 1 else n

/-- True where man * 2^ex is greater than a magnitude m2 * 2^e2. -/
def magGt (man : Nat) (ex : Int) (m2 : Nat) (e2 : Int) : Bool :=
  let e := min ex e2
  decide (shl man (ex - e) > shl m2 (e2 - e))

/-- True where man * 2^ex is at least m2 * 2^e2. -/
def magGe (man : Nat) (ex : Int) (m2 : Nat) (e2 : Int) : Bool := !(magGt m2 e2 man ex)

/-- One rounding of a finite number into a floating-point format (R149, R150). `clamp` is the scaled
destination of R142, which never holds an infinity made from finite values. -/
def encFin (f : Fmt) (clamp : Bool) (rd : Rnd) (neg : Bool) (man : Nat) (ex : Int) : Nat × Flg :=
  let sb := if neg then 2 ^ (f.width - 1) else 0
  if man = 0 then (sb, {})
  else
    let top := f.mag f.maxBits
    if magGt man ex top.1 top.2 then
      -- the overflow threshold is the largest finite value plus half a unit of its binade
      if f.ieee ∧ ¬ clamp ∧ rd ≠ .rz ∧ magGe man ex (2 * top.1 + 1) (top.2 - 1) then
        (sb + f.maxBits + 1, { ovf := true })
      else (sb + f.maxBits, { sat := true })
    else
      let qmin : Int := 1 - f.bias - f.mb
      let q := max (ex + bitLen man - 1 - f.mb) qmin
      let n := roundQ rd man ex q
      let bits := ((q - qmin).toNat <<< f.mb) + n
      (sb + bits, { uf := decide (n = 0) })

/-- One rounding of an integer into two's complement of `w` bits, clamped (R149, R157). -/
def encInt (w : Nat) (rd : Rnd) : Num → Nat × Flg
  | .nan => (0, { nv := true })
  | .inf neg => (if neg then 2 ^ (w - 1) else 2 ^ (w - 1) - 1, {})
  | .fin neg man ex =>
    let n := roundQ rd man ex 0
    let uf := decide (n = 0 ∧ man ≠ 0)
    if neg then
      if n > 2 ^ (w - 1) then (2 ^ (w - 1), { sat := true }) else ((2 ^ w - n) % 2 ^ w, { uf := uf })
    else if n ≥ 2 ^ (w - 1) then (2 ^ (w - 1) - 1, { sat := true }) else (n, { uf := uf })

/-- One rounding into an unscaled format (R149, R150). -/
def Fmt.enc (f : Fmt) (rd : Rnd) (x : Num) : Nat × Flg :=
  match f with
  | .int8 => encInt 8 rd x
  | .int32 => encInt 32 rd x
  | _ =>
    match x with
    | .nan => (f.nanBits, {})
    | .inf neg =>
      if f.ieee then ((if neg then 2 ^ (f.width - 1) else 0) + f.maxBits + 1, {})
      else (f.nanBits, { nv := true })
    | .fin neg man ex => encFin f false rd neg man ex

/-- Rounding to FP32, to nearest even. -/
def rn32 (x : Num) : Word := BitVec.ofNat 32 (Fmt.enc .fp32 .rne x).1

/-- FP32 addition to nearest even: the hearth store's atomic add (R44), the sync tree's SUM (R262). -/
def f32add (a b : Word) : Word := rn32 ((f32 a).add (f32 b)).1

/-- FP32 multiplication to nearest even. -/
def f32mul (a b : Word) : Word := rn32 ((f32 a).mul (f32 b)).1

/-- FP32 fused multiply and add to nearest even. -/
def f32fma (a b c : Word) : Word := rn32 ((((f32 a).mul (f32 b)).1).add (f32 c)).1

/-- a / b as a magnitude with `k` more bits than needed for one correct rounding, the lowest a sticky bit. -/
def divMag (m1 : Nat) (e1 : Int) (m2 : Nat) (e2 : Int) : Nat × Int :=
  let k := 64 + bitLen m2
  let n := m1 <<< k
  let q := n / m2
  (2 * q + (if n % m2 = 0 then 0 else 1), e1 - e2 - k - 1)

/-- Integer square root of n below 4^k, by k bits from the top. -/
def isqrtAux (n : Nat) : Nat → Nat → Nat
  | 0, r => r
  | k + 1, r => let c := r + 2 ^ k; if c * c ≤ n then isqrtAux n k c else isqrtAux n k r

/-- Integer square root. -/
def isqrt (n : Nat) : Nat := isqrtAux n (bitLen n / 2 + 1) 0

/-- Square root of a magnitude, with a sticky lowest bit. -/
def sqrtMag (m : Nat) (e : Int) : Nat × Int :=
  let k : Nat := if (e % 2 = 0) then 128 else 129
  let n := m <<< k
  let r := isqrt n
  (2 * r + (if r * r = n then 0 else 1), (e - k) / 2 - 1)

/-- Exact quotient for one rounding, with the NV flag. -/
def Num.div : Num → Num → Num × Bool
  | .nan, _ => (.nan, false)
  | _, .nan => (.nan, false)
  | .inf _, .inf _ => (.nan, true)
  | .inf a, .fin b _ _ => (.inf (a != b), false)
  | .fin a _ _, .inf b => (.fin (a != b) 0 0, false)
  | .fin a m1 e1, .fin b m2 e2 =>
    if m2 = 0 then (if m1 = 0 then (.nan, true) else (.inf (a != b), false))
    else let p := divMag m1 e1 m2 e2; (.fin (a != b) p.1 p.2, false)

/-- Exact square root for one rounding, with the NV flag; the root of -0 is -0. -/
def Num.sqrt : Num → Num × Bool
  | .nan => (.nan, false)
  | .inf s => if s then (.nan, true) else (.inf false, false)
  | .fin s m e =>
    if m = 0 then (.fin s 0 0, false)
    else if s then (.nan, true)
    else let p := sqrtMag m e; (.fin false p.1 p.2, false)

/-- FP32 division to nearest even. -/
def f32div (a b : Word) : Word := rn32 ((f32 a).div (f32 b)).1

/-- FP32 square root to nearest even. -/
def f32sqrt (a : Word) : Word := rn32 (f32 a).sqrt.1

/-! ### Lane minimum, maximum and comparison (R88) -/

/-- Minimum: a NaN yields the other operand; -0 counts as less than +0. -/
def Num.lmin (a b : Num) : Num :=
  if a.isNan then b else if b.isNan then a
  else
    let c := a.cmp b
    if c < 0 then a else if c > 0 then b
    else match a with
      | .fin true _ _ => a
      | _ => b

/-- Maximum, with the NaN rule and the signed-zero order of the minimum. -/
def Num.lmax (a b : Num) : Num :=
  if a.isNan then b else if b.isNan then a
  else
    let c := a.cmp b
    if c > 0 then a else if c < 0 then b
    else match a with
      | .fin true _ _ => b
      | _ => a

/-- A comparison of VCMP: 0 equal, 1 less, 2 less or equal, 3 not equal; a NaN makes all but the last false. -/
def Num.lcmp (cond : Nat) (a b : Num) : Bool :=
  if a.isNan || b.isNan then decide (cond = 3)
  else
    let c := a.cmp b
    match cond with
    | 0 => decide (c = 0)
    | 1 => decide (c < 0)
    | 2 => decide (c ≤ 0)
    | _ => decide (c ≠ 0)

/-! ### The generator of stochastic rounding (R152) -/

def rotl (x : Word) (n : Nat) : Word := (x <<< n) ||| (x >>> (32 - n))

/-- One round of the generator on (a, b, k). -/
def srRound (s : Word × Word × Word) : Word × Word × Word :=
  let a := s.1 * 0x2C1B3C6D#32 + s.2.2
  let b := s.2.1 ^^^ rotl a 13
  let a := a ^^^ (b >>> 7)
  (a, b, s.2.2 + 0x6A5D39E9#32)

/-- The 16 random bits of an element (R152). -/
def srBits (shard step elem : Word) (purpose : Nat) : Nat :=
  let s0 : Word × Word × Word := (elem, step ^^^ BitVec.ofNat 32 (purpose <<< 24), shard)
  let s := srRound (srRound (srRound (srRound (srRound (srRound s0)))))
  (s.1 ^^^ s.2.1).toNat >>> 16

/-! ### Groups of 32 elements (R141 to R148) -/

/-- floor(log2) of a finite non-zero magnitude. -/
def flog2 (m : Nat) (e : Int) : Int := e + bitLen m - 1

/-- The largest magnitude of a group of finite numbers. -/
def grpMax : List Num → Nat × Int
  | [] => (0, 0)
  | .fin _ m e :: t => let p := grpMax t; if magGt m e p.1 p.2 then (m, e) else p
  | _ :: t => grpMax t

/-- Clamp of a scale exponent to an E8M0 byte 0 to 254. -/
def clampX (k : Int) : Nat := if k < 0 then 0 else if k > 254 then 254 else k.toNat

/-- The scale of a scaled FP8, FP6 or FP4 group (R142). -/
def scaleOf (f : Fmt) (l : List Num) : Nat :=
  let p := grpMax l
  if p.1 = 0 then 0 else clampX (flog2 p.1 p.2 - f.emax + 127)

/-- The scale of an MQ8 group from its largest magnitude or root (R147). -/
def scaleMq (p : Nat × Int) : Nat := if p.1 = 0 then 0 else clampX (flog2 p.1 p.2 + 127)

/-- One MQ8-L element under scale x (R147, R148). -/
def encMqL (x : Nat) (rd : Rnd) : Num → Nat × Flg
  | .fin neg m e =>
    let n := roundQ rd m (e + 6 - ((x : Int) - 127)) 0
    let c := if n > 127 then 127 else n
    ((if neg then (256 - c) % 256 else c), { sat := decide (n > 127), uf := decide (n = 0 ∧ m ≠ 0) })
  | _ => (0, {})

/-- One MQ8-Q element, from its root, under scale x (R147, R148). `neg` marks a value below zero, which is clamped to
r = 0: that sets SAT and not UF (log entry 117). -/
def encMqQ (x : Nat) (rd : Rnd) (neg : Bool) : Num → Nat × Flg
  | .fin _ m e =>
    if neg then (0, { sat := true })
    else
      let n := roundQ rd m (e + 7 - ((x : Int) - 127)) 0
      let c := if n > 255 then 255 else n
      (c, { sat := decide (n > 255), uf := decide (n = 0 ∧ m ≠ 0) })
  | _ => (0, {})

/-- The FP32 root of an MQ8-Q value, and whether the value lies below zero (R147, R148). -/
def mqRoot : Num → Num × Bool
  | .fin neg m e => if m = 0 then (.zero, false) else if neg then (.zero, true)
                    else (f32 (rn32 (Num.fin false m e).sqrt.1), false)
  | x => (x, false)

/-- A group that holds a NaN or an infinity (R143). -/
def grpBad (l : List Num) : Bool := l.any fun x => !x.isFin

/-- Encodings of the values of a scaled group, each with its own rounding: (scale, element and flags per value). -/
def encGroup (f : Fmt) (l : List (Num × Rnd)) : Nat × List (Nat × Flg) :=
  let vals := l.map Prod.fst
  if grpBad vals then (255, l.map fun _ => (0, {}))
  else
    match f with
    | .mq8l =>
      let x := scaleMq (grpMax vals)
      (x, l.map fun p => encMqL x p.2 p.1)
    | .mq8q =>
      let x := scaleMq (grpMax (vals.map fun v => (mqRoot v).1))
      (x, l.map fun p => let r := mqRoot p.1; encMqQ x p.2 r.2 r.1)
    | _ =>
      let x := scaleOf f vals
      (x, l.map fun p =>
        match p.1 with
        | .fin neg m e => encFin f true p.2 neg m (e - ((x : Int) - 127))
        | _ => (0, {}))

/-! ### Elementary functions to more than 200 bits (R98) -/

/-- Bits of the fixed-point numbers below. -/
def fx : Nat := 256

/-- ln 2 in fixed point of 256 bits. -/
def ln2Fx : Nat := 0xb17217f7d1cf79abc9e3b39803f2f6af40f343267298b62d8a0d175b8baafa2b

/-- Sum of t^i / i! from i = n upward, Horner form, fixed point, for a t below 1. -/
def expSeries (t : Nat) : Nat → Nat → Nat
  | 0, _ => 2 ^ fx
  | fuel + 1, i => 2 ^ fx + (t * expSeries t fuel (i + 1)) / (i * 2 ^ fx)

/-- e^(neg ? -x : x) for x = m * 2^e, as a magnitude (mantissa of about 256 bits, exponent). -/
def expMag (neg : Bool) (m : Nat) (e : Int) : Nat × Int :=
  let t := shl m (e + fx)
  let k := t / ln2Fx
  let r := t % ln2Fx
  if neg then
    -- e^-t = 2^-(k+1) * e^(ln2 - r)
    (expSeries (ln2Fx - r) 70 1, -(k : Int) - 1 - fx)
  else (expSeries r 70 1, (k : Int) - fx)

/-- Sum of z^(2i) / (2i+1), fixed point. -/
def atanhSeries (z2 : Nat) : Nat → Nat → Nat
  | 0, _ => 0
  | fuel + 1, i => 2 ^ fx / (2 * i + 1) + (z2 * atanhSeries z2 fuel (i + 1)) / 2 ^ fx

/-- ln of a positive magnitude, exact to about 250 bits: sign, mantissa, exponent. -/
def lnMag (m : Nat) (e : Int) : Bool × Nat × Int :=
  let b := bitLen m
  let k : Int := e + b - 1
  let y := shl m ((fx : Int) - b + 1)
  let z := ((y - 2 ^ fx) * 2 ^ fx) / (y + 2 ^ fx)
  let s := 2 * ((z * atanhSeries (z * z / 2 ^ fx) 90 0) / 2 ^ fx)
  let v : Int := k * ln2Fx + s
  (decide (v < 0), v.natAbs, -(fx : Int))

/-- tanh of a positive magnitude below 16. -/
def tanhMag (m : Nat) (e : Int) : Nat × Int :=
  let p := expMag false m (e + 1)
  -- (E - 1) / (E + 1) with E = p.1 * 2^p.2
  let u := shl p.1 (p.2 + fx)
  let q := ((u - 2 ^ fx) * 2 ^ fx) / (u + 2 ^ fx)
  (q, -(fx : Int))

end Sys2Proof.Machine
end

