-- ==== Sys2Proof/Machine/Float.lean ====
section
/-! DEFINITION. FP32 arithmetic of the collier (R341, R343) and binary64 of the exchange (R363, R365, R366). -/

namespace Sys2Proof.Machine

/-- FP32 negation and subtraction, the latter rounded to nearest even. -/
def f32neg (a : Word) : Word := a ^^^ 0x80000000#32
def f32sub (a b : Word) : Word := f32add a (f32neg b)

/-- (float) of a natural number, rounded to nearest even. -/
def f32ofNat (n : Nat) : Word := rn32 (.fin false n 0)

/-- A ratio of two numbers in FP32, rounded to nearest even. -/
def f32ratio (n : Int) (d : Nat) : Word := rn32 (Num.div (Num.ofInt n) (Num.ofInt d)).1

/-- a < b, false where either is a NaN. -/
def f32lt (a b : Word) : Bool :=
  match f32 a, f32 b with
  | .nan, _ => false
  | _, .nan => false
  | x, y => decide (x.cmp y < 0)

/-- The larger and the smaller of two values that are not NaN. -/
def f32max (a b : Word) : Word := if f32lt a b then b else a
def f32min (a b : Word) : Word := if f32lt b a then b else a

/-- A NaN or an infinity. -/
def f32nonfin (a : Word) : Bool := slice a.toNat 30 23 = 255

/-- 1.0 in FP32. -/
def f32one : Word := 0x3F800000#32

/-- The value of binary64 bits. -/
def f64 (w : BitVec 64) : Num :=
  let b := w.toNat
  let neg := b.testBit 63
  let e := slice b 62 52
  let m := slice b 51 0
  if e = 2047 then (if m = 0 then .inf neg else .nan)
  else if e = 0 then .fin neg m (-1074)
  else .fin neg (2 ^ 52 + m) ((e : Int) - 1075)

/-- Rounding to binary64, to nearest even; the canonical NaN is the quiet one without payload. -/
def rn64 : Num → BitVec 64
  | .nan => 0x7FF8000000000000#64
  | .inf neg => if neg then 0xFFF0000000000000#64 else 0x7FF0000000000000#64
  | .fin neg man ex =>
    let s := if neg then 2 ^ 63 else 0
    if man = 0 then BitVec.ofNat 64 s
    else
      let q := max (ex + bitLen man - 1 - 52) (-1074)
      let n := roundQ .rne man ex q
      let b := ((q + 1074).toNat <<< 52) + n
      BitVec.ofNat 64 (s + if 2047 * 2 ^ 52 ≤ b then 2047 * 2 ^ 52 else b)

/-- Binary64 addition, and the sum of a running SUMSQ with the square of an FP32 element, each rounded to nearest even (R365). -/
def f64add (a b : BitVec 64) : BitVec 64 := rn64 ((f64 a).add (f64 b)).1
def f64addSq (a : BitVec 64) (w : Word) : BitVec 64 := f64add a (rn64 ((f32 w).mul (f32 w)).1)

/-- Binary64 to FP32 under RNE (R366). -/
def f64to32 (a : BitVec 64) : Word := rn32 (f64 a)

end Sys2Proof.Machine
end

