-- ==== Sys2Proof/Machine/State.lean ====
section
/-! DEFINITION. The state of the module as plain data: every register, memory, queue, buffer, counter, mode and pin that the manual names, and the queue of waiting commands; the fault and refusal reasons; the state right after reset. The value each field has at reset is its default here. -/

namespace Sys2Proof.Machine

/-- Reasons to stop with a fault. No command of this model stops so: a core fault, a hearth fault and a module fault are effects on the state (R196, R58, R539). Safe. -/
inductive Fault where
  /-- Never raised: the type needs an inhabitant. Safe. -/
  | none
deriving DecidableEq, Repr

/-- Reasons to refuse a command. A refusal by the module itself (R18) is an effect on the state, never one of these. Safe. -/
inductive Refusal where
  /-- Raised by Dispatch for a command whose meaning is not written yet. Safe. -/
  | notModelled (mnemonic : String)
deriving DecidableEq, Repr

/-! ### Tables and the grid -/

/-- A sparse table keyed by number: keys rise, no entry holds the value an unlisted key reads as. -/
abbrev Tbl (α : Type) := List (Nat × α)

/-- A token (R168, R169): the header by its fields, and 0 to 16 payload words. -/
structure Token where
  seq   : BitVec 20 := 0
  eot   : Bool := false
  mask  : Bool := false
  tag   : BitVec 6 := 0
  gen   : BitVec 2 := 0
  words : List Word := []
deriving DecidableEq, Repr

/-- A token held in an input queue or on its way to one: its producer (R176), and, for a tick-staged queue, whether a
boundary has made it visible (R227). -/
structure QTok where
  tok  : Token := {}
  prod : Nat := 0
  vis  : Bool := true
deriving DecidableEq, Repr

/-- An input queue (R172, R173): the router part, oldest first; the spill part, oldest first (header and payload of a
spilled token lie in the hearth store under R50; its length, R169, and producer are kept here); the declared spill
depth; tick-staged (R192); the unicast credits free (R175); the credits on their way back; the tokens that have entered
the spill part (R50); the producers whose marker has been removed (R236). -/
structure InQ where
  router  : List QTok := []
  spill   : List QTok := []
  depth   : Nat := 0
  staged  : Bool := false
  credit  : Nat := 16
  back    : Nat := 0
  spillNo : Nat := 0
  markers : List Nat := []
deriving DecidableEq, Repr

/-- What an output queue is bound to (R172, R210): an input queue, a multicast tree, a remote window. -/
inductive Bind where
  | none
  | unicast (q : Nat) (express : Bool)
  | tree (t : Nat)
  | remote (w : Nat)
deriving DecidableEq, Repr

/-- An output queue: binding, sequence counter (R170), room reserved by the block and not yet used (R178), whether its
drain marker of the generation has been sent (R235). -/
structure OutQ where
  bind   : Bind := .none
  seq    : BitVec 20 := 0
  room   : Nat := 0
  marker : Bool := false
deriving DecidableEq, Repr

/-- One split router of a tree (R187, R188): its hearth, the branches that leave it (each the targets it serves), and the entries of
its replication buffer, oldest first, each with the branches still owed and the targets to serve on them. -/
structure RepNode where
  router   : Nat := 0
  branches : List (List Nat) := []
  entries  : List (Token × List (Nat × List Nat)) := []
deriving DecidableEq, Repr

/-- A multicast tree (R187, R211): the source output queue, the targets (input queue and route class), the tree credit
(R189), how many tokens have entered each target, how many credits have returned, the split routers. -/
structure Tree where
  src     : Nat := 0
  targets : List (Nat × Bool) := []
  credit  : Nat := 8
  entered : List Nat := []
  ret     : Nat := 0
  nodes   : List RepNode := []
deriving DecidableEq, Repr

/-- A token on the mesh (R175, R188, R249): its target queue, or the outbound window it goes to by the gateway; of a multicast token
the tree and the targets that it still serves; its route class (R251), the hops of its route that it has done, and the hop at which
it entered the mesh or left a split router. -/
structure Flight where
  target : Nat := 0
  tok    : QTok := {}
  tree   : Option (Nat × List Nat) := none
  express : Bool := false
  hop    : Nat := 0
  start  : Nat := 0
deriving DecidableEq, Repr

/-- The arbiter of a router output (R253): the channel favoured next, and by channel the input port favoured next. -/
structure Arb where
  chan  : Nat := 0
  ports : Tbl Nat := []
deriving DecidableEq, Repr

/-- A region of a hearth store (R40, R208). -/
structure Region where
  kind : Nat
  base : Nat
  len  : Nat
deriving DecidableEq, Repr

/-- What an outstanding request of an engine does (R35, R44, R71). -/
inductive ReqOp where
  | gather (dest : Nat) (tag : BitVec 6)
  | scatter (data : List Byte)
  | atomic (fp : Bool) (data : List Byte)
  | cas (rd : Nat) (expect new : Word)
deriving DecidableEq, Repr

/-- One outstanding request of a request engine (R35, R36): engine, issuing core, element index (the SEQ of a response,
R170), byte address, element size, target hearth (engine 1) and operation; `waited`: a wait of the request has been counted
(R310, R314, R331); address of the instruction that issued it (R199); the side bit in force when it reached the fabric (R327);
`old`: it was under way when a die's drain began (R271). -/
structure Req where
  eng   : Nat
  core  : Nat
  idx   : Nat
  addr  : Nat
  size  : Nat
  th    : Nat
  op    : ReqOp
  waited : Bool := false
  pc    : Nat := 0
  side  : Bool := false
  old   : Bool := false
deriving DecidableEq, Repr

/-- One contribution of SYNC to a channel (R83, R264). -/
structure SyncC where
  ch   : Nat
  core : Nat
  flag : Word
  sum  : List Word
deriving DecidableEq, Repr

/-- A stale-token event held at a ring stop (R237, R265). -/
structure StaleEv where
  queue : Nat
  gen   : BitVec 2
  tag   : BitVec 6
deriving DecidableEq, Repr

/-- A hearth (chapter 02): hearth store, declared regions, window descriptors (R69), status word fields (R62), patrol
scrub pointer (R48), bank pointers (R41: class-2 bit set = remote-in; class-3 requester favoured first), outstanding
requests in issue order, stall counter (R192), generation (R234), report counters of the tick and of the tick before
(R242, R244), SYNC contributions of the tick and of the tick before (R264), stale-token event FIFO (R265), urgent
condition (R261), halt by HDBG_HALT (R558), busy at the last boundary (R383). -/
structure Hearth where
  hs       : List Host.Cell := []
  regions  : List Region := []
  windows  : Tbl (BitVec 128) := []
  stopped  : Bool := false
  cause    : Nat := 0
  ce       : Nat := 0
  passes   : Nat := 0
  addrFlt  : Bool := false
  scrub    : BitVec 11 := 0
  c2       : BitVec 8 := 0
  c3       : Tbl Nat := []
  reqs     : List Req := []
  stall    : BitVec 17 := 0
  gen      : BitVec 2 := 0
  rep      : Tbl Nat := []
  repPrev  : Tbl Nat := []
  sync     : List SyncC := []
  syncPrev : List SyncC := []
  stale    : List StaleEv := []
  urgent   : Bool := false
  halted   : Bool := false
  voted    : Bool := false
deriving DecidableEq, Repr

/-- Where a core stands with respect to its firing blocks (R65, R178, R180): outside a block, started and about to
issue the block's BLK or TILE, inside it, or (MC) past the descriptor with END = 1. The argument is the block number. -/
inductive Phase where
  | idle
  | started (b : Nat)
  | inside (b : Nat)
  | ending (b : Nat)
deriving DecidableEq, Repr

/-- What a core waits for: the old value of a CAS, or data or room inside a block (R180): VSEGR with the rows left and
the result tokens sent. The waits of LOAD and DRAIN stand in the matrix core. -/
inductive Wait where
  | none
  | cas
  | segr (rows sent : Nat)
deriving DecidableEq, Repr

/-- The control state of a core: placed by the cord with an image or program number (R207), program counter or
descriptor index, phase, last block ended (R178), takes left per input queue, declared counts, source blocks started in
the tick (R179), stopped by a core fault (R196), wait, static schedule entries already started in the tick (R183). -/
structure Ctl where
  placed  : Bool := false
  image   : Nat := 0
  pc      : Nat := 0
  phase   : Phase := .idle
  last    : Option Nat := none
  takes   : List Nat := []
  inCnt   : List Nat := []
  outCnt  : List Nat := []
  srcDone : List Nat := []
  faulted : Bool := false
  wait    : Wait := .none
  sched   : Nat := 0
deriving DecidableEq, Repr

/-- A scalar core (R73): s1 to s15 (s0 reads zero), data memory, program memory (R64). -/
structure ScSt where
  regs : Tbl Word := []
  dmem : List Host.Cell := []
  prog : List Word := []
deriving DecidableEq, Repr

/-- A vector core (R84): v0 to v15, a1 to a7, k1 to k3, the parameter latch, local memory, program memory, the
arithmetic status word [3:0] (R164) and STEP_HELD_CNT (R345). -/
structure VcSt where
  v     : Tbl (BitVec 256) := []
  a     : Tbl Word := []
  k     : Tbl Word := []
  latch : BitVec 512 := 0
  mem   : List Host.Cell := []
  prog  : List Word := []
  st    : BitVec 4 := 0
  held  : Nat := 0
deriving DecidableEq, Repr

/-- One tile slot of the accumulator (R113 to R115, R230): init bits, init mode (true: bias), kind (true: INT32), owner,
columns of the shape it was last named under. -/
structure Slot where
  init  : BitVec 64 := BitVec.allOnes 64
  bias  : Bool := false
  int32 : Bool := false
  owner : Option Nat := none
  cols  : Nat := 32
deriving DecidableEq, Repr

/-- One half of an operand buffer (R110, R112): bytes, latched ROWS (0: never loaded) and RB, scale latch (none: cleared). -/
structure Half where
  data   : List Host.Cell := []
  rows   : Nat := 0
  rb     : Nat := 0
  scales : Option (List Byte) := none
deriving DecidableEq, Repr

/-- A record of the ACC spill directory (R231): tile set, slot, kind (true: INT32). -/
structure SpillRec where
  set   : Nat
  slot  : Nat
  int32 : Bool
deriving DecidableEq, Repr

/-- Loop offsets of a descriptor (R128): strides times iterations, summed over the enclosing loops; flips by exclusive or. -/
structure McOff where
  a  : Nat := 0
  b  : Nat := 0
  d  : Nat := 0
  ka : Nat := 0
  kb : Nat := 0
  t  : Nat := 0
  af : Bool := false
  bf : Bool := false
deriving DecidableEq, Repr

/-- A LOAD, DRAIN or MMA issued to its unit and not complete (R116, R118, R129): unit 0 A loader, 1 B loader, 2 drain, 3 array;
descriptor, offsets, 64 B units done, index of the descriptor. -/
structure McPend where
  unit : Nat
  desc : BitVec 128
  off  : McOff
  done : Nat
  pc   : Nat := 0
deriving DecidableEq, Repr

/-- The matrix core (chapter 04): accumulator by element number slot * 1024 + i * n + j, slots, bias latch, the four
halves (A0, A1, B0, B1), the iteration of each LOOP by its descriptor index, the current block's TILE word (R120), room
left for SIGNAL is in the output queues, status word fields (R132), spill record directory (R233), program length and the
tile set of each block (R213), descriptors in their units. -/
structure McSt where
  acc     : Tbl Word := []
  slots   : Tbl Slot := []
  bias    : Tbl Word := []
  halves  : Tbl Half := []
  loops   : Tbl Nat := []
  tile    : BitVec 128 := 0
  fault   : Nat := 0
  intOvf  : Bool := false
  nonfin  : Bool := false
  emptyRed : Nat := 0
  dir     : List SpillRec := []
  ndesc   : Nat := 0
  tsets   : List Nat := []
  pend    : List McPend := []
deriving DecidableEq, Repr

/-- The 128-bit core fault record of R199, by fields, and the microbatches that the fault voids (R196). -/
structure FaultRec where
  cls    : Nat
  code   : Nat
  hearth : Nat
  core   : Nat
  hlevel : Bool
  rerun  : Bool
  pc     : Nat
  tick   : Nat
  mb     : Option Nat
  mbs    : List Nat := []
deriving DecidableEq, Repr

/-- All hearths of the module, by their logical coordinate h (R70); cores by h * 128 + core number (R71); queues by
(h * 128 + core) * 4 + queue; trees by number; tokens on the mesh, oldest first; arbiters by router * 1024 + output port. -/
structure Grid where
  hearths : Tbl Hearth := []
  ctls    : Tbl Ctl := []
  scs     : Tbl ScSt := []
  vcs     : Tbl VcSt := []
  mcs     : Tbl McSt := []
  inqs    : Tbl InQ := []
  outqs   : Tbl OutQ := []
  trees   : Tbl Tree := []
  flights : List Flight := []
  arbs    : Tbl Arb := []
deriving DecidableEq, Repr
/-! ### The event log -/

/-- An event record (R482): sequence, time in the encoding of R472, code of R483, two details. -/
structure EvRec where
  seq  : Nat
  time : Nat
  code : Nat
  d0   : Nat
  d1   : Nat
deriving DecidableEq, Repr

/-- The event log (R482): the last 4,096 records, oldest first, and the sequence of the next event. -/
structure LogSt where
  ring : List EvRec := []
  next : Nat := 1
deriving DecidableEq, Repr

/-! ### HBM -/

/-- A move of the stage mover that has started or waits for one of the 16 places of its die (R289): index of its HBMMAP
entry, die whose fabric runs it, in progress, counted late at a boundary (R292), its wait for the settle counted (R331), side
committed when it began (R327). -/
structure MoveRun where
  idx  : Nat
  die  : Nat
  live : Bool
  late : Bool := false
  waited : Bool := false
  side : Bool := false
deriving DecidableEq, Repr

/-- An HBM channel (R294 to R297): corrected and uncorrectable error counts, the times of the errors of the last 24 h, address and
region kind of the last uncorrectable error. -/
structure HbmChan where
  ce   : Nat := 0
  ue   : Nat := 0
  ceAt : List Nat := []
  ueAt : List Nat := []
  last : Option (Nat × Nat) := none
deriving DecidableEq, Repr

/-- A retirement in progress (R298): affected and free logical set, physical set retired, channel of the trigger, trigger
(0 Service, 1 corrected errors, 2 uncorrectable), copy begun and ended, return pending (R300), bytes of the event that named it. -/
structure RetRun where
  l      : Nat
  f      : Nat
  pset   : Nat
  chan   : Nat
  why    : Nat
  begun  : Bool := false
  copied : Bool := false
  back   : Bool := false
  ev     : List Byte := []
deriving DecidableEq, Repr

/-- A run of bytes that the settle still has to copy (R330); its wait for a reader counted (R331). -/
structure SettleSeg where
  src : Nat
  dst : Nat
  len : Nat
  waited : Bool := false
deriving DecidableEq, Repr

/-- Capture of per-tick records (R247, R479): HOSTVIS entry, offset, first group, groups, ticks left, ticks written. -/
structure CaptureSt where
  hv    : Nat
  off   : Nat
  g0    : Nat
  ng    : Nat
  left  : Nat
  done  : Nat := 0
deriving DecidableEq, Repr

/-- HBM (chapter 09): contents by module address (R277; zero after every start, R593), side bit (R325), set map, retired
physical sets, retirement in progress and those that wait for it (R299), bursts that hold an uncorrectable error (R294),
moves, late moves, mover bytes of the tick and of the last tick by die * 8 + OP (R292), settle left (R330), bytes that
unfinished exports or digest rounds still read (R331), granules of a settle that the partner's copy has still to restore (R296),
settle waits, channels, scrub position in bursts per channel
(R295), refresh slots of the tick so far and the slots that the channels of each die have served in it (R285), step report totals of the last 16 steps by hearth * 32 + word, newest
first (R247), capture, runs of owned masters and stage that the attempt has written, first byte and end (R328), self-refresh
(R532). -/
structure HbmSt where
  mem      : List Host.Cell := []
  side     : Bool := false
  setMap   : List Nat := List.range 32
  retired  : List Nat := []
  ret      : Option RetRun := none
  retQ     : List RetRun := []
  bad      : List Nat := []
  moves    : List MoveRun := []
  moveLate : Nat := 0
  moved    : Tbl Nat := []
  movedLast : Tbl Nat := []
  settle   : List SettleSeg := []
  pinned   : List SettleSeg := []
  restore  : List SettleSeg := []
  settleWait : Nat := 0
  chans    : Tbl HbmChan := []
  scrub    : Tbl Nat := []
  refresh  : Nat := 0
  served   : Tbl Nat := []
  totals   : List (Tbl Nat) := []
  totNow   : Tbl Nat := []
  capture  : Option CaptureSt := none
  wrote    : List (Nat × Nat) := []
  selfRef  : Bool := true
deriving DecidableEq, Repr

/-! ### The peat tier -/

/-- A slot of the PEAT_STAGE region (R309, R314, R315): the turf it holds or stages, landed, dirty, being written back,
pending image of the step, use ticks of the lists that name it, last use, asked for by a demand fetch (R311), HBM address of its
bytes, its flash read has begun (R311). -/
structure PeatSlot where
  turf    : Option Nat := none
  landed  : Bool := false
  dirty   : Bool := false
  wb      : Bool := false
  pending : Bool := false
  listed  : List Nat := []
  used    : Nat := 0
  demand  : Bool := false
  addr    : Nat := 0
  begun   : Bool := false
deriving DecidableEq, Repr

/-- A flash location (R303, R304): the turf's place in stripe n on channel c is 16 n + c. Die that holds it, and the metadata: turf
number (none: the stripe's parity), write count, nonce, tag. -/
structure FlashLoc where
  die   : Nat
  turf  : Option Nat
  wcnt  : Nat
  nonce : Nat
  tag   : Nat
deriving DecidableEq, Repr

/-- A flash die (R320, R322): retired, times of the failed reads, program or erase failures, all failures, bytes of the event that
named its retirement. -/
structure FlashDie where
  retired : Bool := false
  reads   : List Nat := []
  progs   : Nat := 0
  fails   : Nat := 0
  ev      : List Byte := []
deriving DecidableEq, Repr

/-- State of the tier (R323). -/
inductive PeatOn where
  | on | shutting | off
deriving DecidableEq, Repr

/-- The peat tier (chapter 10): contents of flash by location times 16,384 (as plaintext, log entry 101), what each location holds,
the turf map (R305), erases by die times 2^32 plus block (R320), write count (R517), slots, turves that wait for a slot (by demand,
use ticks of the lists that name it), turves lost (R321), counters, governor
level and the millionths of a byte accrued beyond it (R319), governed raised, flash dies, die whose rebuild runs and the dies that wait (R322), bytes written per
channel, state, pending enable, use counter. -/
structure PeatSt where
  flash   : List Host.Cell := []
  locs    : Tbl (Option FlashLoc) := []
  map     : Tbl (Option Nat) := []
  erases  : Tbl Nat := []
  wcnt    : Nat := 0
  slots   : Tbl PeatSlot := []
  waitQ   : List (Nat × Bool × List Nat) := []
  lost    : List Nat := []
  miss    : Nat := 0
  late    : Nat := 0
  stale   : Nat := 0
  bad     : Nat := 0
  noslot  : Nat := 0
  gov     : Int := 5600000000000
  govFrac : Nat := 0
  governed : Bool := false
  dies    : Tbl FlashDie := []
  rebuild : Option Nat := none
  rebuildQ : List Nat := []
  written : Tbl Nat := []
  state   : PeatOn := .on
  pendOn  : Bool := false
  clock   : Nat := 0
deriving DecidableEq, Repr

/-! ### Training -/

/-- What the collier decides for a tensor of the step (R341, R366): skip, skip for a non-finite flag, nrm, GSCALE, LR, the
next bias products, BC1, BC2, OMD. -/
structure Decision where
  skip   : Bool
  nonfin : Bool
  nrm    : Word
  gscale : Word
  lr     : Word
  bp1    : Word
  bp2    : Word
  bc1    : Word
  bc2    : Word
  omd    : Word
deriving DecidableEq, Repr

/-- A tensor (R341, R342, R493): update count, bias products (1.0 at first), TENSOR_SKIP_CNT, norm and GSCALE at the last
flip, over-plan and malformed counts of its shapes (R224). -/
structure TensorSt where
  upd    : Nat := 0
  bp1    : Word := 0x3F800000#32
  bp2    : Word := 0x3F800000#32
  skips  : Nat := 0
  norm   : Word := 0
  gscale : Word := 0
  plan   : Nat := 0
  mal    : Nat := 0
deriving DecidableEq, Repr

/-- Why the cord stops at the end of the tick (R538): the reason code of the state change, and whether no cord stays
installed (R240). -/
structure StopWhy where
  code  : Nat
  clear : Bool := false
deriving DecidableEq, Repr

/-- A shard record still to be read and sent (R351, R427): context, R_Key and address of its write, SHARDS entry, CONTENT, of a
checkpoint, its wait for the settle counted. -/
structure ExpReq where
  ctx     : Nat
  rkey    : Nat
  addr    : Nat
  sh      : Nat
  content : Nat
  ck      : Bool := false
  waited  : Bool := false
deriving DecidableEq, Repr

/-- What the comparison of digests takes from the cord of a tick (R245): the DIGESTS entries of its schedule tick, none past the last;
compact mode; DIGEST_ACT. -/
structure DigTick where
  ents    : List Nat := []
  compact : Bool := false
  act     : Nat := 0
deriving DecidableEq, Repr

/-- Training (chapters 01, 11): step number, last committed step, a step has committed or an import has set the state,
attempt (R368), an attempt runs, start tick of the next attempt (R386), START accepted and not yet begun (R480), the attempt is
a rerun (R197), working copies are to be regenerated before it (R296), void count and the microbatches voided in the step
(R226), the first tensor counted in the step (EVENT 0x8103), loss scale, clean count (R343), tensors, decisions of the
step, own commit vote cast (R24), the flip this vote entitles to is still owed (R413), NF_SKIP, the sync tree's commit AND
of the attempt (R264), blocks of the update not yet in the W-view (R328 is judged by the cord's hearths), abort vote of
the step held (R226), seed (R339), drift audit counts and the step of the last audit (R350), records still to be exported (R351), STOP pending (R480), stop at the end of the tick, cores that
ran STEP.M in the step (R345), last boundary's AND still to be taken afresh (R264), module sync results of the tick before
(R264), a flip is due at the next boundary (R327) and to which step; schedule tick and step of the attempt that the tick began
with, the dies' settings of the tick before (R245), the hearths that the cord placed at the tick's start and those of the tick before
(R244), what digests of the tick and of the tick before are compared with (R245), a departure is due at the tick's end (R397). -/
structure TrainSt where
  step      : Nat := 0
  last      : Nat := 0
  haveState : Bool := false
  attempt   : Nat := 0
  running   : Bool := false
  startAt   : Option Nat := none
  asked     : Bool := false
  rerun     : Bool := false
  regen     : Bool := false
  voidCnt   : Nat := 0
  voided    : List Nat := []
  voidTen   : Option Nat := none
  ls        : Word := 0
  clean     : Nat := 0
  tensors   : Tbl TensorSt := []
  decided   : List (Nat × Decision) := []
  voted     : Bool := false
  owed      : Option Nat := none
  nfSkip    : Bool := false
  andOk     : Bool := false
  andDue    : Bool := false
  abort     : Bool := false
  seed      : Option Word := none
  audits    : Nat := 0
  auditBad  : Nat := 0
  audited   : Option Nat := none
  stopAt    : Nat := 0
  stop      : Option StopWhy := none
  stepVcs   : List Nat := []
  flipDue   : Option Nat := none
  ckptDue   : Bool := false
  ovrRun    : Nat := 0
  exports   : List ExpReq := []
  /-- tick t before: schedule tick, overran, a clock changed, step voided: what R245 needs when digests are compared -/
  tickK     : Option Nat := none
  tickStep  : Nat := 0
  prevK     : Option Nat := none
  prevClk   : Nat × Nat := (16, 16)
  tickOn    : List Nat := []
  prevOn    : List Nat := []
  tickDig   : DigTick := {}
  prevDig   : DigTick := {}
  prevStep  : Nat := 0
  prevWaive : Bool := false
  nowWaive  : Bool := false
  digests   : List (Nat × Nat) := []
  waives    : Nat := 0
  mismatch  : Nat := 0
  bounds    : Nat := 0
  misWant   : Nat := 0
  misGot    : Nat := 0
  kept      : List (Nat × List Nat) := []
  pressure  : Bool := false
  idleTick  : List Nat := []
  idleSteps : List (List Nat) := []
  idleNow   : List Nat := []
  departDue : Bool := false
deriving DecidableEq, Repr

/-! ### Gradient exchange -/

/-- A partial record of a SUMMARY (R363): piece, tensor, samples, sum of squares as binary64. -/
structure PartRec where
  piece   : Nat
  tensor  : Nat
  samples : Nat
  sumsq   : BitVec 64
deriving DecidableEq, Repr

/-- An exchange message (R362): header fields and what follows the header. -/
structure ExMsg where
  kind    : Nat := 0
  nonfin  : Bool := false
  npart   : Nat := 0
  bucket  : Nat := 0
  sender  : Nat := 0
  attempt : Nat := 0
  piece   : Nat := 0
  step    : Nat := 0
  chunk   : Nat := 0
  len     : Nat := 0
  samples : Nat := 0
  tensor  : Nat := 0
  first   : Nat := 0
  body    : List Byte := []
deriving DecidableEq, Repr

/-- A SUMMARY held (R365, R366): bucket, owner, flag, records. -/
structure SumHeld where
  bucket : Nat
  owner  : Nat
  nonfin : Bool
  recs   : List PartRec
deriving DecidableEq, Repr

/-- Gradient exchange (chapter 12): buckets whose exchange tick the attempt has reached, pieces to send in the exchange
slots in order (bucket, piece, chunk), received bits (bucket, piece, sender, chunk), flag of a contribution by (bucket,
piece), SAMPLES of each sender by (bucket, piece), buckets summarised, summaries held, messages held in their receive slots
(R368), messages that wait for a credit of their receiver (rank, message), receive slots in use at each rank (R361), slots
freed and not yet returned by rank, messages received by rank (their slots, R361), resends by (sender, bucket, piece, chunk), records forwarded to the partner (bucket, owner, piece), the seven counters of R375 and the late
marks, exchange slot of the tick. -/
structure ExchSt where
  open'    : List Nat := []
  toSend   : List (Nat × Nat × Nat) := []
  words    : List (Nat × Nat) := []
  got      : List (Nat × Nat × Nat × Nat) := []
  flags    : List (Nat × Nat) := []
  samples  : List (Nat × Nat × Nat × Nat) := []
  made     : List Nat := []
  sums     : List SumHeld := []
  sumsOut  : List (Nat × ExMsg) := []
  held     : List ExMsg := []
  waiting  : List (Nat × ExMsg) := []
  used     : Tbl Nat := []
  freed    : Tbl Nat := []
  rxAt     : Tbl Nat := []
  fails    : List (Nat × Nat × Nat × Nat) := []
  fwd      : List (Nat × Nat × Nat) := []
  tx       : Nat := 0
  rx       : Nat := 0
  resend   : Nat := 0
  dup      : Nat := 0
  stale    : Nat := 0
  sealFail : Nat := 0
  late     : Nat := 0
  slot     : Nat := 0
deriving DecidableEq, Repr

/-! ### Remote windows, gathers, dies, crossings -/

/-- A token batch (R391): window, sender, attempt, step, sender's schedule tick, credits returned, tokens; rank and queue pair that it
came by. -/
structure Batch where
  window  : Nat := 0
  sender  : Nat := 0
  attempt : Nat := 0
  step    : Nat := 0
  tick    : Nat := 0
  credit  : Nat := 0
  toks    : List Token := []
  rank    : Nat := 0
  qp      : Nat := 0
deriving DecidableEq, Repr

/-- The sending side of a remote window (R390 to R392): credit left, tokens that wait for a batch, credit batches held for a later
step or attempt (R393). -/
structure RemOut where
  credit  : Nat := 0
  waiting : List Token := []
  held    : List Batch := []
deriving DecidableEq, Repr

/-- The receiving side (R392, R393): SEQ of the next token, none before the attempt's first; batches held in the ring; tokens
that wait for room in the target queue; freed credits not yet returned. -/
structure RemIn where
  next  : Option (BitVec 20) := none
  held  : List Batch := []
  inj   : List Token := []
  freed : Nat := 0
deriving DecidableEq, Repr

/-- A parameter gather in progress (R387): SCHEDULE entry, own shards written, ranks whose shards have all landed. -/
structure GathRun where
  ent  : Nat
  own  : Bool := false
  from' : List Nat := []
deriving DecidableEq, Repr

/-- Remote windows by number, REMOTE_STALE_CNT (R393), gathers. -/
structure RemSt where
  out     : Tbl RemOut := []
  inb     : Tbl RemIn := []
  stale   : Nat := 0
  gathers : List GathRun := []
deriving DecidableEq, Repr

/-- Run state of a die (R271). -/
inductive DieRun where
  | running | draining | stopped | starting
deriving DecidableEq, Repr

/-- A compute die (R53, R61, R248, R269 to R273, R489): run state, start held pending, setting k in force, setting stored
by the last write, setting asked for and taken over, change requested for the next boundary, settings that thermal protection and the power loop hold it at (R531, R545), column map f, spare sound,
held by self-test (R562), fault cause recorded at the retirement of a column by row (R63), the hearths of the unused spare
column by row: scrub pointer, pass count, corrected-error count (R48, R62); the other words of those hearths that the control ring has
written, by row and place (R259; log entry 70). -/
structure DieSt where
  run    : DieRun := .running
  pend   : Bool := false
  k      : Nat := 16
  want   : Nat := 16
  base   : Nat := 16
  req    : Option Nat := none
  prot   : Option Nat := none
  powK   : Option Nat := none
  f      : Nat := 64
  sound  : Bool := true
  held   : Bool := false
  cause  : Tbl Nat := []
  spares : Tbl Hearth := []
  words  : Tbl Nat := []
deriving DecidableEq, Repr

/-- Crossing overrun status, overrun counts and event FIFOs (R265, R266): 0 hearth, 1 power, 2 thermal, 3 PPS. The hearths'
event FIFOs stand in the hearths. -/
structure CrossSt where
  ovrHearth : Bool := false
  ovrPower  : Bool := false
  ovrTherm  : Bool := false
  ovrPps    : Bool := false
  cntHearth : Nat := 0
  cntPower  : Nat := 0
  cntTherm  : Nat := 0
  cntPps    : Nat := 0
  power     : List Nat := []
  therm     : List Nat := []
  pps       : List Nat := []
deriving DecidableEq, Repr

/-! ### Pairs, votes, losses -/

/-- A cluster message (R402): header fields and payload. -/
structure ClMsg where
  kind    : Nat := 0
  vkind   : Nat := 0
  nfSkip  : Bool := false
  ckpt    : Bool := false
  recov   : Bool := false
  sender  : Nat := 0
  attempt : Nat := 0
  part    : Nat := 0
  subject : Nat := 0
  step    : Nat := 0
  tick    : Nat := 0
  tensor  : Nat := 0
  nrec    : Nat := 0
  len     : Nat := 0
  first   : Nat := 0
  offset  : Nat := 0
  cover   : Nat := 0
  last    : Nat := 0
  body    : List Byte := []
deriving DecidableEq, Repr

/-- Pairing (R405, R431). -/
inductive PairMode where
  | unpaired | pairing | paired | widowed
deriving DecidableEq, Repr

/-- A digest record of R414: tensor, first element, digest, ECC bit, whether it is of the sender's mirror copy. -/
structure DigRec where
  tensor : Nat
  first  : Nat
  dig    : BitVec 128
  ecc    : Bool
  mirror : Bool := false
deriving DecidableEq, Repr

/-- Where a copy of a shard's committed state lies: bases of masters, moments and ember, elements, bytes of an ember element. -/
structure Copy where
  mas : Nat
  mom : Nat
  emb : Nat
  cnt : Nat
  ew  : Nat
deriving DecidableEq, Repr

/-- A shard that a redistribution moves (R421): its new owner, its SHARDS entry there, the copy that holds it (masters in C-view), the
element of the copy at which it begins; sent or copied. -/
structure Hand where
  dest : Nat
  ent  : Nat
  src  : Copy
  at'  : Nat
  done : Bool := false
deriving DecidableEq, Repr

/-- Pairs, failure and recovery (chapter 14): partition in force, lost set, own vote and the children's votes of the round,
vote sent, last OUTCOME acted on, last heartbeat tick of each sender (plus 1; 0 none), this module recovers a hearth fault,
pairing state, when pairing step 1 was taken (ns), HELLO sent, HELLO held, a failure that persists (R407), pair formed on a
shared feed (R406), MGRAD chunks landed (tensor, first, offset), forwarded summaries, the partner's MACK of the attempt,
MACK sent, own digest records, the partner's, shard entries whose state is to be sent at the next flip (with the rank),
bytes of a STATE still to land by (tensor, first), tensors whose VALID is held at 0 from a flip on (R415), waiting for repair, this module is the replacement (R424),
MODULE_IDs changed by REPLACE, checkpoint in progress (trigger time, entries received, ranks done), counters of R431,
MSG_RESERVED_CNT, loss log (rank, time), end of the last checkpoint's duration in ns, time of the last trigger, CKPT at the
next commit, losses flooded, messages held for another partition, logged errors per owned shard (R414), cord start time, STATE awaited for a new partition (R421), no attempt begun yet on the partition in force (R421), ranks with every queue pair in error (R418), losses whose return waits
for the next boundary (R420), replica regions being rewritten (base, bytes; R416), the last message sent by rank * 16 + KIND (R403), items
that a redistribution brings, each with the rank it comes from and the STEP of the STATE that brought it, shards that it moves from here (R421, R423), STATE due
now (item, rank), a digest round that the partner began (R296), manifest entries of this module's own records while they are exported,
step, loss scale and clean count of the flip that triggered the checkpoint (R428). -/
structure ClusSt where
  part     : Nat := 0
  lost     : List Nat := []
  own      : Option ClMsg := none
  votes    : List ClMsg := []
  voteSent : Bool := false
  outcome  : Option ClMsg := none
  beats    : Tbl Nat := []
  recov    : Bool := false
  pair     : PairMode := .unpaired
  pairAt   : Nat := 0
  helloOut : Bool := false
  hello    : Option (List Byte) := none
  pairFail : Option Nat := none
  shared   : Bool := false
  mgrad    : List (Nat × Nat × Nat) := []
  msums    : List SumHeld := []
  mack     : Bool := false
  mackSent : Bool := false
  digOwn   : List DigRec := []
  digPeer  : List DigRec := []
  digDue   : Bool := false
  stateDue : List (Nat × Nat) := []
  stateIn  : List (Nat × Nat × Nat) := []
  holdV    : List Nat := []
  repair   : Bool := false
  repl     : Bool := false
  ids      : Tbl Nat := []
  ckpt     : Option Nat := none
  ckptEnts : List Byte := []
  ckptFrom : List Nat := []
  ckptE    : Option Nat := none
  ckptAt   : Option Nat := none
  ckptNow  : Bool := false
  lossCnt  : Nat := 0
  shardDiff : Nat := 0
  shardRes : Nat := 0
  repDiff  : Nat := 0
  ckptCnt  : Nat := 0
  msgRes   : Nat := 0
  lossLog  : List (Nat × Nat) := []
  startNs  : Nat := 0
  lossDue  : List Nat := []
  rewrite  : List (Nat × Nat) := []
  held     : List ClMsg := []
  errs     : List (Nat × Nat) := []
  departed : Bool := false
  peatWin  : Tbl Nat := []
  redist   : Bool := false
  fresh    : Bool := false
  badQps   : List Nat := []
  sent     : Tbl ClMsg := []
  gain     : List (Nat × Nat × Nat) := []
  hands    : List Hand := []
  stateNow : List (Nat × Nat) := []
  digNow   : Bool := false
  ckptOwn  : Option (List Byte) := none
  ckptAs   : Nat × Word × Nat := (0, 0, 0)
deriving DecidableEq, Repr

/-! ### The tick generator and time -/

/-- The tick (chapter 13, R489): TICK_CNT, schedule tick k of the attempt, period in force (us), source (0 local, 1 PTP
follower, 2 PTP leader), generator running (R376), locked, consecutive synchronisations within 40 ns, last offset, holdover,
holdover time (ns, in this holdover and in all), PPS_IN enable, PTP domain, Sync log interval, interface synchronised on,
ns since power-up, offset of the module's PTP clock from it (none until it has synchronised), TICK_OVR_CNT, the generator has
issued a boundary since it started (`began`), rank of the Announces heard by interface, interfaces whose leader announces the PTP
timescale, start of the power-up in PTP time once known (R551), PTP_HOLDOVER_END raised in this holdover, ns since power-up
of the last PPS_IN edge. -/
structure TickSt where
  cnt      : BitVec 64 := 0
  k        : Nat := 0
  us       : Nat := 500
  src      : Nat := 0
  gen      : Bool := false
  locked   : Bool := false
  inLock   : Nat := 0
  offset   : Int := 0
  hold     : Bool := false
  holdNs   : Nat := 0
  holdMs   : Nat := 0
  ppsEn    : Bool := false
  domain   : Nat := 0
  syncLog  : Int := -6
  iface    : Nat := 255
  now      : Nat := 0
  epoch    : Option Nat := none
  ovr      : Nat := 0
  began    : Bool := false
  ann      : Tbl (BitVec 144) := []
  scale    : List Nat := []
  date     : Option Nat := none
  holdEnd  : Bool := false
  ppsEdge  : Option Nat := none
deriving DecidableEq, Repr

/-! ### Ethernet -/

/-- What the module has handed to its interfaces or queue pairs. Sealed messages stand here as plaintext with the prefix
fields of R512; the ciphertext is not modelled. `sealed rank qp ctr plain`: qp 0 is the exchange and cluster queue pair,
1 + w the pair of remote window w. `gather` is a sealed WRITE of a shard (R387): SCHEDULE entry and offset at the receiver's DST. `rdma` is a WRITE and `read` a READ that the collier or the DMA engine asks for, `seal` a WRITE whose bytes a collier ring seals (R456). `ptp`: message type, domain,
clock identity and time of the sender. -/
inductive Tx where
  | sealed (rank qp ctr : Nat) (plain : List Byte)
  | gather (rank ctr ent off : Nat) (plain : List Byte)
  | kex (rank : Nat) (msg : List Byte)
  | kop (session : Nat) (pdu : List Byte)
  | frame (iface : Nat) (bytes : List Byte)
  | ptp (iface kind domain id time : Nat)
  | rdma (ctx rkey addr : Nat) (bytes : List Byte)
  | seal (ctx rkey addr : Nat) (bytes : List Byte)
  | read (ctx rkey addr len : Nat)
  | roce (ctx opcode psn : Nat) (bytes : List Byte)
  | pfc (port prio : Nat) (xoff : Bool)
deriving DecidableEq, Repr

/-- A packet as it leaves an interface (R435, R439, R443, R446): destination address and the next hop that its frame goes to (0: a frame
that holds its own), class (0 X, 1 T, 2 H, 3 M) with its DSCP and priority, VLAN tag (0: none; its PCP is the priority, DEI is 0),
context and path, UDP destination port, marked ECT(0), which part of 4,096 B of the item it carries. -/
structure Pkt where
  iface : Nat
  dst   : BitVec 128 := 0
  next  : BitVec 128 := 0
  cls   : Nat
  dscp  : Nat
  prio  : Nat
  vid   : Nat
  ctx   : Nat := 0
  path  : Nat := 0
  port  : Nat := 0
  ect   : Bool := false
  part  : Nat := 0
  item  : Tx
deriving DecidableEq, Repr

/-- State of a port (R493). -/
inductive PortRun where
  | down | up | shutting | starting
deriving DecidableEq, Repr

/-- A port (R432, R436, R445, R493): enabled, layout, lane mode, PFC mask, state, enable held pending, ignored pauses,
priorities for which XOFF has been sent, priorities paused by the peer, lane test in progress. -/
structure PortSt where
  en      : Bool := true
  layout  : Nat := 0
  c2m     : Bool := false
  pfc     : BitVec 8 := 0
  run     : PortRun := .down
  pend    : Bool := false
  ignored : Nat := 0
  xoff    : List Nat := []
  paused  : List Nat := []
  testing : Bool := false
deriving DecidableEq, Repr

/-- An interface (R434, R435, R446, R493); echo replies of the second `echoSec`. -/
structure IfSt where
  up     : Bool := false
  ip4    : BitVec 32 := 0
  ip6    : BitVec 128 := 0
  pre4   : Nat := 24
  pre6   : Nat := 64
  gw4    : BitVec 32 := 0
  gw6    : BitVec 128 := 0
  vlan   : Nat := 0
  drops  : Nat := 0
  fec    : Nat := 0
  hostErr : Nat := 0
  echoes : Nat := 0
  echoSec : Nat := 0
deriving DecidableEq, Repr

/-- State of a transport context (R440, R493). -/
inductive QpRun where
  | free | ready | error
deriving DecidableEq, Repr

/-- A path of a queue pair (R441): local and remote interface, consecutive ACK timeouts, rate in Mb/s (R444). A host queue
pair has one; its remote interface is 255. -/
structure PathSt where
  loc   : Nat
  rem   : Nat := 255
  fails : Nat := 0
  rate  : Nat := 400000
deriving DecidableEq, Repr

/-- A request that a context has sent (R440, R441): first PSN, PSNs that it takes, what it is, and its parts that are not acknowledged,
each with the local and the remote interface of the path that it went on. -/
structure SentReq where
  psn  : Nat
  n    : Nat
  item : Tx
  left : List (Nat × Nat × Nat)
deriving DecidableEq, Repr

/-- A transport context (R438 to R444, R448): state, rank of the peer module if it is one, host GID (of a KEX: the address it goes to),
remote queue pair (to a
module: 0 exchange and cluster, 1 + w remote window w, 65536 KEX), next PSN to send, next PSN expected, PSNs placed out of order,
requests sent and not acknowledged, READs that wait for their turn (R438), PSN up to which all is acknowledged, timeouts without progress, RNR retries, paths, PSN missing
since a gap was seen, where the RDMA WRITE under way writes next (address, R_Key, bytes left), immediates of messages placed whose
lower PSNs are missing (last PSN, immediate), immediates released (R441), receive ring that a SEND lands in (base, slots, next slot;
R452) and bytes of the SEND under way. -/
structure QpSt where
  run    : QpRun := .free
  rank   : Option Nat := none
  gid    : BitVec 128 := 0
  qpn    : Nat := 0
  psn    : BitVec 24 := 0
  epsn   : BitVec 24 := 0
  ahead  : List Nat := []
  sent   : List SentReq := []
  later  : List (Nat × Tx) := []
  una    : BitVec 24 := 0
  tries  : Nat := 0
  rnr    : Nat := 0
  paths  : List PathSt := []
  gap    : Option Nat := none
  wAddr  : Nat := 0
  wKey   : Nat := 0
  wLeft  : Nat := 0
  early  : List (Nat × BitVec 32) := []
  imms   : List (BitVec 32) := []
  ring   : Option (Nat × Nat × Nat) := none
  sBytes : Nat := 0
deriving DecidableEq, Repr

/-- Ethernet and transport (chapter 15): base MAC address, ports, interfaces, DSCP and priority of the four classes (X, T, H,
M), contexts, R_Keys of the HOSTVIS entries (R452), contact addresses (R442), address lists of the peers by rank, frames of
unused queue pairs dropped (R439), what has been sent, the packets that have left, those that a paused priority holds (R445), next hops
that the interfaces have resolved (R434). -/
structure EthSt where
  mac    : BitVec 48 := 0
  ports  : Tbl PortSt := []
  ifs    : Tbl IfSt := []
  dscp   : List Nat := [26, 34, 10, 48]
  prio   : List Nat := [3, 4, 1, 6]
  qps    : Tbl QpSt := []
  rkeys  : Tbl Word := []
  peers  : Tbl (BitVec 128) := []
  addrs  : Tbl (List (Nat × BitVec 128)) := []
  qpDrop : Nat := 0
  wire   : List Tx := []
  link   : List Pkt := []
  held   : List Pkt := []
  asked  : List (Nat × BitVec 128) := []
deriving DecidableEq, Repr

/-! ### The DMA engine -/

/-- State of a channel (R493). -/
inductive ChanRun where
  | idle | running | halted | disabled | shutting
deriving DecidableEq, Repr

/-- A descriptor whose bytes have moved and whose write-back waits (R458, R459): ring, index, completion code, bytes done, context and
remote writes that must be acknowledged (first PSN and bytes of each; none: it waits only for those before it in its ring), no
write-back follows, for its ring is gone. -/
structure DmaAck where
  ring   : Nat := 0
  n      : Nat := 0
  status : Nat := 0
  done   : Nat := 0
  ctx    : Nat := 0
  reqs   : List (Nat × Nat) := []
  mute   : Bool := false
deriving DecidableEq, Repr

/-- A channel (R454, R462, R463, R493): enabled, weight, pace queue (packed), HIGH, LOW, state, enable held pending, HALT_AT
(ring, descriptor), ring last served, descriptor in progress (ring, index), paused by pacing, pace-lost raised, tokens of
the descriptor already sent to a queue, what the checks at its start found, the descriptor in progress waits at its BARRIER, write-backs
that wait. -/
structure ChanSt where
  en      : Bool := true
  weight  : Nat := 1
  paceQ   : Nat := 0
  high    : Nat := 0
  low     : Nat := 0
  run     : ChanRun := .idle
  pend    : Bool := false
  haltAt  : Nat × Nat := (0, 0)
  rr      : Nat := 0
  cur     : Option (Nat × Nat) := none
  paused  : Bool := false
  lost    : Bool := false
  sent    : Nat := 0
  chk     : Nat := 0
  wait    : Bool := false
  acks    : List DmaAck := []
deriving DecidableEq, Repr

/-- A ring (R455): base, entries, channel, context of its queue pair, HEAD, TAIL, doorbell R_Key, doorbells ignored, the
ring's own context (R448), a ring of the collier (R455). -/
structure RingSt where
  live   : Bool := false
  base   : Nat := 0
  ents   : Nat := 16
  chan   : Nat := 0
  ctx    : Nat := 0
  head   : BitVec 32 := 0
  tail   : BitVec 32 := 0
  rkey   : Word := 0
  bad    : Nat := 0
  own    : Nat := 0
  collier : Bool := false
deriving DecidableEq, Repr

/-- The DMA engine: channels, rings by number. -/
structure DmaSt where
  chans : Tbl ChanSt := []
  rings : Tbl RingSt := []
deriving DecidableEq, Repr

/-! ### KOP -/

/-- A subscription (R481): number, kind (true: values), period in ms, addresses (index, sub, element), code ranges, GAP, time
of the next delivery (ns). -/
structure KSub where
  no     : Nat
  values : Bool
  period : Nat := 0
  addrs  : List (Nat × Nat × Nat) := []
  ranges : List (Nat × Nat) := []
  gap    : Bool := false
  next   : Nat := 0
deriving DecidableEq, Repr

/-- A NOTIFY or RESULT not yet acknowledged (R471): module sequence, OP, subscription, PDU, sends so far. -/
structure Unacked where
  seq   : Nat
  op    : Nat
  sub   : Option Nat
  pdu   : List Byte
  sends : Nat
deriving DecidableEq, Repr

/-- A request accepted and not yet answered (R470): its PDU without tag, and whether its owner signature verifies (R468). -/
structure KReq where
  seq  : Nat
  pdu  : List Byte
  sig  : Bool
deriving DecidableEq, Repr

/-- A session (R469 to R471, R477): open, role (0 Observer, 1 Operator, 2 Owner, 3 Service), KOP key, highest SEQ accepted,
SEQs received of the last 64, responses kept, requests executing, next module sequence, unacknowledged PDUs, subscriptions,
STEP_SEL, time of the last verified PDU (ns), credential key identifier, where the client is: interface, address, UDP port. -/
structure KSess where
  live    : Bool := false
  role    : Nat := 0
  key     : Nat := 0
  hi      : Nat := 0
  recvd   : List Nat := []
  cache   : List (Nat × List Byte) := []
  reqs    : List KReq := []
  mseq    : Nat := 1
  unacked : List Unacked := []
  subs    : List KSub := []
  stepSel : Nat := 0
  heard   : Nat := 0
  cred    : List Byte := []
  src     : Nat × BitVec 128 × Nat := (0, 0, 0)
deriving DecidableEq, Repr

/-- A command object (R478): busy, last status, detail and result, the session whose request it serves and the SEQ of that
request, and the argument bytes of the invocation in progress. -/
structure KCmd where
  busy   : Bool := false
  status : Nat := 0
  detail : Nat := 0
  result : List Byte := []
  ses    : Nat := 0
  arg    : List Byte := []
deriving DecidableEq, Repr

/-- KOP (chapter 16): sessions, commands by index, drop counters, the second in which KOP_TAG_FAIL was last raised and the
failures since, where the datagram in hand came from, settings of the dictionary that no other part holds: DEFAULT_RM, FEED_OVERRIDE, storage window (0x1510). -/
structure KopSt where
  sess     : Tbl KSess := []
  cmds     : Tbl KCmd := []
  drops    : Nat := 0
  tagFail  : Nat := 0
  tagAt    : Option Nat := none
  tagSec   : Nat := 0
  seqOld   : Nat := 0
  subNo    : Nat := 0
  src      : Nat × BitVec 128 × Nat := (0, 0, 0)
  rnd      : Nat := 0
  feedOvr  : Bool := false
  ckCtx    : Nat := 0
  ckRkey   : Nat := 0
  ckBase   : Nat := 0
  ckLen    : Nat := 0
  manAddr  : Nat := 0
deriving DecidableEq, Repr

/-! ### Trust -/

/-- A key in the Hub's key store, named by a handle (R496: no key value is ever readable). -/
abbrev KeyH := Nat

/-- Where a KEX stands (R508): KEX1 sent, KEX2 sent, KEX3 sent, none. -/
inductive KexSt where
  | none | sent1 | sent2 | sent3
deriving DecidableEq, Repr

/-- A session with a peer module (R507 to R513): open, keys by handle, next CTR per queue pair, last CTR accepted per queue
pair, KEX in progress, when it began (ns), transcript so far, address tried next, messages that wait for the session (queue pair, place of a gather's shard, plaintext). -/
structure MSess where
  open'   : Bool := false
  key     : KeyH := 0
  tx      : Tbl Nat := []
  rx      : Tbl Nat := []
  kex     : KexSt := .none
  kexAt   : Nat := 0
  trans   : List Byte := []
  tryNo   : Nat := 0
  out     : List (Nat × Option (Nat × Nat) × List Byte) := []
deriving DecidableEq, Repr

/-- A firmware bank (R498, R499): its words; whether kindling and collier image verify, VERSION and ROLLBACK of the collier
image, SHA-512 of both images. -/
structure BankSt where
  words : List Word := []
  good  : Bool := false
  ver   : Nat := 0
  roll  : Nat := 0
  hash  : List Byte := []
deriving DecidableEq, Repr

/-- The public point that the model's module starts with: the base point of P-521, uncompressed (R495; log entry 126). -/
def madePoint : List Byte :=
  (List.range 133).map fun i => BitVec.ofNat 8
    (0x400c6858e06b70404e9cd9e3ecb662395b4429c648139053fb521f828af606b4d3dbaa14b5e77efe75928fe1dc127a2ffa8de3348b3c1856a429bf97e7e31c2e5bd66011839296a789a3bc0045c8a5fb42c7d1bd998f54449579b446817afbd17273e662c97ee72995ef42640c550b9013fad0761353c7086a272c24088be94769fd16650
      >>> (8 * (132 - i)))

/-- Trust (chapter 17): MODULE_ID; the keys made at manufacture (R495): HUK by handle, the public points of IK and AK with their
private keys by handle, the fused SHA-512 of the root, firmware and Service CA keys; the crypto engine holds HUK, and the keys that the
kindling image unwraps (R498); bound owner point (empty: unbound) and OWNER_KEY_ID; OPERATOR_LIST; HOST_LIST;
job key and its identifier; envelopes sealed under it (R514); peat key; security state (0 production, 1 owner-debug, 2
service); DEBUG_SINCE_BIND; debug nonce with its time (R519); sessions with peers by rank; SEAL_REPLAY_CNT; firmware banks,
active bank, inactive bank trial, booted on trial; FW_ROLLBACK; FW_HASH and FW_VERSION of the running firmware; zeroise
marker with the command's index (R520). -/
structure SecSt where
  id      : Nat := 0xf48ce9c06a67b927
  huk     : KeyH := 0
  ik      : List Byte := madePoint
  ak      : List Byte := madePoint
  ikKey   : KeyH := 0
  akKey   : KeyH := 0
  rootFuse : List Byte := List.replicate 64 0
  fwFuse  : List Byte := List.replicate 64 0
  svcFuse : List Byte := List.replicate 64 0
  hukIn   : Bool := false
  keysIn  : Bool := false
  owner   : List Byte := []
  ownerId : List Byte := []
  opList  : List (List Byte) := []
  hosts   : List (BitVec 128) := []
  job     : Option KeyH := none
  jobId   : Nat := 0
  sealed  : Nat := 0
  peat    : Option KeyH := none
  state   : Nat := 0
  dbgBind : Bool := false
  nonce   : Option (List Byte × Nat) := none
  sess    : Tbl MSess := []
  replay  : Nat := 0
  bank0   : BankSt := { good := true, hash := List.replicate 64 0 }
  bank1   : BankSt := {}
  active  : Nat := 0
  trial   : Bool := false
  onTrial : Bool := false
  roll    : Nat := 0
  fwHash  : List Byte := []
  fwVer   : Nat := 0
  zero    : Option Nat := none
deriving DecidableEq, Repr

/-! ### Power, states, lifetime -/

/-- The six module states (chapter 00, R538). -/
inductive ModState where
  | off | kindling | damped | running | draining | fault
deriving DecidableEq, Repr

/-- Class of the input (R528). -/
inductive InClass where
  | out | derated | full
deriving DecidableEq, Repr

/-- Levels of the pins the module drives or senses (R543, R584, R585): high impedance, low, high. -/
inductive PinOut where
  | z | low | high
deriving DecidableEq, Repr

/-- A journal record (R549): kind, boot count, TIME, payload. -/
structure JRec where
  kind : Nat
  boot : Nat
  time : Nat
  body : List Byte
deriving DecidableEq, Repr

/-- Power, states and lifetime (chapter 18): module state, FAULT_REASON, collier started, RESET_IN_N asserted, input class,
switch open, bus voltage and input voltage in mV, input current in mA, input power in W, recovery cap applies, policy,
POWER_CAP_W, cap in force, POWER_STATE, power and thermal duty per die in 256ths, temperatures in tenths of a degree (hottest
North, South and Hub junction, hottest stack), governing temperatures of the last sample, alert asserted, trip during Kindling
held (R546) with its die and temperature, cause of a reset not yet raised, levels of the strap pins as last sensed, SLOT_CODE and FEED_CODE, pins PWR_GOOD,
FAULT_N, PPS_OUT, journal, lifetime counters (seconds of earlier power-ups, entries to Kindling from Off, ticks, flips, blocks,
thermal cycles with the low and high turn of the one under way, highest temperatures, column retirements, journal bytes
written with the 80 % mark passed, dips, losses, derates, surges, overvoltages, trips), payload of the newest LOSS record, the
loss not yet raised (cause, LAST_COMMIT_STEP), cause of the input's absence, codewords per lane (corrected, uncorrected), when
THERMAL_THROTTLE and CAP_CHANGE were last raised (ns). -/
structure PowSt where
  state    : ModState := .off
  reason   : Nat := 0
  collier  : Bool := false
  held     : Bool := false
  inClass  : InClass := .out
  swOpen   : Bool := true
  busMv    : Nat := 0
  inMv     : Nat := 0
  inMa     : Nat := 0
  inW      : Nat := 0
  recover  : Bool := false
  policy   : Nat := 0
  capW     : Nat := 2600
  cap      : Nat := 2600
  pstate   : Nat := 0
  dutyN    : Nat := 256
  dutyS    : Nat := 256
  thermN   : Nat := 256
  thermS   : Nat := 256
  tN       : Int := 0
  tS       : Int := 0
  tHub     : Int := 0
  tHbm     : Int := 0
  govN     : Int := 0
  govS     : Int := 0
  alert    : Bool := false
  trip     : Bool := false
  tripOf   : Nat × Nat := (0, 0)
  cause    : Option Nat := none
  slotPins : BitVec 6 := 0
  feedPins : BitVec 3 := 0
  slotCode : Nat := 0
  feedCode : Nat := 0
  pwrGood  : PinOut := .z
  faultN   : PinOut := .z
  pps      : PinOut := .z
  journal  : List JRec := []
  powered  : Nat := 0
  powerUps : Nat := 0
  ticks    : Nat := 0
  flips    : Nat := 0
  fires    : Nat := 0
  cycles   : Nat := 0
  cycLow   : Option Int := none
  cycHigh  : Int := 0
  cycUp    : Bool := false
  maxN     : Int := 0
  maxS     : Int := 0
  maxHub   : Int := 0
  maxHbm   : Int := 0
  remaps   : Nat := 0
  wear     : Nat := 0
  worn     : Bool := false
  dips     : Nat := 0
  losses   : Nat := 0
  derates  : Nat := 0
  surges   : Nat := 0
  overs    : Nat := 0
  trips    : Nat := 0
  lastLoss : List Byte := []
  lossNew  : Option (Nat × Nat) := none
  lossWhy  : Nat := 0
  lanes    : Tbl (Nat × Nat) := []
  thermAt  : Option Nat := none
  capAt    : Option Nat := none
deriving DecidableEq, Repr

/-! ### Test and service -/

/-- Test (chapter 19): instruction register, scan open and the session that opened it, boundary register, whether it drives the pins, what the last Capture-DR took, HDBG_RING result,
firmware recovery (R565), self-test failures of each die, spare rows next under test, SPARE_TEST_PASS_CNT, ticks since the
last online test, end of the last self-test, stopped-domain response to the last HDBG_RING (R268), self-test in progress (dies), lane test in progress (port, mode, seconds), burst read by
HDBG_HBM, collier core under COLLIER_DBG. -/
structure TstSt where
  ir       : BitVec 8 := 1
  scan     : Option Nat := none
  bsr      : BitVec 147 := 0
  takes    : Bool := false
  cap      : BitVec 147 := 0
  ring     : BitVec 64 := 0
  recovery : Bool := false
  failN    : Nat := 0
  failS    : Nat := 0
  rowN     : Nat := 0
  rowS     : Nat := 0
  passes   : Nat := 0
  sinceT   : Nat := 0
  lastT    : Nat := 0
  running  : Option Nat := none
  lane     : Option (Nat × Nat × Nat) := none
  hbmOut   : List Byte := []
  dbgCore  : Option Nat := none
  aborted  : Bool := false
deriving DecidableEq, Repr

/-! ### Cords -/

/-- State of a cord staging slot (R216, R219, R279). -/
inductive SlotSt where
  | empty | fetching | staged | rejected
deriving DecidableEq, Repr

/-- A cord staging slot: its state, the bytes it holds, the reason code of a rejection (R490), the context of its fetch (R453). -/
structure CSlot where
  st     : SlotSt := .empty
  bytes  : List Byte := []
  reason : Nat := 0
  ctx    : Nat := 0
deriving DecidableEq, Repr

/-- A load in progress (R215): the slot, the case of R215 at acceptance (1, 2, 3), the default rounding mode in force at
acceptance (R151), TICK_CNT at acceptance (R240). -/
structure LoadSt where
  slot  : Nat
  case  : Nat
  rnd   : Nat
  tick  : Nat := 0
deriving DecidableEq, Repr

/-- The installed cord and the staging slots (chapter 07). -/
structure CordSt where
  /-- the two staging slots (R215) -/
  slot0   : CSlot := {}
  slot1   : CSlot := {}
  /-- slot of the installed cord (R216) -/
  inst    : Option Nat := none
  /-- its generation (R234) -/
  gen     : BitVec 2 := 0
  /-- default rounding mode it runs with (R151): 0 RNE, 1 RZ, 2 stochastic -/
  rnd     : Nat := 0
  /-- load in progress (R215) -/
  load    : Option LoadSt := none
  /-- successor's slot while a switch is in progress (R238) -/
  succ    : Option Nat := none
  /-- default rounding mode the successor runs with -/
  succRnd : Nat := 0
  /-- ticks left for the switch (R240) -/
  handLeft : Nat := 0
  /-- hearths that have switched (R238) -/
  switched : List Nat := []
  /-- the step whose commit lets a switch that a void undid begin again (R241) -/
  holdOff : Option Nat := none
  /-- dump records of R194, packed as 64-bit words -/
  dumps   : List (BitVec 64) := []
deriving DecidableEq, Repr

/-- Core faults (R198, R199): records of the step not yet acted on, faults of the step against the limit of 64, FAULT_CNT, the rerun
of a voided step runs (R197), the last 256 records, records made so far and those made when the collier last acted, the stall
counters are frozen (R193), a fault of a rerun has not been acted on (R197), faults since the commit vote, which are the next
step's (R198). -/
structure FltSt where
  recs  : List FaultRec := []
  kept  : Nat := 0
  count : Nat := 0
  rerun : Bool := false
  log   : List FaultRec := []
  made  : Nat := 0
  seen  : Nat := 0
  frozen : Bool := false
  hit   : Bool := false
  keptNext : Nat := 0
deriving DecidableEq, Repr

/-- The module. -/
structure Mod where
  grid  : Grid := {}
  cord  : CordSt := {}
  tick  : TickSt := {}
  pow   : PowSt := {}
  flt   : FltSt := {}
  rem   : RemSt := {}
  dieN  : DieSt := {}
  dieS  : DieSt := {}
  cross : CrossSt := {}
  log   : LogSt := {}
  hbm   : HbmSt := {}
  peat  : PeatSt := {}
  train : TrainSt := {}
  exch  : ExchSt := {}
  clus  : ClusSt := {}
  eth   : EthSt := {}
  dma   : DmaSt := {}
  kop   : KopSt := {}
  sec   : SecSt := {}
  tst   : TstSt := {}
  /-- the model's own counter of free values (log entry 3) -/
  free  : Nat := 0
deriving DecidableEq, Repr

/-- The machine: the module and the commands that wait, first in, first out. -/
structure State where
  m       : Mod := {}
  pending : List Instr := []
deriving DecidableEq, Repr

/-- The machine right after reset. -/
def State.reset : State := {}

end Sys2Proof.Machine
end

