-- ==== Sys2Proof/Machine/Data.lean ====
section
/-! DEFINITION. Sparse tables and byte memories: reading, writing, the canonical form. A memory is a table of bytes; an unlisted byte reads 0 (log entry 2). -/

namespace Sys2Proof.Machine

/-- The entry at key k, `d` where none is listed. -/
def tGet {α : Type} (d : α) : Tbl α → Nat → α
  | [], _ => d
  | (j, v) :: t, k => if j = k then v else tGet d t k

/-- The table without key k. -/
def tDel {α : Type} : Tbl α → Nat → Tbl α
  | [], _ => []
  | (j, v) :: t, k => if j = k then tDel t k else (j, v) :: tDel t k

/-- An entry put at its place among rising keys. -/
def tIns {α : Type} : Tbl α → Nat → α → Tbl α
  | [], k, v => [(k, v)]
  | (j, w) :: t, k, v => if k < j then (k, v) :: (j, w) :: t else (j, w) :: tIns t k v

/-- The table with v at key k; a default value is not listed. -/
def tSet {α : Type} [DecidableEq α] (d : α) (t : Tbl α) (k : Nat) (v : α) : Tbl α :=
  if v = d then tDel t k else tIns (tDel t k) k v

/-- The canonical form: keys rise strictly and no entry is the default. -/
def tWf {α : Type} [DecidableEq α] (d : α) : Tbl α → Bool
  | [] => true
  | [(_, v)] => decide (v ≠ d)
  | (j, v) :: (k, w) :: t => decide (v ≠ d) && decide (j < k) && tWf d ((k, w) :: t)

/-- A byte of a memory. -/
def mGet (m : List Host.Cell) (a : Nat) : Byte := tGet (0 : Byte) m a

/-- A memory with one byte written. -/
def mSet (m : List Host.Cell) (a : Nat) (b : Byte) : List Host.Cell := tSet (0 : Byte) m a b

/-- The canonical form of a memory. -/
abbrev Memory.wf (m : List Host.Cell) : Bool := tWf (0 : Byte) m

/-- n bytes from address a upward. -/
def mRead (m : List Host.Cell) (a : Nat) : Nat → List Byte
  | 0 => []
  | n + 1 => mGet m a :: mRead m (a + 1) n

/-- Bytes written from address a upward. -/
def mWrite (m : List Host.Cell) (a : Nat) : List Byte → List Host.Cell
  | [] => m
  | b :: t => mWrite (mSet m a b) (a + 1) t

/-- The little-endian number of a run of bytes (R5). -/
def leNat : List Byte → Nat
  | [] => 0
  | b :: t => b.toNat + 256 * leNat t

/-- The n bytes of a number, little-endian (R5). -/
def leBytes : Nat → Nat → List Byte
  | 0, _ => []
  | n + 1, x => BitVec.ofNat 8 x :: leBytes n (x / 256)

/-- The big-endian number of a run of bytes (R5, network order). -/
def beNat (l : List Byte) : Nat := leNat l.reverse

/-- The n bytes of a number, big-endian (R5, network order). -/
def beBytes (n x : Nat) : List Byte := (leBytes n x).reverse

/-- Field of n bytes from byte `off` on, in network order. -/
def byteN (l : List Byte) (off n : Nat) : Nat := beNat ((l.drop off).take n)

/-- A 32-bit word of a memory, little-endian. -/
def mWord (m : List Host.Cell) (a : Nat) : Word := BitVec.ofNat 32 (leNat (mRead m a 4))

/-- A word as bytes. -/
def wBytes (w : Word) : List Byte := leBytes 4 w.toNat

/-- Words as bytes. -/
def wsBytes : List Word → List Byte
  | [] => []
  | w :: t => wBytes w ++ wsBytes t

/-- n words of a memory. -/
def mWords (m : List Host.Cell) (a : Nat) : Nat → List Word
  | 0 => []
  | n + 1 => mWord m a :: mWords m (a + 4) n

/-- A run of bytes as words, a last part of a word filled with zeros. -/
def bytesWords : Nat → List Byte → List Word
  | 0, _ => []
  | n + 1, l => BitVec.ofNat 32 (leNat (l.take 4)) :: bytesWords n (l.drop 4)

/-- Element n of a list, a default beyond its end. -/
def nth {α : Type} (d : α) (l : List α) (n : Nat) : α := l.getD n d

/-- The list with element n set; unchanged beyond its end. -/
def setAt {α : Type} (l : List α) (n : Nat) (v : α) : List α := l.set n v

end Sys2Proof.Machine
end

