-- ==== Sys2Proof/Machine/Link.lean ====
section
/-! DEFINITION. What leaves the ports: interfaces, their addresses and next hops (R434, R435), frames and their VLAN tags (R443, R446), the packets of a queue pair over its paths (R438 to R441), pausing (R445). -/

namespace Sys2Proof.Machine

def EthSt.iface (e : EthSt) (i : Nat) : IfSt := tGet {} e.ifs i
def EthSt.portOf (e : EthSt) (p : Nat) : PortSt := tGet {} e.ports p
def Mod.iface (m : Mod) (i : Nat) : IfSt := tGet {} m.eth.ifs i
def Mod.setIface (m : Mod) (i : Nat) (x : IfSt) : Mod := { m with eth := { m.eth with ifs := tSet {} m.eth.ifs i x } }
def Mod.port (m : Mod) (p : Nat) : PortSt := tGet {} m.eth.ports p
def Mod.setPort (m : Mod) (p : Nat) (x : PortSt) : Mod := { m with eth := { m.eth with ports := tSet {} m.eth.ports p x } }

/-! ### Addresses -/

/-- MAC address of an interface (R434). -/
def EthSt.ifMac (e : EthSt) (i : Nat) : Nat := e.mac.toNat + i
def Mod.ifMac (m : Mod) (i : Nat) : Nat := m.eth.ifMac i

/-- The EUI-64 of a MAC address, without its modified bit. -/
def eui64 (a : Nat) : Nat := a / 2 ^ 24 * 2 ^ 40 + 0xFFFE * 2 ^ 24 + a % 2 ^ 24

/-- Link-local address of an interface: the modified EUI-64 identifier of its MAC address (R435). -/
def EthSt.ifLocal (e : EthSt) (i : Nat) : BitVec 128 := BitVec.ofNat 128 (0xFE80 * 2 ^ 112 + Nat.xor (eui64 (e.ifMac i)) (2 ^ 57))
def Mod.ifLocal (m : Mod) (i : Nat) : BitVec 128 := m.eth.ifLocal i

/-- An IPv4 address in its IPv4-mapped form (R442). -/
def mapped4 (a : BitVec 32) : BitVec 128 := BitVec.ofNat 128 (0xFFFF * 2 ^ 32 + a.toNat)
def isMapped (a : BitVec 128) : Bool := a.toNat >>> 32 = 0xFFFF

/-- Two values agree in their highest `n` of `w` bits. -/
def samePrefix (w n a b : Nat) : Bool := a >>> (w - n) = b >>> (w - n)

/-- An IPv6 link-local address (R435). -/
def linkLocal (a : BitVec 128) : Bool := a.toNat >>> 64 = 0xFE80000000000000

/-- The next hop of a packet for an address on interface i (R435): the address itself within a prefix or link-local, else the gateway of
its family; none: unreachable from i. -/
def EthSt.nextHop (e : EthSt) (i : Nat) (a : BitVec 128) : Option (BitVec 128) :=
  let x := e.iface i
  if !x.up then none
  else if linkLocal a then some a
  else if isMapped a then
    if x.ip4 = 0 then none
    else if samePrefix 32 x.pre4 x.ip4.toNat (a.toNat % 2 ^ 32) then some a
    else if x.gw4 ≠ 0 then some (mapped4 x.gw4) else none
  else
    if x.ip6 = 0 then none
    else if samePrefix 128 x.pre6 x.ip6.toNat a.toNat then some a
    else if x.gw6 ≠ 0 then some x.gw6 else none

/-- A packet for an address can leave through interface i, directly or by its gateway (R435). -/
def Mod.reaches (m : Mod) (i : Nat) (a : BitVec 128) : Bool := (m.eth.nextHop i a).isSome

/-! ### Frames -/

/-- The 802.1Q tag of an interface's frames (R446): VID, DEI 0, PCP the priority of the class; none with VLAN_ID 0. -/
def EthSt.tag (e : EthSt) (i cls : Nat) : List Byte :=
  let v := (e.iface i).vlan
  if v = 0 then [] else beBytes 2 0x8100 ++ beBytes 2 (8192 * nth 6 e.prio cls + v)

/-- A frame of class M that an interface sends (R443). -/
def EthSt.frame (e : EthSt) (i dst etype : Nat) (body : List Byte) : List Byte :=
  beBytes 6 dst ++ beBytes 6 (e.ifMac i) ++ e.tag i 3 ++ beBytes 2 etype ++ body
def Mod.ethFrame (m : Mod) (i dst etype : Nat) (body : List Byte) : List Byte := m.eth.frame i dst etype body

/-- The longest frame that the module sends, without its frame check of 4 B (R433, log entry 125). -/
def frameMax : Nat := 4198

/-- The sum of the 16-bit words of a run of bytes in network order. -/
def sum16 : Nat → List Byte → Nat
  | 0, _ => 0
  | _ + 1, [] => 0
  | n + 1, l => 256 * beNat (l.take 1) + beNat ((l.drop 1).take 1) + sum16 n (l.drop 2)

/-- The Internet checksum. -/
def inetSum (l : List Byte) : Nat :=
  let s := sum16 l.length l
  let s := s % 65536 + s / 65536
  let s := s % 65536 + s / 65536
  65535 - s

/-- An ARP body of operation `op`. -/
def arpBody (op sha spa tha tpa : Nat) : List Byte :=
  beBytes 8 (0x0001080006040000 + op) ++ beBytes 6 sha ++ beBytes 4 spa ++ beBytes 6 tha ++ beBytes 4 tpa

/-- An ICMPv6 packet over IPv6, with its checksum; `rest` follows the checksum. -/
def icmp6 (src dst type hop : Nat) (rest : List Byte) : List Byte :=
  let n := 4 + rest.length
  let c := inetSum (beBytes 16 src ++ beBytes 16 dst ++ beBytes 4 n ++ beBytes 4 58 ++ beBytes 1 type ++ beBytes 1 0 ++
    beBytes 2 0 ++ rest)
  beBytes 4 0x60000000 ++ beBytes 2 n ++ beBytes 1 58 ++ beBytes 1 hop ++ beBytes 16 src ++ beBytes 16 dst ++
    beBytes 1 type ++ beBytes 1 0 ++ beBytes 2 c ++ rest

/-- A resolution request of an interface for a next hop (R434): an ARP request, or a Neighbour Solicitation to its solicited-node
group. -/
def EthSt.askFrame (e : EthSt) (i : Nat) (a : BitVec 128) : List Byte :=
  if isMapped a then
    e.frame i 0xFFFFFFFFFFFF 0x0806 (arpBody 1 (e.ifMac i) (e.iface i).ip4.toNat 0 (a.toNat % 2 ^ 32))
  else
    let low := a.toNat % 2 ^ 24
    let src := if linkLocal a then e.ifLocal i else (e.iface i).ip6
    e.frame i (0x3333FF000000 + low) 0x86DD
      (icmp6 src.toNat (0xFF02 * 2 ^ 112 + 0x1FF000000 + low) 135 255
        (beBytes 4 0 ++ beBytes 16 a.toNat ++ beBytes 2 0x0101 ++ beBytes 6 (e.ifMac i)))

/-! ### Leaving -/

/-- A packet of a class on an interface, before what it carries: DSCP, priority and VLAN tag (R443, R446). -/
def EthSt.pkt (e : EthSt) (i cls : Nat) (t : Tx) : Pkt :=
  { iface := i, cls := cls, dscp := nth 0 e.dscp cls, prio := nth 0 e.prio cls, vid := (e.iface i).vlan, item := t }

/-- A packet leaves, or waits where the peer has paused its priority on the port (R445). -/
def EthSt.out (e : EthSt) (p : Pkt) : EthSt :=
  if (e.portOf (p.iface / 4)).paused.contains p.prio then { e with held := e.held ++ [p] } else { e with link := e.link ++ [p] }

/-- The interface resolves a next hop that it has not asked for since its link came up (R434; log entry 125). -/
def EthSt.resolve (e : EthSt) (i : Nat) (a : BitVec 128) : EthSt :=
  if e.asked.contains (i, a) then e
  else ({ e with asked := e.asked ++ [(i, a)] }).out (e.pkt i 3 (.frame i (e.askFrame i a)))

/-- A packet goes to an address by interface i; nothing leaves where it is unreachable from there (R435). -/
def EthSt.sendIp (e : EthSt) (dst : BitVec 128) (p : Pkt) : EthSt :=
  match e.nextHop p.iface dst with
  | none => e
  | some n => (e.resolve p.iface n).out { p with dst := dst, next := n }

/-- UDP source port of a RoCEv2 packet (R439). -/
def Pkt.udpFrom (p : Pkt) : Nat := if p.port = 4791 then Config.srcPort p.ctx p.path % 65536 else 51480

/-- The queue pair number of KEX between modules (R508). -/
def kexQp : Nat := 65536

/-- Traffic class of a context (R443): X to a module, T for its remote windows, H to hosts and storage. -/
def QpSt.cls (x : QpSt) : Nat :=
  match x.rank with
  | some _ => if x.qpn = 0 || x.qpn = kexQp then 0 else 1
  | none => 2

/-- The address at the far end of a path. -/
def EthSt.pathDst (e : EthSt) (x : QpSt) (p : PathSt) : BitVec 128 :=
  match x.rank with
  | none => x.gid
  | some r => match (tGet [] e.addrs r).find? fun a => a.1 = p.rem with
    | some a => if p.rem = 255 then x.gid else a.2
    | none => x.gid

/-- A RoCEv2 packet leaves on a path of a context (R439, R441). -/
def EthSt.onPath (e : EthSt) (c cls part path : Nat) (t : Tx) : EthSt :=
  let x := tGet {} e.qps c
  match x.paths[path]? with
  | none => e
  | some p => e.sendIp (e.pathDst x p)
      { e.pkt p.loc cls t with ctx := c, path := path, port := 4791, ect := true, part := part }

/-- The path that a PSN takes first: the paths of a context in turn (log entry 125). -/
def QpSt.pathOf (x : QpSt) (psn : Nat) : Nat := psn % Nat.max 1 x.paths.length

/-- Parts 0 to n - 1 of an item leave from a PSN on. -/
def EthSt.parts (e : EthSt) (c cls psn n : Nat) (t : Tx) : EthSt :=
  (List.range n).foldl (fun e j => e.onPath c cls j ((tGet {} e.qps c).pathOf (psn + j)) t) e

/-- What the module hands to its interfaces, outside the requests of a context: `to'` is where a KOP client is. PTP goes over UDP, to
the multicast group of the interface's family; a CNP is of class M (R443, R447). -/
def EthSt.put (e : EthSt) (to' : Nat × BitVec 128 × Nat) (t : Tx) : EthSt :=
  let e := { e with wire := e.wire ++ [t] }
  match t with
  | .frame i _ => e.out (e.pkt i 3 t)
  | .ptp i k _ _ _ =>
    let dst := if (e.iface i).ip4 = 0 then BitVec.ofNat 128 (0xFF0E * 2 ^ 112 + 0x181) else mapped4 0xE0000181
    if (e.iface i).up then e.out { e.pkt i 3 t with dst := dst, next := dst, port := if k < 8 then 319 else 320 } else e
  | .kop _ _ => e.sendIp to'.2.1 { e.pkt to'.1 3 t with port := to'.2.2 }
  | .roce c op psn _ =>
    let x := tGet {} e.qps c
    e.onPath c (if op = 0x81 then 3 else x.cls) 0 (x.pathOf psn) t
  | _ => e

end Sys2Proof.Machine
end

