-- ==== Sys2Proof/Machine/Cord.lean ====
section
/-! DEFINITION. Reading a cord: header, section table, entries of fixed size, fields of an entry (R200 to R214, R384). -/

namespace Sys2Proof.Machine

/-- n bytes of an image from an offset, as a little-endian number (R200). -/
def cNat (c : List Byte) (off n : Nat) : Nat := leNat ((c.drop off).take n)

/-- A field of the cord header (R201). -/
def cHdr (c : List Byte) (hi lo : Nat) : Nat := slice (cNat c 0 128) hi lo

/-- The mode bits of a cord (R202). -/
def cModes (c : List Byte) : Nat := cHdr c 287 256
def cStatic (c : List Byte) : Bool := bitAt (cModes c) 0
def cCompact (c : List Byte) : Bool := bitAt (cModes c) 1
def cSingle (c : List Byte) : Bool := bitAt (cModes c) 2
def cPeat (c : List Byte) : Bool := bitAt (cModes c) 3
def cPhase (c : List Byte) : Nat := slice (cModes c) 5 4
def cDies (c : List Byte) : Nat := slice (cModes c) 7 6
def cDigestAct (c : List Byte) : Nat := slice (cModes c) 9 8
def cSrSeed (c : List Byte) : Bool := bitAt (cModes c) 10
def cNsect (c : List Byte) : Nat := cHdr c 55 48
def cId (c : List Byte) : Nat := cHdr c 127 64
def cPred (c : List Byte) : Nat := cHdr c 191 128
def cTotal (c : List Byte) : Nat := cHdr c 223 192
def cTickUs (c : List Byte) : Nat := cHdr c 239 224
def cVoidLimit (c : List Byte) : Nat := cHdr c 255 240
def cStepTicks (c : List Byte) : Nat := cHdr c 303 288
def cHandover (c : List Byte) : Nat := cHdr c 311 304

/-- Section table entry i, as a number of 768 bits (R203). -/
def cEnt (c : List Byte) (i : Nat) : Nat := cNat c (128 + 96 * i) 96

/-- Index of the first table entry of a type. -/
def cFindAux (c : List Byte) (ty : Nat) : Nat → Nat → Option Nat
  | 0, _ => none
  | n + 1, i => if slice (cEnt c i) 15 0 = ty then some i else cFindAux c ty n (i + 1)

/-- Index of the section table entry of a type (R205). -/
def cFind (c : List Byte) (ty : Nat) : Option Nat := cFindAux c ty (cNsect c) 0

/-- True where the cord holds a section of the type. -/
def cHas (c : List Byte) (ty : Nat) : Bool := (cFind c ty).isSome

/-- The bytes of the section of a type; empty where it is absent. -/
def cSect (c : List Byte) (ty : Nat) : List Byte :=
  match cFind c ty with
  | none => []
  | some i => (c.drop (slice (cEnt c i) 95 64)).take (slice (cEnt c i) 127 96)

/-- COUNT of the section of a type (R203). -/
def cCount (c : List Byte) (ty : Nat) : Nat :=
  match cFind c ty with
  | none => 0
  | some i => slice (cEnt c i) 63 32

/-- n entries of `size` bytes, each as a number. -/
def entriesOf (size : Nat) : Nat → List Byte → List Nat
  | 0, _ => []
  | n + 1, l => leNat (l.take size) :: entriesOf size n (l.drop size)

/-- The COUNT fixed-size entries of a section (R206 to R214). -/
def cRecs (c : List Byte) (ty size : Nat) : List Nat := entriesOf size (cCount c ty) (cSect c ty)

/-- Bytes put over a run of a list. -/
def putBytes (l : List Byte) (off : Nat) (b : List Byte) : List Byte := l.take off ++ b ++ l.drop (off + b.length)

/-- The entries of a replacement table (R400): its table ends where the first section that it names begins (log entry 36). -/
def replEnts (fb : List Byte) : Nat → Nat → Nat → List Nat
  | 0, _, _ => []
  | n + 1, pos, stop =>
    if pos + 96 ≤ stop then
      let e := leNat ((fb.drop pos).take 96)
      e :: replEnts fb n (pos + 96) (Nat.min stop (slice e 95 64))
    else []

/-- Types that a replacement table may name (R400). -/
def replTypes : List Nat := [1, 2, 3, 4, 5, 6, 7, 8, 9, 0xA, 0xB, 0xC, 0xE, 0x10, 0x11, 0x13, 0x14]

/-- A table entry replaces the one of its type, or comes after the last. -/
def putEnt (es : List Nat) (e : Nat) : List Nat :=
  match es.findIdx? (fun t => slice t 15 0 = slice e 15 0) with
  | some i => es.set i e
  | none => es ++ [e]

/-- The section table entries of a cord. -/
def cEnts (c : List Byte) : List Nat := (List.range (cNsect c)).map (cEnt c)

/-- A cord with another section table; a longer table moves every section on. -/
def cWithEnts (c : List Byte) (es : List Nat) : List Byte :=
  let more := 96 * (es.length - cNsect c)
  putBytes (c.take 128) 6 (leBytes 1 es.length) ++ es.flatMap (fun e => leBytes 96 (e + 2 ^ 64 * more)) ++
    c.drop (128 + 96 * cNsect c)

/-- The cord with the replacement sections of a partition in force (R400). -/
def cPatch (c : List Byte) (part : Nat) : List Byte :=
  if part = 0 then c
  else match cFind c 0xD with
    | none => c
    | some i =>
      let off := slice (cEnt c i) 95 64
      let fb := cSect c 0xD
      match (cRecs c 0xD 64).find? (fun e => slice e 3 0 = 5 && slice e 13 4 = part) with
      | none => c
      | some p =>
        let es := replEnts fb 32 (slice p 63 32) (slice p 63 32 + slice p 95 64)
        cWithEnts c (((es.filter fun e => replTypes.contains (slice e 15 0)).map fun e => e + 2 ^ 64 * off).foldl putEnt (cEnts c))

/-- The 32 B entries of the SCHEDULE section (R384). -/
def cSched (c : List Byte) : List Nat := cRecs c 8 32

/-- Header entry of the SCHEDULE section (R384). -/
def cSchedHdr (c : List Byte) : Nat := (cSched c).headD 0
def cNxs (c : List Byte) : Nat := slice (cSchedHdr c) 7 4 + 1
def cStgHbm (c : List Byte) : Nat := slice (cSchedHdr c) 9 8
def cStgEth (c : List Byte) : Nat := slice (cSchedHdr c) 11 10
def cTend (c : List Byte) : Nat := slice (cSchedHdr c) 57 32
def cOvrLimit (c : List Byte) : Nat := slice (cSchedHdr c) 71 64
def cNstage (c : List Byte) : Nat := slice (cSchedHdr c) 79 72
def cMbatch (c : List Byte) : Nat := slice (cSchedHdr c) 95 80
def cLastStep (c : List Byte) : Nat := slice (cSchedHdr c) 159 96

/-- A static schedule fits its tick at setting k (R270): its tick-end cycle over the clock of R248. -/
def staticFits (c : List Byte) (k us : Nat) : Bool := decide (cTend c * 2 ≤ us * (1200 + 225 * k))

/-- Logical coordinate packed as R70: [12] die, [11:6] row, [5:0] column. -/
def hDie (h : Nat) : Nat := slice h 12 12
def hRow (h : Nat) : Nat := slice h 11 6
def hCol (h : Nat) : Nat := slice h 5 0
def hPack (die row col : Nat) : Nat := die * 4096 + row * 64 + col

/-- A stage entry's rectangle holds the hearth (R384). -/
def stageHolds (e h : Nat) : Bool :=
  decide (slice e 12 12 = hDie h ∧ slice e 18 13 ≤ hRow h ∧ hRow h ≤ slice e 24 19 ∧
    slice e 30 25 ≤ hCol h ∧ hCol h ≤ slice e 36 31)

/-- The stage of a hearth, none where it is in no stage (R384). -/
def stageOf (c : List Byte) (h : Nat) : Option Nat :=
  ((cSched c).find? fun e => slice e 3 0 = 2 && stageHolds e h).map fun e => slice e 11 4

/-- The microbatch of a stage's slot of KIND 1 to 3 at schedule tick k, none where there is none (R384). -/
def slotMb (c : List Byte) (stage k : Nat) : Option Nat :=
  ((cSched c).find? fun e => slice e 3 0 = 3 && slice e 19 4 = k && slice e 27 20 = stage &&
    decide (1 ≤ slice e 30 28 ∧ slice e 30 28 ≤ 3)).map fun e => slice e 47 32

/-- The microbatch that a fault on a hearth voids at schedule tick k (R384). -/
def faultMb (c : List Byte) (h k : Nat) : Option Nat :=
  match stageOf c h with
  | none => none
  | some st => slotMb c st k

end Sys2Proof.Machine
end

