-- ==== Sys2Proof/Machine/Routes.lean ====
section
/-! DEFINITION. Numbers of cores, queues and producers (R71), the routes of the bulk mesh (R249, R251), the split routers of a multicast tree (R187, R211) and the way of a token in flight. -/

namespace Sys2Proof.Machine

/-! ### Names of the resources -/

/-- Core number of a scalar core n (R71). -/
def coreSc (n : Nat) : Nat := n + 5
/-- Core number of a vector core n (R71). -/
def coreVc (n : Nat) : Nat := n + 1
/-- Module-wide number of a core. -/
def cid (h core : Nat) : Nat := h * 128 + core
/-- Module-wide number of a queue. -/
def qid (c q : Nat) : Nat := c * 4 + q
/-- The hearth of a queue. -/
def qHearth (q : Nat) : Nat := q / 512
/-- The core number within its hearth of a queue. -/
def qCore (q : Nat) : Nat := q / 4 % 128
/-- Producer number of a request engine. -/
def prodEng (h e : Nat) : Nat := 4194304 + h * 4 + e
/-- Producer number of a remote window; as the target of a token, the outbound window itself. -/
def prodRem (w : Nat) : Nat := 8388608 + w
/-- Producer number of the Hub's own tokens: completion tokens of moves and gathers (R289, R387). -/
def prodHub : Nat := 16777216
/-- Producer number of DMA channel c (R457). -/
def prodDma (c : Nat) : Nat := 16777217 + c
/-- A number that stands for the Hub's side of a gateway, not for a queue or an engine of a hearth. -/
def isGate (n : Nat) : Bool := decide (8388608 ≤ n)

/-- Input queues of a core (R172): two for a scalar core, four else. -/
def inQueues (core : Nat) : Nat := if core < 5 then 4 else 2
/-- Output queues of a core (R172): four for a vector core, two else. -/
def outQueues (core : Nat) : Nat := if core ≠ 0 ∧ core < 5 then 4 else 2

/-- Indices of a list's elements. -/
def indices {α : Type} (l : List α) : List Nat := List.range l.length

/-! ### Routes -/

/-- Ports by which a route leaves a router: 0 to 3 mesh along the row up and down, along the column up and down; 4 to 7 the
same over express lanes; 8 the seam; 9 + n the queue n of the router's own hearth. -/
abbrev Hop := Nat × Nat

/-- Hops along a row from column c to column c' in strides of w, leaving by port p or p + 1. -/
def rowHops (die row w p c c' : Nat) : List Hop :=
  if c ≤ c' then (List.range ((c' - c) / w)).map fun i => (hPack die row (c + w * i), p)
  else (List.range ((c - c') / w)).map fun i => (hPack die row (c - w * i), p + 1)

/-- Hops along a column. -/
def colHops (die col w p r r' : Nat) : List Hop :=
  if r ≤ r' then (List.range ((r' - r) / w)).map fun i => (hPack die (r + w * i) col, p + 2)
  else (List.range ((r - r') / w)).map fun i => (hPack die (r - w * i) col, p + 3)

/-- MESH route between two hearths (R251): along the row, then along the column; over the seam at the target's column. -/
def meshHops (a b : Nat) : List Hop :=
  let row := rowHops (hDie a) (hRow a) 1 0 (hCol a) (hCol b)
  if hDie a = hDie b then row ++ colHops (hDie a) (hCol b) 1 0 (hRow a) (hRow b)
  else row ++ colHops (hDie a) (hCol b) 1 0 (hRow a) 0 ++ [(hPack (hDie a) 0 (hCol b), 8)] ++
    colHops (hDie b) (hCol b) 1 0 0 (hRow b)

/-- The express stop of a hearth's 8 by 8 block (R250, R251). -/
def expressStop (a : Nat) : Nat := hPack (hDie a) (8 * (hRow a / 8)) (8 * (hCol a / 8))

/-- EXPRESS route (R251); within one block of one die it is the MESH route. -/
def expressHops (a b : Nat) : List Hop :=
  let s := expressStop a
  let t := expressStop b
  if s = t then meshHops a b
  else
    let row := rowHops (hDie s) (hRow s) 8 4 (hCol s) (hCol t)
    let mid := if hDie a = hDie b then row ++ colHops (hDie s) (hCol t) 8 4 (hRow s) (hRow t)
      else row ++ colHops (hDie s) (hCol t) 8 4 (hRow s) 0 ++ [(hPack (hDie s) 0 (hCol t), 8)] ++
        colHops (hDie t) (hCol t) 8 4 0 (hRow t)
    meshHops a s ++ mid ++ meshHops t b

/-- The Hub gateway of a hearth: in column 0 of its band of eight rows (R249; log entry 99 for the choice among the eight). -/
def gateOf (h : Nat) : Nat := hPack (hDie h) (8 * (hRow h / 8) + 4) 0

/-- From a hearth out by its gateway, the west port of column 0, and from there to a queue (R249, R251). -/
def toGate (h : Nat) : List Hop := meshHops h (gateOf h) ++ [(gateOf h, 1)]
def fromGate (q : Nat) : List Hop := meshHops (gateOf (qHearth q)) (qHearth q) ++ [(qHearth q, 9 + q % 512)]

/-- From a hearth to the HBM fabric of a die, by the outward port of row 63 in its column, and back to a queue (R249, R275; log
entry 99 for the column). -/
def toHbm (h d : Nat) : List Hop := meshHops h (hPack d 63 (hCol h)) ++ [(hPack d 63 (hCol h), 2)]
def fromHbm (d q : Nat) : List Hop :=
  meshHops (hPack d 63 (hCol (qHearth q))) (qHearth q) ++ [(qHearth q, 9 + q % 512)]

/-- Hops of a tree branch from the source hearth to a target queue, its last port the queue itself. -/
def branchHops (src q : Nat) (express : Bool) : List Hop :=
  (if express then expressHops src (qHearth q) else meshHops src (qHearth q)) ++ [(qHearth q, 9 + q % 512)]

/-- The split routers of a tree with their branches, each the targets it serves: routers at which its branches leave by more than
one port (R187). -/
def splitNodes (src : Nat) (targets : List (Nat × Bool)) : List RepNode :=
  let route := fun (i : Nat) => let t := nth (0, false) targets i; branchHops src t.1 t.2
  let hops : List (Nat × Nat × Nat) := (List.range targets.length).flatMap fun i => (route i).map fun p => (p.1, p.2, i)
  let routers := (hops.map Prod.fst).eraseDups
  let node := fun (r : Nat) =>
    let here := hops.filter fun p => p.1 = r
    let ports := (here.map fun p => p.2.1).eraseDups
    { router := r, branches := ports.map fun p => ((here.filter fun x => x.2.1 = p).map fun x => x.2.2).eraseDups : RepNode }
  (routers.map node).filter fun n => decide (1 < n.branches.length)

/-- Target entries of a tree (R211): queue and route class. -/
def treeTargets (recs : List Nat) (t : Nat) : List (Nat × Bool) :=
  (recs.filter fun r => slice r 3 0 = 2 && slice r 15 4 = t).map fun r =>
    (qid (cid (slice r 28 16) (slice r 35 29)) (slice r 37 36), bitAt r 38)

/-! ### Flights -/

/-- The hops of a flight's route: from its producer's hearth, or from the gateway, to its queue; to the gateway for a token of an
outbound window. A flight of a tree is on the route of its first target. -/
def Flight.hops (f : Flight) : List Hop :=
  if isGate f.target then toGate (qHearth f.tok.prod)
  else if isGate f.tok.prod then fromGate f.target
  else branchHops (qHearth f.tok.prod) f.target f.express

/-- Virtual channel (R252): 0 unicast and the tokens of gateways, 1 multicast. -/
def Flight.vc (f : Flight) : Nat := if f.tree.isSome then 1 else 0

/-- Input port by which the flight has come to its router: that of the link it took; where it entered the mesh, 9 for the hearth's
own injection, and for a gateway the west side of column 0. -/
def Flight.inPort (f : Flight) : Nat :=
  if f.hop = f.start then (if isGate f.tok.prod then 0 else 9) else (nth (0, 9) f.hops (f.hop - 1)).2

/-- The buffer in which the flight stands: router, input port (10 while the gateway holds it), channel, route stage (R251,
R252). -/
def Flight.place (f : Flight) : Nat × Nat × Nat × Bool :=
  ((nth (0, 9) f.hops f.hop).1, if f.hop = f.start ∧ isGate f.tok.prod = true then 10 else f.inPort, f.vc,
    (f.hops.take f.hop).any fun p => decide (4 ≤ p.2 ∧ p.2 < 8))

/-- Entries of a link buffer by its port (R252); a hearth's injection and a gateway hold what has been sent. -/
def linkDepth (port : Nat) : Option Nat := if port < 4 then some 4 else if port < 8 then some 6 else if port = 8 then some 8 else none

/-- The flight stands at the router of its target queue, or at the gateway. -/
def Flight.there (f : Flight) : Bool := decide (f.hop + 1 = f.hops.length)

/-- The output a flight asks for: its router and port. -/
def Flight.asks (f : Flight) : Hop := nth (0, 9) f.hops f.hop

/-- The flight after its next hop, and the router it then stands at. -/
def Flight.next (f : Flight) : Flight := { f with hop := f.hop + 1 }

/-- The buffer that a flight's next hop takes it to has an entry free among these flights: the link credit (R252). -/
def Flight.roomIn (f : Flight) (l : List Flight) : Bool :=
  match linkDepth f.next.inPort with
  | some n => decide ((l.filter fun x => x.place = f.next.place).length < n)
  | none => true

end Sys2Proof.Machine
end

