-- ==== Sys2Proof/Machine/Ops.lean ====
section
/-! DEFINITION. The named operations over the grid: access to its tables, raising a core fault (R196), hearth store accesses (R40, R41), report counters (R242), queues, credits and sending (R170 to R190), arrival of a token (R173, R237). -/

namespace Sys2Proof.Machine

/-! ### Access to the tables -/

def Mod.hearth (m : Mod) (h : Nat) : Hearth := tGet {} m.grid.hearths h
def Mod.ctl (m : Mod) (c : Nat) : Ctl := tGet {} m.grid.ctls c
def Mod.sc (m : Mod) (c : Nat) : ScSt := tGet {} m.grid.scs c
def Mod.vc (m : Mod) (c : Nat) : VcSt := tGet {} m.grid.vcs c
def Mod.mc (m : Mod) (c : Nat) : McSt := tGet {} m.grid.mcs c
def Mod.inq (m : Mod) (q : Nat) : InQ := tGet {} m.grid.inqs q
def Mod.outq (m : Mod) (q : Nat) : OutQ := tGet {} m.grid.outqs q
def Mod.tree (m : Mod) (t : Nat) : Tree := tGet {} m.grid.trees t

def Mod.setHearth (m : Mod) (h : Nat) (x : Hearth) : Mod :=
  { m with grid := { m.grid with hearths := tSet {} m.grid.hearths h x } }
def Mod.setCtl (m : Mod) (c : Nat) (x : Ctl) : Mod :=
  { m with grid := { m.grid with ctls := tSet {} m.grid.ctls c x } }
def Mod.setSc (m : Mod) (c : Nat) (x : ScSt) : Mod :=
  { m with grid := { m.grid with scs := tSet {} m.grid.scs c x } }
def Mod.setVc (m : Mod) (c : Nat) (x : VcSt) : Mod :=
  { m with grid := { m.grid with vcs := tSet {} m.grid.vcs c x } }
def Mod.setMc (m : Mod) (c : Nat) (x : McSt) : Mod :=
  { m with grid := { m.grid with mcs := tSet {} m.grid.mcs c x } }
def Mod.setInq (m : Mod) (q : Nat) (x : InQ) : Mod :=
  { m with grid := { m.grid with inqs := tSet {} m.grid.inqs q x } }
def Mod.setOutq (m : Mod) (q : Nat) (x : OutQ) : Mod :=
  { m with grid := { m.grid with outqs := tSet {} m.grid.outqs q x } }
def Mod.setTree (m : Mod) (t : Nat) (x : Tree) : Mod :=
  { m with grid := { m.grid with trees := tSet {} m.grid.trees t x } }

/-- A meaning as an effect on the module: the queue of waiting commands is left alone. -/
def lift (f : Mod → Mod) (s : State) : Host.Outcome State Fault Refusal := .next { s with m := f s.m }

/-- A staging slot. -/
def Mod.slot (m : Mod) (n : Nat) : CSlot := if n = 0 then m.cord.slot0 else m.cord.slot1

/-- The cord of a staging slot, with the sections that the partition in force replaces (R400). -/
def Mod.cordIn (m : Mod) (n : Nat) : List Byte := cPatch (m.slot n).bytes m.clus.part

/-- The installed cord in force; empty with none installed. -/
def Mod.img (m : Mod) : List Byte :=
  match m.cord.inst with
  | some n => m.cordIn n
  | none => []

/-- The cord that a hearth runs: the successor's once the hearth has switched (R238). -/
def Mod.imgOf (m : Mod) (h : Nat) : List Byte :=
  match m.cord.succ with
  | some n => if m.cord.switched.contains h then m.cordIn n else m.img
  | none => m.img

/-! ### Report counters (R242) -/

/-- Adds to counter word w of a hearth's record of the tick; it saturates at 2^48 - 1. -/
def Hearth.count (x : Hearth) (w n : Nat) : Hearth :=
  { x with rep := tSet 0 x.rep w (satAdd (2 ^ 48 - 1) (tGet 0 x.rep w) n) }

def Mod.count (m : Mod) (h w n : Nat) : Mod := m.setHearth h ((m.hearth h).count w n)

/-! ### Core faults -/

/-- A fault record is kept (R199): of a step the first 64, the rest counted only (R198); the last 256 stay readable (R492). A fault
after the commit vote is one of the next step (R198). That a rerun met a fault is held even where no record is (R197). -/
def Mod.keepFault (m : Mod) (r : FaultRec) : Mod :=
  let f := { m.flt with count := m.flt.count + 1, hit := m.flt.hit || r.rerun }
  let f := if (if m.train.voted then f.keptNext else f.kept) < 64 then
      let l := f.log ++ [r]
      { f with recs := f.recs ++ [r], made := f.made + 1, log := l.drop (l.length - 256) }
    else f
  { m with flt := if m.train.voted then { f with keptNext := satAdd 64 f.keptNext 1 } else { f with kept := satAdd 64 f.kept 1 } }

/-- A core fault of R195 raised on a core for the instruction at `pc`: the core stops, a fault record is kept (the first 64 of a
step, R198), the ring stop holds the urgent condition (R261); an HS address fault sets ADDR_FAULT (R62). A fault after the
module's commit vote belongs to the next step, so it is none of a rerun (R198). -/
def Mod.raiseAt (m : Mod) (h core cls code pc : Nat) : Mod :=
  let c := cid h core
  let mb := faultMb (m.imgOf h) h m.tick.k
  let r : FaultRec :=
    { cls := cls, code := code, hearth := h, core := core, hlevel := false, rerun := m.flt.rerun && !m.train.voted, pc := pc,
      tick := m.tick.cnt.toNat % 2 ^ 32, mb := mb, mbs := mb.toList }
  let m := m.setCtl c { m.ctl c with faulted := true, wait := .none }
  let hh := m.hearth h
  let m := m.setHearth h { hh with urgent := true, addrFlt := hh.addrFlt || decide (code = 9) }
  m.keepFault r

/-- A core fault raised on a core at the instruction it stands at. -/
def Mod.raise (m : Mod) (h core cls code : Nat) : Mod := m.raiseAt h core cls code (m.ctl (cid h core)).pc

/-! ### The hearth store -/

/-- An access of n bytes at address a lies in a declared region (R40). -/
def Hearth.inRegion (x : Hearth) (a n : Nat) : Bool :=
  x.regions.any fun r => decide (r.base ≤ a ∧ a + n ≤ r.base + r.len)

/-- Two runs of bytes overlap. -/
def overlap (a n b k : Nat) : Bool := decide (a < b + k ∧ b < a + n)

/-- A grant of the bank of address a to local requester r moves the bank's class-3 pointer past it (R41). Requesters:
0 engine 0, 1 OBA load, 2 OBB load, 3 sequencer fetch, 4 to 7 the vector cores, 8 the transposing read port. R41 names no
requester for the matrix core's other accesses (TILE's bias, a DRAIN's writes and key, the ACC spill) nor for the firing unit's
schedule: they are taken as 3 (log entry 24). -/
def Hearth.grant (x : Hearth) (a r : Nat) : Hearth := { x with c3 := tSet 0 x.c3 (slice a 8 6) ((r + 1) % 9) }

/-- Grants of the banks of every granule of n bytes at address a. -/
def Hearth.grants (x : Hearth) (a n r : Nat) : Hearth :=
  (List.range (min 8 (ceilDiv (a % 64 + n) 64))).foldl (fun x i => x.grant (a + 64 * i) r) x

/-- Bytes read from a hearth store by a local requester; B_HS counts them. -/
def Hearth.read (x : Hearth) (r a n : Nat) : List Byte × Hearth :=
  (mRead x.hs a n, (x.grants a n r).count 11 n)

/-- Bytes written to a hearth store by a local requester. -/
def Hearth.write (x : Hearth) (r a : Nat) (b : List Byte) : Hearth :=
  let y := (x.grants a b.length r).count 11 b.length
  { y with hs := mWrite y.hs a b }

/-! ### Tokens and queues -/

/-- The 32-bit header of a token (R168). -/
def Token.hdr (t : Token) : Word :=
  BitVec.ofNat 32 (t.seq.toNat + 2 ^ 22 * b2n t.eot + 2 ^ 23 * b2n t.mask + 2 ^ 24 * t.tag.toNat + 2 ^ 30 * t.gen.toNat)

/-- A token from its header and payload. -/
def Token.ofHdr (w : Word) (words : List Word) : Token :=
  { seq := w.extractLsb' 0 20, eot := w.getLsbD 22, mask := w.getLsbD 23, tag := w.extractLsb' 24 6,
    gen := w.extractLsb' 30 2, words := words }

/-- A drain marker (R235): header only, TAG 0x3F, EOT 1. -/
def Token.isMarker (t : Token) : Bool := t.tag == 0x3F#6 && t.eot && t.words.isEmpty

/-- A token that a core of generation g may take (R177, R227, R237): visible, of its generation, no marker. -/
def QTok.takeable (g : BitVec 2) (t : QTok) : Bool := t.vis && t.tok.gen == g && !t.tok.isMarker

/-- Depth of an input queue (R173). -/
def InQ.size (q : InQ) : Nat := 16 + q.depth

/-- Tokens of a queue that the core may take, in its router part (R177). -/
def InQ.ready (g : BitVec 2) (q : InQ) : Nat := (q.router.filter (·.takeable g)).length

/-- Tokens of both parts that the core may take (R79). -/
def InQ.seen (g : BitVec 2) (q : InQ) : List QTok := (q.router ++ q.spill).filter (·.takeable g)

/-- A list without its first element that meets p, and that element. -/
def takeFirst {α : Type} (p : α → Bool) : List α → Option (α × List α)
  | [] => none
  | a :: t => if p a then some (a, t) else (takeFirst p t).map fun r => (r.1, a :: r.2)

/-- The base of the spill area of a hearth (R208 KIND 5). -/
def Hearth.spillBase (x : Hearth) : Nat :=
  match x.regions.find? (·.kind = 5) with
  | some r => r.base
  | none => 0

/-- Spill depths of the hearth's queues, in ascending order of core and queue (R50). -/
def Mod.spillDepths (m : Mod) (h : Nat) : List (Nat × Nat) :=
  (m.grid.inqs.filter fun p => qHearth p.1 = h && decide (0 < p.2.depth)).map fun p => (p.1, p.2.depth)

/-- Sum of the depths of the queues before q, and of all (R50). -/
def Mod.spillSums (m : Mod) (h q : Nat) : Nat × Nat :=
  let l := m.spillDepths h
  (((l.filter fun p => p.1 < q).map Prod.snd).sum, (l.map Prod.snd).sum)

/-- Payload and header address of the i-th token that enters the spill part of queue q (R50). -/
def Mod.spillAddr (m : Mod) (q i : Nat) : Nat × Nat :=
  let h := qHearth q
  let b := (m.hearth h).spillBase
  let s := m.spillSums h q
  let g := s.1 + i % (m.inq q).depth
  (b + 64 * g, b + 64 * s.2 + 4 * g)

/-- A token put into an input queue (R173): the router part while the spill part is empty and a place is free, else the
spill part, whose bytes lie in the hearth store (R50, R51). A token of a tick-staged queue is not yet visible (R227). -/
def Mod.enterQ (m : Mod) (q : Nat) (t : QTok) : Mod :=
  let x := m.inq q
  let t := { t with vis := !x.staged }
  if x.spill.isEmpty && decide (x.router.length < 16) then m.setInq q { x with router := x.router ++ [t] }
  else
    let p := m.spillAddr q x.spillNo
    let h := qHearth q
    let hh := (m.hearth h).count 25 68
    let hh := { hh with hs := mWrite (mWrite hh.hs p.1 (wsBytes t.tok.words)) p.2 (wBytes t.tok.hdr) }
    (m.setHearth h hh).setInq q { x with spill := x.spill ++ [t], spillNo := x.spillNo + 1 }

/-- Removal of the first token that the core may take; its credit is on its way back (R175). -/
def Mod.takeTok (m : Mod) (q : Nat) : Option (Token × Mod) :=
  let x := m.inq q
  match takeFirst (·.takeable (m.hearth (qHearth q)).gen) x.router with
  | none => none
  | some (t, r) => some (t.tok, m.setInq q { x with router := r, back := x.back + 1 })

/-- Producers that a cord binds to an input queue (R236): an output queue, a multicast source, a remote window. -/
def producersOf (c : List Byte) (q : Nat) : List Nat :=
  let outs := (cRecs c 5 16).filter fun r => slice r 3 0 = 2
  let oq := fun (r : Nat) => qid (cid (slice r 16 4) (slice r 23 17)) (slice r 25 24)
  let uni := (outs.filter fun r => slice r 27 26 = 1 &&
    decide (qid (cid (slice r 44 32) (slice r 51 45)) (slice r 53 52) = q)).map oq
  let trees := ((cSect c 6 |> entriesOf 16 (cCount c 6)).filter fun r => slice r 3 0 = 2 &&
    decide (qid (cid (slice r 28 16) (slice r 35 29)) (slice r 37 36) = q)).map fun r => slice r 15 4
  let multi := (outs.filter fun r => slice r 27 26 = 2 && trees.contains (slice r 79 64)).map oq
  let rem := ((cRecs c 16 32).filter fun r => bitAt r 4 &&
    decide (qid (cid (slice r 45 33) (slice r 52 46)) (slice r 54 53) = q)).map fun r => prodRem (slice r 20 5)
  uni ++ multi ++ rem

/-- An outstanding gather of the queue's hearth that will deliver to it (R236). -/
def Mod.owedTo (m : Mod) (q : Nat) : Bool :=
  (m.hearth (qHearth q)).reqs.any fun r => match r.op with
    | .gather d _ => d == q
    | _ => false

/-- An input queue of the predecessor is drained, while a switch is in progress and its hearth has not switched (R236). -/
def Mod.drained (m : Mod) (q : Nat) : Bool :=
  m.cord.succ.isSome && !m.cord.switched.contains (qHearth q) &&
    (producersOf m.img q).all (fun p => (m.inq q).markers.contains p) && !m.owedTo q

/-- A queue's credits are open to a producer of generation g: the hearth's own, or the queue is drained (R236). -/
def Mod.opens (m : Mod) (q : Nat) (g : BitVec 2) : Bool := (m.hearth (qHearth q)).gen == g || m.drained q

/-- Room that an output queue finds for n tokens (R177): unicast credits, tree credits or remote window credits. -/
def Mod.roomFor (m : Mod) (oq n : Nat) : Bool :=
  let o := m.outq oq
  if o.marker then decide (n = 0)
  else match o.bind with
  | .none => decide (n = 0)
  | .unicast q _ =>
    let x := m.inq q
    decide (n ≤ x.credit) && (m.opens q (m.hearth (qHearth oq)).gen || decide (n = 0))
  | .tree t => decide (n ≤ (m.tree t).credit)
  | .remote w => decide (n ≤ (tGet {} m.rem.out w).credit)

/-- Room reserved for n tokens (R178). -/
def Mod.reserve (m : Mod) (oq n : Nat) : Mod :=
  let o := m.outq oq
  let m := m.setOutq oq { o with room := o.room + n }
  match o.bind with
  | .none => m
  | .unicast q _ => m.setInq q { m.inq q with credit := (m.inq q).credit - n }
  | .tree t => m.setTree t { m.tree t with credit := (m.tree t).credit - n }
  | .remote w =>
    let x := tGet {} m.rem.out w
    { m with rem := { m.rem with out := tSet {} m.rem.out w { x with credit := x.credit - n } } }

/-- Reserved room not used is released (R66, R180). -/
def Mod.releaseQ (m : Mod) (oq : Nat) : Mod :=
  let o := m.outq oq
  let n := o.room
  let m := m.setOutq oq { o with room := 0 }
  match o.bind with
  | .none => m
  | .unicast q _ => m.setInq q { m.inq q with credit := (m.inq q).credit + n }
  | .tree t => m.setTree t { m.tree t with credit := (m.tree t).credit + n }
  | .remote w =>
    let x := tGet {} m.rem.out w
    { m with rem := { m.rem with out := tSet {} m.rem.out w { x with credit := x.credit + n } } }

/-! ### Multicast -/

/-- Index of the split router of a tree that stands at a router. -/
def Tree.nodeAt (tr : Tree) (r : Nat) : Option Nat := tr.nodes.findIdx? fun n => n.router = r

/-- The flight of a token of tree t from a router on: it serves the targets `ks`, on the route of the first of them. -/
def Tree.flight (tr : Tree) (t : Nat) (tok : Token) (router : Nat) (ks : List Nat) : Flight :=
  let x := nth (0, false) tr.targets (ks.headD 0)
  let i := ((branchHops (qHearth tr.src) x.1 x.2).findIdx? fun p => p.1 = router).getD 0
  { target := x.1, tok := { tok := tok, prod := tr.src }, tree := some (t, ks), express := x.2, hop := i, start := i }

/-- A flight meets a further split router of its tree on the rest of its way. -/
def Tree.splitsAhead (tr : Tree) (f : Flight) : Bool := (f.hops.drop (f.hop + 1)).any fun p => (tr.nodeAt p.1).isSome

/-- A flight leaves its split router: towards a further one when the link has credit (R252), towards its target queue when that has
(R175), open to the token's generation (R236). -/
def Mod.launch (m : Mod) (tr : Tree) (f : Flight) : Option Mod :=
  let fly := fun (m : Mod) => { m with grid := { m.grid with flights := m.grid.flights ++ [f] } }
  if tr.splitsAhead f then (if f.roomIn m.grid.flights then some (fly m) else none)
  else
    let x := m.inq f.target
    if 0 < x.credit ∧ m.opens f.target f.tok.tok.gen then some (fly (m.setInq f.target { x with credit := x.credit - 1 }))
    else none

/-- Forwards what a split router owes on its branches, in entry order on each branch, where there is credit (R188). One pass over
the entries: `blocked` are the branches on which an earlier entry still waits. -/
def repForward (m : Mod) (t : Nat) (tr : Tree) (n : RepNode) :
    List (Token × List (Nat × List Nat)) → List Nat → Mod × List (Token × List (Nat × List Nat))
  | [], _ => (m, [])
  | (tok, owed) :: rest, blocked =>
    let step := fun (a : Mod × List (Nat × List Nat)) (b : Nat × List Nat) =>
      if blocked.contains b.1 then (a.1, a.2 ++ [b])
      else match a.1.launch tr (tr.flight t tok n.router b.2) with
        | some m => (m, a.2)
        | none => (a.1, a.2 ++ [b])
    let r := owed.foldl step (m, [])
    let rest := repForward r.1 t tr n rest (blocked ++ r.2.map Prod.fst)
    (rest.1, if r.2.isEmpty then rest.2 else (tok, r.2) :: rest.2)

/-- One split router of a tree forwards what it can; freed entries leave its buffer. -/
def Mod.forwardNode (m : Mod) (t i : Nat) : Mod :=
  let tr := m.tree t
  let n := nth {} tr.nodes i
  let r := repForward m t tr n n.entries []
  let tr := r.1.tree t
  r.1.setTree t { tr with nodes := setAt tr.nodes i { n with entries := r.2 } }

/-- A token of a tree for the targets `ks` reaches a split router: it takes an entry of the buffer, owed on the branches that serve
them, and goes on at once where there is credit (R188). -/
def Mod.enterNode (m : Mod) (t i : Nat) (tok : Token) (ks : List Nat) : Mod :=
  let tr := m.tree t
  let n := nth {} tr.nodes i
  let owed := ((indices n.branches).map fun b => (b, (nth [] n.branches b).filter ks.contains)).filter fun b => !b.2.isEmpty
  (m.setTree t { tr with nodes := setAt tr.nodes i { n with entries := n.entries ++ [(tok, owed)] } }).forwardNode t i

/-- A token of a tree is sent (R187 to R190): it enters the buffer of the source's own router where the tree divides there, else it
flies to the first router where it does. -/
def Mod.sendTree (m : Mod) (t : Nat) (tok : Token) : Mod :=
  let tr := m.tree t
  let ks := indices tr.targets
  match tr.nodeAt (qHearth tr.src) with
  | some i => m.enterNode t i tok ks
  | none => { m with grid := { m.grid with flights := m.grid.flights ++ [tr.flight t tok (qHearth tr.src) ks] } }

/-! ### Sending -/

/-- A token sent on an output queue against reserved room: the header of R67, the sequence counter (R170), the report
counters, and the way its binding gives. -/
def Mod.send (m : Mod) (oq : Nat) (words : List Word) (tag : BitVec 6) (mask eot : Bool) : Mod :=
  let h := qHearth oq
  let o := m.outq oq
  let t : Token := { seq := o.seq, eot := eot, mask := mask, tag := tag, gen := (m.hearth h).gen, words := words }
  let m := m.setOutq oq { o with seq := o.seq + 1, room := o.room - 1, marker := o.marker || t.isMarker }
  let m := if mask then m.count h 6 1 else m
  let n := 4 + 4 * words.length
  match o.bind with
  | .none => m
  | .unicast q ex =>
    let m := m.count h 7 n
    { m with grid := { m.grid with flights := m.grid.flights ++ [{ target := q, tok := { tok := t, prod := oq }, express := ex }] } }
  | .tree k => (m.count h 8 n).sendTree k t
  | .remote w =>
    let m := m.count h 7 n
    { m with grid := { m.grid with flights := m.grid.flights ++ [{ target := prodRem w, tok := { tok := t, prod := oq } }] } }

/-- A token that the Hub injects by a gateway into a queue, against a credit of it (R175, R249, R392). -/
def Mod.injectTok (m : Mod) (prod q : Nat) (t : Token) : Mod :=
  let x := m.inq q
  let m := m.setInq q { x with credit := x.credit - 1 }
  { m with grid := { m.grid with flights := m.grid.flights ++ [{ target := q, tok := { tok := t, prod := prod } }] } }

/-- A stale token is dropped, counted in STALE and reported through the hearth's event FIFO of 4, whose overrun is
counted (R237, R265, R266). -/
def Mod.stale (m : Mod) (q : Nat) (t : Token) : Mod :=
  let h := qHearth q
  let hh := (m.hearth h).count 27 1
  let m := m.setInq q { m.inq q with back := (m.inq q).back + 1 }
  if hh.stale.length < 4 then
    m.setHearth h { hh with stale := hh.stale ++ [{ queue := q, gen := t.gen, tag := t.tag }], urgent := true }
  else
    let m := m.setHearth h { hh with urgent := true }
    { m with cross := { m.cross with ovrHearth := true, cntHearth := satAdd 65535 m.cross.cntHearth 1 } }

/-- A token that reaches its queue is judged by its generation and enters, or is dropped as stale (R237). -/
def Mod.arrive (m : Mod) (q : Nat) (t : QTok) : Mod :=
  let g := (m.hearth (qHearth q)).gen
  if t.tok.gen == g then (if m.drained q then m.stale q t.tok else m.enterQ q t)
  else if t.tok.gen == g + 1 then m.enterQ q t
  else m.stale q t.tok

/-! ### Firing -/

/-- Cores run: a cord executes, or drains (chapter 00). -/
def Mod.coresRun (m : Mod) : Bool := m.pow.state == .running || m.pow.state == .draining

/-- Blocks may start: the module is Running and an attempt of the cord runs (R386, R394, R539). -/
def Mod.starts (m : Mod) : Bool := m.pow.state == .running && m.train.running

/-- A die runs (R271). -/
def Mod.dieRuns (m : Mod) (d : Nat) : Bool := (if d = 0 then m.dieN else m.dieS).run == .running

/-- A core of a hearth may work: placed, not stopped by a fault, its hearth not stopped nor halted, its die running. -/
def Mod.live (m : Mod) (h core : Nat) : Bool :=
  m.coresRun && (m.ctl (cid h core)).placed && !(m.ctl (cid h core)).faulted &&
    !(m.hearth h).stopped && !(m.hearth h).halted && m.dieRuns (hDie h)

/-- A core issues: it is live, in a started block and not waiting. -/
def Mod.issues (m : Mod) (h core : Nat) : Bool :=
  m.live h core && (m.ctl (cid h core)).wait == .none &&
    match (m.ctl (cid h core)).phase with
    | .idle => false
    | .ending _ => false
    | _ => true

/-- Sets the program counter of a core. -/
def Mod.setPc (m : Mod) (c pc : Nat) : Mod := m.setCtl c { m.ctl c with pc := pc }

/-- The block ends: reserved room not used is released, the core is outside a block (R66, R180). -/
def Mod.endBlock (m : Mod) (h core b : Nat) : Mod :=
  let c := cid h core
  let m := (List.range (outQueues core)).foldl (fun m q => m.releaseQ (qid c q)) m
  m.setCtl c { m.ctl c with phase := .idle, last := some b, takes := [], inCnt := [], outCnt := [], wait := .none }

end Sys2Proof.Machine
end

