-- ==== Sys2Proof/Machine/Wire.lean ====
section
/-! DEFINITION. What stands on the wire: fields of a header in network byte order (R5), exchange messages (R362, R363), cluster messages (R402), token batches (R391), KOP PDUs (R466), read from bytes and written as bytes. -/

namespace Sys2Proof.Machine

/-- Field [hi:lo] of a header in network byte order (R5): a field on byte boundaries is a big-endian integer, any other
field lies bit by bit. -/
def netGet (l : List Byte) (hi lo : Nat) : Nat :=
  if lo % 8 = 0 ∧ (hi + 1) % 8 = 0 then beNat ((l.drop (lo / 8)).take ((hi + 1 - lo) / 8)) else slice (leNat l) hi lo

/-- What a field adds to the header read as a little-endian number. -/
def netPut (hi lo v : Nat) : Nat :=
  if lo % 8 = 0 ∧ (hi + 1) % 8 = 0 then 2 ^ lo * leNat (beBytes ((hi + 1 - lo) / 8) v)
  else 2 ^ lo * (v % 2 ^ (hi + 1 - lo))

/-- A header of n bytes from its fields (hi, lo, value); bits not named are 0 (R9). -/
def netHdr (n : Nat) (fs : List (Nat × Nat × Nat)) : List Byte :=
  leBytes n ((fs.map fun f => netPut f.1 f.2.1 f.2.2).sum)

/-! ### Exchange messages -/

def ExMsg.bytes (x : ExMsg) : List Byte :=
  netHdr 64 [(3, 0, x.kind), (4, 4, b2n x.nonfin), (15, 8, x.npart), (31, 16, x.bucket), (43, 32, x.sender),
    (47, 44, x.attempt), (63, 48, x.piece), (127, 64, x.step), (159, 128, x.chunk), (191, 160, x.len),
    (223, 192, x.samples), (239, 224, x.tensor), (295, 256, x.first)] ++ x.body

def ExMsg.ofBytes (l : List Byte) : ExMsg :=
  { kind := netGet l 3 0, nonfin := netGet l 4 4 = 1, npart := netGet l 15 8, bucket := netGet l 31 16,
    sender := netGet l 43 32, attempt := netGet l 47 44, piece := netGet l 63 48, step := netGet l 127 64,
    chunk := netGet l 159 128, len := netGet l 191 160, samples := netGet l 223 192, tensor := netGet l 239 224,
    first := netGet l 295 256, body := l.drop 64 }

/-- A partial record of 16 B (R363). -/
def PartRec.bytes (r : PartRec) : List Byte :=
  netHdr 16 [(15, 0, r.piece), (31, 16, r.tensor), (63, 32, r.samples), (127, 64, r.sumsq.toNat)]

def PartRec.ofBytes (l : List Byte) : PartRec :=
  { piece := netGet l 15 0, tensor := netGet l 31 16, samples := netGet l 63 32,
    sumsq := BitVec.ofNat 64 (netGet l 127 64) }

/-- The records of a SUMMARY's body. -/
def partRecs : Nat → List Byte → List PartRec
  | 0, _ => []
  | n + 1, l => PartRec.ofBytes (l.take 16) :: partRecs n (l.drop 16)

/-! ### Cluster messages -/

def ClMsg.bytes (x : ClMsg) : List Byte :=
  netHdr 64 [(3, 0, x.kind), (7, 4, x.vkind), (8, 8, b2n x.nfSkip), (9, 9, b2n x.ckpt), (10, 10, b2n x.recov),
    (27, 16, x.sender), (31, 28, x.attempt), (41, 32, x.part), (59, 48, x.subject), (127, 64, x.step),
    (191, 128, x.tick), (207, 192, x.tensor), (223, 208, x.nrec), (255, 224, x.len), (295, 256, x.first),
    (335, 296, x.offset), (351, 336, x.cover), (415, 352, x.last)] ++ x.body

def ClMsg.ofBytes (l : List Byte) : ClMsg :=
  { kind := netGet l 3 0, vkind := netGet l 7 4, nfSkip := netGet l 8 8 = 1, ckpt := netGet l 9 9 = 1,
    recov := netGet l 10 10 = 1, sender := netGet l 27 16, attempt := netGet l 31 28, part := netGet l 41 32,
    subject := netGet l 59 48, step := netGet l 127 64, tick := netGet l 191 128, tensor := netGet l 207 192,
    nrec := netGet l 223 208, len := netGet l 255 224, first := netGet l 295 256, offset := netGet l 335 296,
    cover := netGet l 351 336, last := netGet l 415 352, body := l.drop 64 }

/-! ### Token batches -/

/-- A token record of 72 B (R391): header and payload little-endian, payload length in words. -/
def tokRec (hdr : Word) (words : List Word) : List Byte :=
  wBytes hdr ++ leBytes 1 words.length ++ leBytes 3 0 ++ wsBytes words ++ leBytes (64 - 4 * words.length) 0

/-- Header word and payload of a token record. -/
def tokOfRec (l : List Byte) : Word × List Word :=
  (BitVec.ofNat 32 (leNat (l.take 4)), bytesWords (slice (leNat ((l.drop 4).take 1)) 4 0) (l.drop 8))

/-- The n token records of a batch body. -/
def tokRecs : Nat → List Byte → List (Word × List Word)
  | 0, _ => []
  | n + 1, l => tokOfRec (l.take 72) :: tokRecs n (l.drop 72)

/-- The 32 B header of a batch (R391). -/
def batchHdr (window sender attempt step tick ntok credit : Nat) : List Byte :=
  netHdr 32 [(15, 0, window), (27, 16, sender), (31, 28, attempt), (95, 32, step), (111, 96, tick), (117, 112, ntok),
    (143, 128, credit)]

/-! ### KOP PDUs -/

/-- The 32 B header of a PDU (R466). -/
structure Pdu where
  version : Nat := 1
  op      : Nat := 0
  signed  : Bool := false
  resp    : Bool := false
  status  : Nat := 0
  session : Nat := 0
  seq     : Nat := 0
  index   : Nat := 0
  sub     : Nat := 0
  count   : Nat := 0
  elem    : Nat := 0
  len     : Nat := 0
  detail  : Nat := 0
  value   : List Byte := []
deriving DecidableEq, Repr

/-- A PDU without signature and tag. -/
def Pdu.bytes (p : Pdu) : List Byte :=
  netHdr 32 [(3, 0, p.version), (7, 4, p.op), (8, 8, b2n p.signed), (9, 9, b2n p.resp), (31, 16, p.status),
    (63, 32, p.session), (95, 64, p.seq), (111, 96, p.index), (119, 112, p.sub), (127, 120, p.count),
    (159, 128, p.elem), (175, 160, p.len), (223, 192, p.detail)] ++ p.value

/-- The PDU that bytes hold; the value is the LEN bytes after the header (R468). -/
def Pdu.ofBytes (l : List Byte) : Pdu :=
  { version := netGet l 3 0, op := netGet l 7 4, signed := netGet l 8 8 = 1, resp := netGet l 9 9 = 1,
    status := netGet l 31 16, session := netGet l 63 32, seq := netGet l 95 64, index := netGet l 111 96,
    sub := netGet l 119 112, count := netGet l 127 120, elem := netGet l 159 128, len := netGet l 175 160,
    detail := netGet l 223 192, value := (l.drop 32).take (netGet l 175 160) }

end Sys2Proof.Machine
end

