-- ==== Sys2Proof/Machine/Hub.lean ====
section
/-! DEFINITION. Operations of the Hub and the collier that many commands share: time, events and their notices (R471, R481, R482), entropy, sealed messages (R512), HBM through the side views (R326, R332), regions, the journal (R549), state changes (R538, R539), stopping a cord at the end of the tick, departure (R418). -/

namespace Sys2Proof.Machine

/-! ### Time, entropy, the wire -/

/-- TIME of R472: ns since the PTP epoch once calendar time is known, else ns since power-up with bit 63 set. -/
def Mod.time (m : Mod) : Nat :=
  match m.tick.date with
  | some d => (d + m.tick.now) % 2 ^ 63
  | none => 2 ^ 63 + m.tick.now % 2 ^ 63

/-- A draw of n bits from the entropy source. -/
def Mod.draw (m : Mod) (n : Nat) : Nat × Mod := (Config.entropy m.free % 2 ^ n, { m with free := m.free + 1 })

/-- A free value (log entry 3). -/
def Mod.openVal (m : Mod) : Nat × Mod := (Config.freeValue m.free, { m with free := m.free + 1 })

def Mod.ksess (m : Mod) (s : Nat) : KSess := tGet {} m.kop.sess s

/-- Where a KOP PDU goes: to its session's client, else to the sender of the datagram in hand. -/
def Mod.kopTo (m : Mod) (t : Tx) : Nat × BitVec 128 × Nat :=
  match t with
  | .kop s _ => if (m.ksess s).live then (m.ksess s).src else m.kop.src
  | _ => (0, 0, 0)

/-- The module hands something to its interfaces. -/
def Mod.put (m : Mod) (t : Tx) : Mod := { m with eth := m.eth.put (m.kopTo t) t }

/-! ### Sessions of KOP and events -/

def Mod.setKsess (m : Mod) (s : Nat) (x : KSess) : Mod := { m with kop := { m.kop with sess := tSet {} m.kop.sess s x } }

/-- A module-originated PDU (R471): it takes the session's next module sequence and waits for its ACK. A RESULT names the
command's ARG object. -/
def Mod.originate (m : Mod) (s op status detail : Nat) (sub : Option Nat) (value : List Byte) (index : Nat := 0) : Mod :=
  let x := m.ksess s
  let o := b2n (index ≠ 0)
  let p := Pdu.bytes { op := op, status := status, session := s, seq := x.mseq, index := index, sub := o, count := o,
                       len := value.length, detail := detail, value := value }
  (m.setKsess s { x with mseq := x.mseq + 1,
                         unacked := x.unacked ++ [{ seq := x.mseq, op := op, sub := sub, pdu := p, sends := 1 }] }).put
    (.kop s p)

/-- The 32 B of an event record (R482), little-endian. -/
def EvRec.bytes (e : EvRec) : List Byte :=
  leBytes 8 e.seq ++ leBytes 8 e.time ++ leBytes 2 e.code ++ leBytes 2 0 ++ leBytes 4 e.d0 ++ leBytes 8 e.d1

/-- A NOTIFY for one event to a session's matching subscriptions; a GAP set is sent and cleared (R471, R481). -/
def Mod.notifyEvent (m : Mod) (s : Nat) (e : EvRec) : Mod :=
  let go := fun (m : Mod) (u : KSub) =>
    if !u.values && u.ranges.any (fun r => decide (r.1 ≤ e.code ∧ e.code ≤ r.2)) then
      let m := m.originate s 7 0 0 (some u.no) (beBytes 2 u.no ++ beBytes 1 (b2n u.gap) ++ e.bytes)
      let x := m.ksess s
      m.setKsess s { x with subs := x.subs.map fun v => if v.no = u.no then { v with gap := false } else v }
    else m
  (m.ksess s).subs.foldl go m

/-- Journal records are kept for these events as they are raised (R550): of power, trust, column map and core faults. Those of HBM and
flash retirement enter the journal when the retirement is complete (R298, R322). -/
def evJournal (code : Nat) : Bool :=
  decide (0x8A00 ≤ code ∧ code ≤ 0x8BFF) || [0x8201, 0x8203].contains code

/-- A journal record (R549): its 16 B header, its payload and its CRC wear the journal (R548). -/
def Mod.journal (m : Mod) (kind : Nat) (body : List Byte) : Mod :=
  { m with pow := { m.pow with wear := m.pow.wear + 20 + body.length
                               journal := m.pow.journal ++ [{ kind := kind, boot := m.pow.powerUps, time := m.time, body := body }] } }

/-- An event is logged, the oldest of 4,096 given up, and sent to the matching subscriptions (R481, R482). -/
def Mod.event (m : Mod) (code d0 d1 : Nat) : Mod :=
  let e : EvRec := { seq := m.log.next, time := m.time, code := code, d0 := d0 % 2 ^ 32, d1 := d1 % 2 ^ 64 }
  let l := m.log.ring ++ [e]
  let m := { m with log := { ring := l.drop (l.length - 4096), next := m.log.next + 1 } }
  let m := if evJournal code then m.journal 2 e.bytes else m
  m.kop.sess.foldl (fun m p => m.notifyEvent p.1 e) m

/-- Packed location of R219: hearth, core, queue or window. -/
def packLoc (h core q : Nat) : Nat := h + 2 ^ 13 * core + 2 ^ 20 * q

/-! ### Sealed messages -/

def Mod.msess (m : Mod) (r : Nat) : MSess := tGet {} m.sec.sess r
def Mod.setMsess (m : Mod) (r : Nat) (x : MSess) : Mod := { m with sec := { m.sec with sess := tSet {} m.sec.sess r x } }

/-- A transport context, and the one that carries a queue pair to a peer module (R441, R448). -/
def Mod.qp (m : Mod) (c : Nat) : QpSt := tGet {} m.eth.qps c
def Mod.setQp (m : Mod) (c : Nat) (x : QpSt) : Mod := { m with eth := { m.eth with qps := tSet {} m.eth.qps c x } }
def Mod.qpOf (m : Mod) (r qp : Nat) : Option Nat :=
  (m.eth.qps.find? fun p => p.2.rank = some r && p.2.qpn = qp).map Prod.fst

/-- An item is a READ. -/
def Tx.isRead : Tx → Bool
  | .read _ _ _ _ => true
  | _ => false

/-- READs of a context that are outstanding. -/
def QpSt.reads (x : QpSt) : Nat := (x.sent.filter fun r => r.item.isRead).length

/-- A request leaves on a context (R438, R440, R441): it takes n PSNs, its parts go out on the paths in turn, and it waits for its
acknowledgement. A READ leaves as one packet. -/
def Mod.request (m : Mod) (c n : Nat) (t : Tx) : Mod :=
  let x := m.qp c
  let out := if t.isRead then 1 else n
  let on := fun (j : Nat) => match x.paths[x.pathOf (x.psn.toNat + j)]? with
    | some p => (j, p.loc, p.rem)
    | none => (j, 255, 255)
  let m := m.setQp c { x with psn := x.psn + BitVec.ofNat 24 n,
                              sent := x.sent ++ [{ psn := x.psn.toNat, n := n, item := t, left := (List.range n).map on }] }
  { m with eth := ({ m.eth with wire := m.eth.wire ++ [t] }).parts c x.cls x.psn.toNat out t }

/-- A READ leaves unless 64 of the context are outstanding or one waits already (R438). -/
def Mod.askRead (m : Mod) (c n : Nat) (t : Tx) : Mod :=
  let x := m.qp c
  if x.later.isEmpty && decide (x.reads < 64) then m.request c n t else m.setQp c { x with later := x.later ++ [(n, t)] }

/-- PSNs that a run of bytes takes, at least one (R438). -/
def psnsOf (n : Nat) : Nat := Nat.max 1 (ceilDiv n 4096)

/-- A message sealed and sent to a rank: queue pair, place of a gather's shard (R387; else a WRITE with immediate), plaintext. Its
CTR counts from 1 (R512). It waits while the session is not open (R508); nothing is sent on a context in error (R440). -/
def Mod.sendOut (m : Mod) (r : Nat) (p : Nat × Option (Nat × Nat) × List Byte) : Mod :=
  let x := m.msess r
  if x.open' then
    let c := tGet 0 x.tx p.1 + 1
    let t := match p.2.1 with
      | some g => Tx.gather r c g.1 g.2 p.2.2
      | none => Tx.sealed r p.1 c p.2.2
    match m.qpOf r p.1 with
    | some k =>
      if (m.qp k).run == .error then m
      else (m.setMsess r { x with tx := tSet 0 x.tx p.1 c }).request k (psnsOf (p.2.2.length + 32)) t
    | none => (m.setMsess r { x with tx := tSet 0 x.tx p.1 c }).put t
  else m.setMsess r { x with out := x.out ++ [p] }

/-- A message on queue pair qp. -/
def Mod.sendTo (m : Mod) (r qp : Nat) (plain : List Byte) : Mod := m.sendOut r (qp, none, plain)

/-- What a receiver makes of a sealed message (R404, R512, R513). -/
inductive Opened where
  | suite
  | bad
  | replay
  | ok (plain : List Byte)
deriving DecidableEq, Repr

/-- Judgement of a sealed message from a rank: a tag that fails, a repeated or old CTR, a reserved SUITE, else its
plaintext, and the last CTR accepted. -/
def Mod.openMsg (m : Mod) (r qp suite ctr : Nat) (body : Option (List Byte)) : Opened × Mod :=
  let x := m.msess r
  match body with
  | none => (.bad, m)
  | some p =>
    if !x.open' then (.bad, m)
    else if ctr ≤ tGet 0 x.rx qp then
      (.replay, { m with sec := { m.sec with replay := m.sec.replay + 1 } }.event 0x8B03 r ctr)
    else
      let m := m.setMsess r { x with rx := tSet 0 x.rx qp ctr }
      if suite ≠ 1 then (.suite, m) else (.ok p, m)

/-! ### The cord in force -/

/-- The fixed-size entries of a section of the cord in force. -/
def Mod.recs (m : Mod) (ty size : Nat) : List Nat := cRecs m.img ty size

def Mod.sched (m : Mod) : List Nat := m.recs 8 32
def Mod.schedHdr (m : Mod) : Nat := m.sched.headD 0
/-- HBMMAP entries (R280). -/
def Mod.hbmmap (m : Mod) : List Nat := m.recs 0x11 32
/-- SHARDS entries (R335). -/
def Mod.shards (m : Mod) : List Nat := m.recs 0xC 64
/-- SHARDS entries of the cord as loaded: mirror entries name the partner's shards by their index there (R399). -/
def Mod.shards0 (m : Mod) : List Nat :=
  match m.cord.inst with
  | some n => cRecs (m.slot n).bytes 0xC 64
  | none => []
def Mod.shHdr (m : Mod) : Nat := m.shards.headD 0
/-- This module's rank SELF and the number of ranks NMOD. -/
def Mod.self (m : Mod) : Nat := slice m.shHdr 43 32
def Mod.nmod (m : Mod) : Nat := slice m.shHdr 31 16
def Mod.emberBf16 (m : Mod) : Bool := bitAt m.shHdr 44
def Mod.sideDelta (m : Mod) : Nat := slice m.shHdr 103 64
/-- PARAMS entries (R340), BUCKETS entries (R358), FALLBACK entries (R399), REMOTE entries (R390), PEAT entries (R306). -/
def Mod.params (m : Mod) : List Nat := m.recs 0xE 64
def Mod.buckets (m : Mod) : List Nat := m.recs 0xB 32
def Mod.fallback (m : Mod) : List Nat := m.recs 0xD 64
def Mod.remotes (m : Mod) : List Nat := m.recs 0x10 32
def Mod.peatEnts (m : Mod) : List Nat := m.recs 0x12 32

/-- A shard entry, its fields (R335). -/
def isShard (e : Nat) : Bool := slice e 3 0 = 3
def shTensor (e : Nat) : Nat := slice e 31 16
def shOwner (e : Nat) : Nat := slice e 43 32
def shFirst (e : Nat) : Nat := slice e 103 64
def shCount (e : Nat) : Nat := slice e 143 104
def shMaster (e : Nat) : Nat := slice e 183 144
def shMom (e : Nat) : Nat := slice e 223 184
def shEmb (e : Nat) : Nat := slice e 263 224
def shStage (e : Nat) : Nat := slice e 303 264
def shWork (e : Nat) : Nat := slice e 343 304
def shKey (e : Nat) : Nat := slice e 375 344

/-- The shards this module owns, in entry order. -/
def Mod.owned (m : Mod) : List Nat := m.shards.filter fun e => isShard e && shOwner e = m.self

/-- The partner of a rank: the other rank of its pair (R398). -/
def Mod.partner (m : Mod) : Option Nat :=
  (m.fallback.find? fun e => slice e 3 0 = 2 && (slice e 15 4 = m.self || slice e 27 16 = m.self)).map fun e =>
    if slice e 15 4 = m.self then slice e 27 16 else slice e 15 4

/-- The ranks that participate: every rank but the lost (R420). -/
def Mod.ranks (m : Mod) : List Nat := (List.range m.nmod).filter fun r => !m.clus.lost.contains r

/-- Mirror entries of shards (R399). -/
def Mod.mirrors (m : Mod) : List Nat := m.fallback.filter fun e => slice e 3 0 = 3

/-! ### HBM -/

/-- A region entry of HBMMAP that holds address a (R280). -/
def regionHolds (e a : Nat) : Bool :=
  slice e 3 0 = 1 && decide (slice e 55 16 ≤ a ∧ a < slice e 55 16 + slice e 103 64)

/-- KIND of the region of an address; 0 where no region holds it. -/
def Mod.regionKind (m : Mod) (a : Nat) : Nat :=
  match m.hbmmap.find? (regionHolds · a) with
  | some e => slice e 11 4
  | none => 0

/-- Bytes of the moment image of c parameters (R332): groups of 2,048, the last rounded up to 64 B. -/
def momBytes (c : Nat) : Nat :=
  4224 * (c / 2048) + if c % 2048 = 0 then 0 else 64 * ceilDiv (2 * (c % 2048) + 2 * ceilDiv (c % 2048) 32) 64

/-- Bytes of the ember image of c parameters. -/
def Mod.embBytes (m : Mod) (c : Nat) : Nat := if m.emberBf16 then 2 * c else 4 * c

/-- The master of a mirror entry that an address belongs to, in C-view (1) or W-view (2) (R399). -/
def Mod.mirrorView (m : Mod) (a : Nat) : Nat :=
  let f := fun (e : Nat) =>
    let n := 4 * shCount (nth 0 m.shards0 (slice e 47 16))
    let b := slice e 87 48
    if slice e 4 4 = 1 then 0 else if b ≤ a ∧ a < b + n then 1
    else if b + m.sideDelta ≤ a ∧ a < b + m.sideDelta + n then 2 else 0
  (m.mirrors.map f).foldl Nat.max 0

/-- The physical side address that an HBM address reaches with a side committed (R326): with side B the C-view moves up and the
W-view down by SIDE_DELTA; mirror addresses resolve alike. -/
def Mod.viewAt (m : Mod) (side : Bool) (a : Nat) : Nat :=
  if !side then a
  else
    match m.regionKind a with
    | 1 => a + m.sideDelta
    | 2 => a - m.sideDelta
    | 6 => (match m.mirrorView a with
      | 1 => a + m.sideDelta
      | 2 => a - m.sideDelta
      | _ => a)
    | _ => a

/-- The physical side address on the mapping in force. -/
def Mod.view (m : Mod) (a : Nat) : Nat := m.viewAt m.hbm.side a

/-- n bytes at a physical module address; a burst with an uncorrectable error delivers zeros (R294). -/
def Mod.hbmRaw (m : Mod) (a n : Nat) : List Byte :=
  if m.hbm.bad.isEmpty then mRead m.hbm.mem a n
  else (List.range n).map fun i => if m.hbm.bad.contains ((a + i) / 64) then 0 else mGet m.hbm.mem (a + i)

/-- Bytes written at a physical module address; whole bursts written are sound again. -/
def Mod.hbmPut (m : Mod) (a : Nat) (b : List Byte) : Mod :=
  { m with hbm := { m.hbm with mem := mWrite m.hbm.mem a b,
                               bad := m.hbm.bad.filter fun u => !decide (a ≤ 64 * u ∧ 64 * u + 64 ≤ a + b.length) } }

/-- The staging entry of PEAT (R306), the PEAT_STAGE region's base and length, and where its slots begin (R309). -/
def Mod.stageEnt (m : Mod) : Nat := m.peatEnts.headD 0
def Mod.listEnts (m : Mod) : Nat := slice m.stageEnt 31 16
def Mod.dirtyMax (m : Mod) : Nat := slice m.stageEnt 63 32
def Mod.stageBase (m : Mod) : Nat := slice (nth 0 m.hbmmap (slice m.stageEnt 79 64)) 55 16
def Mod.stageLen (m : Mod) : Nat := slice (nth 0 m.hbmmap (slice m.stageEnt 79 64)) 103 64
/-- Segment entries (R306) and the turves they declare. -/
def Mod.segs (m : Mod) : List Nat := m.peatEnts.filter fun e => slice e 3 0 = 2
def Mod.declTurves (m : Mod) : Nat := (m.segs.map fun e => slice e 127 96).sum
/-- Offset of the residency index and of the slots (R309). -/
def Mod.indexOff (m : Mod) : Nat := 16384 + 32 * m.listEnts
def Mod.slotsOff (m : Mod) : Nat := m.indexOff + 16384 * ceilDiv (8 * m.declTurves) 16384
def Mod.nslots (m : Mod) : Nat := (m.stageLen - m.slotsOff) / 16384
/-- HBM address of slot i. -/
def Mod.slotAddr (m : Mod) (i : Nat) : Nat := m.stageBase + m.slotsOff + 16384 * i

/-- An address in the segment directory or the residency index, which the module writes (R309). -/
def Mod.peatOwn (m : Mod) (a : Nat) : Bool :=
  !m.peatEnts.isEmpty && decide ((m.stageBase ≤ a ∧ a < m.stageBase + 16384) ∨
    (m.stageBase + m.indexOff ≤ a ∧ a < m.stageBase + m.slotsOff))

/-- A read and a write through the views, on the mapping of a committed side (R327). A request stays within one region, so its first
byte decides. What the module writes into the segment directory and the residency index is a free value (log entry 82). -/
def Mod.hbmReadAt (m : Mod) (side : Bool) (a n : Nat) : List Byte :=
  let b := m.hbmRaw (m.viewAt side a) n
  if m.peatOwn a then (indices b).map fun i => Config.peatMeta (a + i) m.peat.clock else b
def Mod.hbmWriteAt (m : Mod) (side : Bool) (a : Nat) (b : List Byte) : Mod := m.hbmPut (m.viewAt side a) b
def Mod.hbmRead (m : Mod) (a n : Nat) : List Byte := m.hbmReadAt m.hbm.side a n
def Mod.hbmWrite (m : Mod) (a : Nat) (b : List Byte) : Mod := m.hbmWriteAt m.hbm.side a b

/-- A run joined to the runs that it meets. -/
def addRun (l : List (Nat × Nat)) (a b : Nat) : List (Nat × Nat) :=
  let meets := fun (p : Nat × Nat) => decide (p.1 ≤ b ∧ a ≤ p.2)
  let t := l.filter meets
  ((t.map Prod.fst).foldl Nat.min a, (t.map Prod.snd).foldl Nat.max b) :: l.filter fun p => !meets p

/-- A request of the cord writes through the views: what it writes into W-view masters and stages counts for the commit vote
(R24, R328), if it reached the fabric in this attempt. -/
def Mod.hbmUpdate (m : Mod) (side : Bool) (a : Nat) (b : List Byte) : Mod :=
  let m := m.hbmWriteAt side a b
  if m.train.running && side == m.hbm.side && (m.regionKind a = 2 || m.regionKind a = 13) then
    { m with hbm := { m.hbm with wrote := addRun m.hbm.wrote a (a + b.length) } }
  else m

/-- Bytes of the moment image of c parameters without what rounds its last group up (R332). -/
def momData (c : Nat) : Nat := 4224 * (c / 2048) + 2 * (c % 2048) + 2 * (c % 2048 / 32)

/-- The update has written the non-committed side (R328): every owned shard's W-view masters, and its moments and ember values in the
stage. -/
def Mod.updateDone (m : Mod) : Bool :=
  let has := fun (a n : Nat) => m.hbm.wrote.any fun p => decide (p.1 ≤ a ∧ a + n ≤ p.2)
  m.owned.all fun e => has (shMaster e + m.sideDelta) (4 * shCount e) &&
    has (shStage e) (momData (shCount e)) && has (shStage e + momBytes (shCount e)) (m.embBytes (shCount e))

/-- Address of the committed side of a master address in C-view. -/
def Mod.cSide (m : Mod) (a : Nat) : Nat := if m.hbm.side then a + m.sideDelta else a

/-- Bytes that the settle has not copied yet, as destinations and as stage sources (R331). -/
def Mod.unsettledDst (m : Mod) (a n : Nat) : Bool := (m.hbm.settle ++ m.hbm.restore).any fun s => overlap a n s.dst s.len
def Mod.unsettledSrc (m : Mod) (a n : Nat) : Bool := m.hbm.settle.any fun s => overlap a n s.src s.len

/-- The die on which an address lies by its logical set: sets 0 to 15 lie on North (R277). -/
def hbmDie (a : Nat) : Nat := if a < 384000000000 then 0 else 1

/-- The logical set of an address, and its base. -/
def hbmSet (a : Nat) : Nat := a / 24000000000

/-- The die whose stacks hold a physical side address: that of the physical set which the set map joins to its set (R277, R283). -/
def Mod.dieAt (m : Mod) (p : Nat) : Nat := nth 0 m.hbm.setMap (hbmSet p) / 16

/-- n bytes at a physical side address lie on dies that run (R267). -/
def Mod.onDies (m : Mod) (p n : Nat) : Bool := m.dieRuns (m.dieAt p) && m.dieRuns (m.dieAt (p + (n - 1)))

/-- The module channel of an address under the set map (R277). -/
def Mod.hbmChan (m : Mod) (a : Nat) : Nat :=
  let p := nth 0 m.hbm.setMap (hbmSet a)
  let g := a % 24000000000 / 256
  let mm := g % 12
  32 * (6 * (p / 16) + mm % 6) + 2 * (p % 16) + mm / 6

/-- An address in a reserved area (R278). -/
def hbmReserved (a : Nat) : Bool :=
  decide ((383000000000 ≤ a ∧ a < 384000000000) ∨ 767000000000 ≤ a)

/-! ### Hearth stores from outside the hearth -/

/-- Bytes written to a hearth store over the mesh or the ring (class 2 of R41). -/
def Mod.hsPut (m : Mod) (h a : Nat) (b : List Byte) : Mod :=
  let x := m.hearth h
  m.setHearth h { x with hs := mWrite x.hs a b }

def Mod.hsGet (m : Mod) (h a n : Nat) : List Byte := mRead (m.hearth h).hs a n

/-- The region of a kind that a hearth declares. -/
def Hearth.region? (x : Hearth) (kind : Nat) : Option Region := x.regions.find? (·.kind = kind)

/-- Hearths that the cord places: those that have a core with a program. -/
def Mod.placed (m : Mod) : List Nat :=
  ((m.grid.ctls.filter fun p => p.2.placed).map fun p => p.1 / 128).eraseDups

/-- The placed cores of a hearth, as core numbers. -/
def Mod.coresOf (m : Mod) (h : Nat) : List Nat :=
  (m.grid.ctls.filter fun p => p.2.placed && p.1 / 128 = h).map fun p => p.1 % 128

/-! ### States -/

/-- The number of a state in 0x1001.01 (R489). -/
def ModState.num : ModState → Nat
  | .kindling => 0
  | .damped => 1
  | .running => 2
  | .draining => 3
  | .fault => 4
  | .off => 5

/-- A change of state, with its cause (R483). -/
def Mod.setState (m : Mod) (s : ModState) (cause : Nat) : Mod :=
  { m with pow := { m.pow with state := s } }.event 0x8001 s.num cause

/-- Position of a rank among the participating ranks, ascending (R411). -/
def Mod.pos (m : Mod) (r : Nat) : Nat := (m.ranks.filter (· < r)).length

/-- Parent and children of this module in the vote tree (R411). -/
def Mod.parent? (m : Mod) : Option Nat :=
  let p := m.pos m.self
  if p = 0 then none else some (nth 0 m.ranks ((p - 1) / 8))

def Mod.children (m : Mod) : List Nat :=
  let p := m.pos m.self
  (List.range 8).filterMap fun i => m.ranks[8 * p + 1 + i]?

/-- Tree neighbours and partner: the module's watchers (R417). -/
def Mod.neighbours (m : Mod) : List Nat := m.parent?.toList ++ m.children
def Mod.watchers (m : Mod) : List Nat :=
  ((m.partner.toList.filter fun r => m.ranks.contains r) ++ m.neighbours).eraseDups.filter (· ≠ m.self)

/-- A cluster message with the sender's own fields filled in (R402). -/
def Mod.clMsg (m : Mod) (kind : Nat) : ClMsg :=
  { kind := kind, sender := m.self, attempt := m.train.attempt, part := m.clus.part, step := m.train.step }

/-- A cluster message to a rank; the last of its KIND is kept for a RESEND (R403). -/
def Mod.sendCl (m : Mod) (r : Nat) (x : ClMsg) : Mod :=
  ({ m with clus := { m.clus with sent := tSet {} m.clus.sent (16 * r + x.kind) x } }).sendTo r 0 x.bytes

/-- DEPART to every watcher, once (R418). -/
def Mod.depart (m : Mod) : Mod :=
  if m.clus.departed || m.cord.inst.isNone then m
  else
    let x := { m.clMsg 5 with subject := m.self }
    m.watchers.foldl (fun m r => m.sendCl r x) { m with clus := { m.clus with departed := true } }

/-- Entry into Fault (R539): cores freeze where they stand, FAULT_N is asserted, DEPART is sent. -/
def Mod.enterFault (m : Mod) (code : Nat) : Mod :=
  if m.pow.state = .fault then m
  else
    let m := { m with pow := { m.pow with reason := code, faultN := .low } }.setState .fault code
    m.depart

/-- The cord is to stop at the end of the tick and the module to drain (R538); the first rule that asks for it stands. -/
def Mod.stopAtEnd (m : Mod) (code : Nat) (clear : Bool) : Mod :=
  match m.train.stop with
  | some _ => m
  | none => { m with train := { m.train with stop := some { code := code, clear := clear } } }

end Sys2Proof.Machine
end

