-- ==== Sys2Proof/Machine/Digest.lean ====
section
/-! DEFINITION. Digests: the mixing function and the group digest of the report (R244), the shard digest (R414), SHA-512 as FIPS 180-4 defines it (log entry 39). -/

namespace Sys2Proof.Machine

/-! ### The mixing function (R244, R414) -/

def mix (x : BitVec 64) : BitVec 64 :=
  let x := x ^^^ (x >>> 31)
  let x := x * 0xA4C15E9B3D27F06B#64
  x ^^^ (x >>> 29)

/-- One counter word folded into a group digest. -/
def foldWord (d : BitVec 64) (c w : Nat) : BitVec 64 :=
  mix (d ^^^ BitVec.ofNat 64 (c % 2 ^ 48) ^^^ (BitVec.ofNat 64 w <<< 56))

/-- The hearths of a group, row-major (R244). -/
def groupHearths (g : Nat) : List Nat :=
  (List.range 64).map fun i => hPack (g / 64) (8 * (g % 64 / 8) + i / 8) (8 * (g % 8) + i % 8)

/-- The group of a hearth. -/
def groupOf (h : Nat) : Nat := 64 * hDie h + 8 * (hRow h / 8) + hCol h / 8

/-- The digest of a group's frozen records of schedule tick k; hearths that the cord did not place in it fold zeros. -/
def Mod.groupDigest (m : Mod) (g k : Nat) : BitVec 64 :=
  let placed := m.train.prevOn
  (groupHearths g).foldl (fun d h =>
    let r := if placed.contains h then (m.hearth h).repPrev else []
    (List.range 15).foldl (fun d w => foldWord d (tGet 0 r w) w) d) (mix (BitVec.ofNat 64 (g * 2 ^ 32 + k)))

/-- Rotation of a 64-bit word. -/
def rotl64 (x : BitVec 64) (k : Nat) : BitVec 64 := (x <<< k) ||| (x >>> (64 - k))
def rotr64 (x : BitVec 64) (k : Nat) : BitVec 64 := (x >>> k) ||| (x <<< (64 - k))

/-- Bytes as little-endian 64-bit words, a last part filled with zeros. -/
def words64 : Nat → List Byte → List (BitVec 64)
  | 0, _ => []
  | n + 1, l => BitVec.ofNat 64 (leNat (l.take 8)) :: words64 n (l.drop 8)

/-- The loop of R414 from word i. -/
def shardLoop : List (BitVec 64) → Nat → BitVec 64 → BitVec 64 → BitVec 64 × BitVec 64
  | [], _, lo, hi => (lo, hi)
  | w :: t, i, lo, hi =>
    shardLoop t (i + 1) (mix (lo ^^^ w ^^^ BitVec.ofNat 64 (2 * i))) (mix (hi ^^^ rotl64 w 29 ^^^ BitVec.ofNat 64 i))

/-- The 128-bit shard digest (R414): LO in the lower half. -/
def shardDigest (tensor first step : Nat) (b : List Byte) : BitVec 128 :=
  let lo := mix ((BitVec.ofNat 64 tensor <<< 40) ^^^ BitVec.ofNat 64 first)
  let hi := mix (lo ^^^ BitVec.ofNat 64 step)
  let r := shardLoop (words64 (ceilDiv b.length 8) b) 0 lo hi
  r.2 ++ r.1

/-! ### SHA-512 -/

def shaK0 : List (BitVec 64) :=
  [0x428a2f98d728ae22#64, 0x7137449123ef65cd#64, 0xb5c0fbcfec4d3b2f#64, 0xe9b5dba58189dbbc#64,
   0x3956c25bf348b538#64, 0x59f111f1b605d019#64, 0x923f82a4af194f9b#64, 0xab1c5ed5da6d8118#64,
   0xd807aa98a3030242#64, 0x12835b0145706fbe#64, 0x243185be4ee4b28c#64, 0x550c7dc3d5ffb4e2#64,
   0x72be5d74f27b896f#64, 0x80deb1fe3b1696b1#64, 0x9bdc06a725c71235#64, 0xc19bf174cf692694#64]
def shaK1 : List (BitVec 64) :=
  [0xe49b69c19ef14ad2#64, 0xefbe4786384f25e3#64, 0x0fc19dc68b8cd5b5#64, 0x240ca1cc77ac9c65#64,
   0x2de92c6f592b0275#64, 0x4a7484aa6ea6e483#64, 0x5cb0a9dcbd41fbd4#64, 0x76f988da831153b5#64,
   0x983e5152ee66dfab#64, 0xa831c66d2db43210#64, 0xb00327c898fb213f#64, 0xbf597fc7beef0ee4#64,
   0xc6e00bf33da88fc2#64, 0xd5a79147930aa725#64, 0x06ca6351e003826f#64, 0x142929670a0e6e70#64]
def shaK2 : List (BitVec 64) :=
  [0x27b70a8546d22ffc#64, 0x2e1b21385c26c926#64, 0x4d2c6dfc5ac42aed#64, 0x53380d139d95b3df#64,
   0x650a73548baf63de#64, 0x766a0abb3c77b2a8#64, 0x81c2c92e47edaee6#64, 0x92722c851482353b#64,
   0xa2bfe8a14cf10364#64, 0xa81a664bbc423001#64, 0xc24b8b70d0f89791#64, 0xc76c51a30654be30#64,
   0xd192e819d6ef5218#64, 0xd69906245565a910#64, 0xf40e35855771202a#64, 0x106aa07032bbd1b8#64]
def shaK3 : List (BitVec 64) :=
  [0x19a4c116b8d2d0c8#64, 0x1e376c085141ab53#64, 0x2748774cdf8eeb99#64, 0x34b0bcb5e19b48a8#64,
   0x391c0cb3c5c95a63#64, 0x4ed8aa4ae3418acb#64, 0x5b9cca4f7763e373#64, 0x682e6ff3d6b2b8a3#64,
   0x748f82ee5defb2fc#64, 0x78a5636f43172f60#64, 0x84c87814a1f0ab72#64, 0x8cc702081a6439ec#64,
   0x90befffa23631e28#64, 0xa4506cebde82bde9#64, 0xbef9a3f7b2c67915#64, 0xc67178f2e372532b#64]
def shaK4 : List (BitVec 64) :=
  [0xca273eceea26619c#64, 0xd186b8c721c0c207#64, 0xeada7dd6cde0eb1e#64, 0xf57d4f7fee6ed178#64,
   0x06f067aa72176fba#64, 0x0a637dc5a2c898a6#64, 0x113f9804bef90dae#64, 0x1b710b35131c471b#64,
   0x28db77f523047d84#64, 0x32caab7b40c72493#64, 0x3c9ebe0a15c9bebc#64, 0x431d67c49c100d4c#64,
   0x4cc5d4becb3e42b6#64, 0x597f299cfc657e2a#64, 0x5fcb6fab3ad6faec#64, 0x6c44198c4a475817#64]

/-- The round constants. -/
def shaK : List (BitVec 64) := shaK0 ++ shaK1 ++ shaK2 ++ shaK3 ++ shaK4

/-- The initial hash value. -/
def shaH : List (BitVec 64) :=
  [0x6a09e667f3bcc908#64, 0xbb67ae8584caa73b#64, 0x3c6ef372fe94f82b#64, 0xa54ff53a5f1d36f1#64,
   0x510e527fade682d1#64, 0x9b05688c2b3e6c1f#64, 0x1f83d9abfb41bd6b#64, 0x5be0cd19137e2179#64]

/-- The message schedule: the window holds the last 16 words, oldest first. -/
def shaW : Nat → List (BitVec 64) → List (BitVec 64)
  | 0, _ => []
  | n + 1, w =>
    let a := nth 0 w 1
    let b := nth 0 w 14
    let s0 := rotr64 a 1 ^^^ rotr64 a 8 ^^^ (a >>> 7)
    let s1 := rotr64 b 19 ^^^ rotr64 b 61 ^^^ (b >>> 6)
    w.headD 0 :: shaW n (w.drop 1 ++ [w.headD 0 + s0 + nth 0 w 9 + s1])

/-- One round on the eight working variables. -/
def shaRound (s : List (BitVec 64)) (kw : BitVec 64 × BitVec 64) : List (BitVec 64) :=
  match s with
  | [a, b, c, d, e, f, g, h] =>
    let t1 := h + (rotr64 e 14 ^^^ rotr64 e 18 ^^^ rotr64 e 41) + ((e &&& f) ^^^ (~~~e &&& g)) + kw.1 + kw.2
    let t2 := (rotr64 a 28 ^^^ rotr64 a 34 ^^^ rotr64 a 39) + ((a &&& b) ^^^ (a &&& c) ^^^ (b &&& c))
    [t1 + t2, a, b, c, d + t1, e, f, g]
  | s => s

/-- Big-endian 64-bit words of a block. -/
def beWords : Nat → List Byte → List (BitVec 64)
  | 0, _ => []
  | n + 1, l => BitVec.ofNat 64 (beNat (l.take 8)) :: beWords n (l.drop 8)

/-- The blocks of a padded message, 128 B each. -/
def shaBlocks : Nat → List Byte → List (BitVec 64) → List (BitVec 64)
  | 0, _, h => h
  | n + 1, l, h =>
    let s := (List.zip shaK (shaW 80 (beWords 16 (l.take 128)))).foldl shaRound h
    shaBlocks n (l.drop 128) (List.zipWith (· + ·) h s)

/-- SHA-512 of a message, 64 B. -/
def sha512 (l : List Byte) : List Byte :=
  let z := (239 - l.length % 128) % 128
  let p := l ++ [0x80] ++ List.replicate z 0 ++ beBytes 16 (8 * l.length)
  (shaBlocks (p.length / 128) p shaH).flatMap fun w => beBytes 8 w.toNat

end Sys2Proof.Machine
end

