-- ==== Sys2Proof/Machine/Ecdsa.lean ====
section
/-! DEFINITION. Verification of a signature: ECDSA on the NIST curve P-521 with SHA-512, which R204, R468 and R495 name. The curve and the algorithm are those of FIPS 186 (log entry 107). -/

namespace Sys2Proof.Machine

/-! ### The field and the curve -/

/-- The prime of the field, the order of the base point, the base point. -/
def ecP : Nat := 2 ^ 521 - 1
def ecN : Nat := (2 ^ 257 - 1) * 2 ^ 264 + 0xFA51868783BF2F966B7FCC0148F709A5D03BB5C9B8899C47AEBB6FB71E91386409
def ecGx : Nat :=
  0x00C6858E06B70404E9CD9E3ECB662395B4429C648139053FB521F828AF606B4D3DBAA14B5E77EFE75928FE1DC127A2FFA8DE3348B3C1856A429BF97E7E31C2E5BD66
def ecGy : Nat :=
  0x011839296A789A3BC0045C8A5FB42C7D1BD998F54449579B446817AFBD17273E662C97EE72995EF42640C550B9013FAD0761353C7086A272C24088BE94769FD16650

/-- Difference and product in the field. -/
def fSub (a b : Nat) : Nat := (a + ecP - b % ecP) % ecP
def fMul (a b : Nat) : Nat := a * b % ecP

/-- A power modulo n, by the exponent's 521 bits from the highest. -/
def powMod (n a e : Nat) : Nat :=
  (List.range 521).foldl (fun r i => let q := r * r % n; if e.testBit (520 - i) then q * a % n else q) 1

/-- A point in Jacobian coordinates; Z = 0 is the point at infinity. -/
abbrev EcPt := Nat × Nat × Nat

/-- Twice a point. -/
def ecDbl (p : EcPt) : EcPt :=
  let d := fMul p.2.2 p.2.2
  let g := fMul p.2.1 p.2.1
  let b := fMul p.1 g
  let a := fMul 3 (fMul (fSub p.1 d) ((p.1 + d) % ecP))
  let x := fSub (fMul a a) (8 * b)
  (x, fSub (fMul a (fSub (4 * b) x)) (8 * fMul g g), fMul 2 (fMul p.2.1 p.2.2))

/-- The sum of two points. -/
def ecAdd (p q : EcPt) : EcPt :=
  if p.2.2 % ecP = 0 then q
  else if q.2.2 % ecP = 0 then p
  else
    let zp := fMul p.2.2 p.2.2
    let zq := fMul q.2.2 q.2.2
    let u := fMul p.1 zq
    let s := fMul p.2.1 (fMul q.2.2 zq)
    let h := fSub (fMul q.1 zp) u
    let r := fSub (fMul q.2.1 (fMul p.2.2 zp)) s
    if h = 0 then (if r = 0 then ecDbl p else (1, 1, 0))
    else
      let hh := fMul h h
      let v := fMul u hh
      let x := fSub (fMul r r) (fMul h hh + 2 * v)
      (x, fSub (fMul r (fSub v x)) (fMul s (fMul h hh)), fMul h (fMul p.2.2 q.2.2))

/-- A multiple of a point. -/
def ecMul (k : Nat) (p : EcPt) : EcPt :=
  (List.range 521).foldl (fun a i => let d := ecDbl a; if k.testBit (520 - i) then ecAdd d p else d) (1, 1, 0)

/-! ### ECDSA -/

/-- The public point of 133 B: 0x04, X and Y of 66 B each (R495). -/
def ecPoint (l : List Byte) : EcPt := (byteN l 1 66, byteN l 67 66, 1)

/-- The constant term of the curve. -/
def ecB : Nat :=
  0x0051953EB9618E1C9A1F929A21A0B68540EEA2DA725B99B315F3B8B489918EF109E156193951EC7E937B1652C0BD3BB1BF073573DF883D2C34F1EF451FD46B503F00

/-- The bytes are an uncompressed point of the curve. -/
def ecOn (l : List Byte) : Bool :=
  let x := byteN l 1 66
  let y := byteN l 67 66
  l.length = 133 && byteN l 0 1 = 4 && decide (x < ecP ∧ y < ecP) && fMul y y = (fSub (fMul x (fMul x x)) (3 * x) + ecB) % ecP

/-- The bytes of ASCII text. -/
def ascii (s : String) : List Byte := s.toList.map fun c => BitVec.ofNat 8 c.toNat

/-- A signature of 132 B, r then s as big-endian integers (R5, R204), verifies for a message under a public point. -/
def ecdsaOk (pub msg sig : List Byte) : Bool :=
  let r := byteN sig 0 66
  let s := byteN sig 66 66
  let w := powMod ecN s (ecN - 2)
  let z := beNat (sha512 msg)
  let q := ecAdd (ecMul (z * w % ecN) (ecGx, ecGy, 1)) (ecMul (r * w % ecN) (ecPoint pub))
  let i := powMod ecP q.2.2 (ecP - 2)
  decide (0 < r ∧ r < ecN ∧ 0 < s ∧ s < ecN) && q.2.2 % ecP ≠ 0 && decide (fMul q.1 (fMul i i) % ecN = r)

end Sys2Proof.Machine
end

