-- ==== Sys2Proof/Machine/Operands.lean ====
section
/-! DEFINITION. Operand forms: the fields of the instruction formats of scalar and vector cores (R74, R85), the registers they name, the firing blocks of a program (R65), windows and the checks of a gather or scatter (R69 to R71), and the one frame in which a core issues an instruction (R68). -/

namespace Sys2Proof.Machine

/-! ### Programs -/

/-- Opcode of an instruction word. -/
def opOf (w : Word) : Nat := slice w.toNat 31 26

/-- Blocks of a scalar program: the word addresses of each BLK and of the END that closes it (R65). -/
def scBlocksAux : List Word → Nat → Option Nat → List (Nat × Nat)
  | [], i, some s => [(s, i)]
  | [], _, none => []
  | w :: t, i, none => if opOf w = 0x33 then scBlocksAux t (i + 1) (some i) else scBlocksAux t (i + 1) none
  | w :: t, i, some s => if opOf w = 0x34 then (s, i) :: scBlocksAux t (i + 1) none else scBlocksAux t (i + 1) (some s)

def scBlocks (p : List Word) : List (Nat × Nat) := scBlocksAux p 0 none

/-- Blocks of a vector program; a BLK is two words long (R85). `skip` passes over the second word. -/
def vcBlocksAux : List Word → Nat → Bool → Option Nat → List (Nat × Nat)
  | [], i, _, some s => [(s, i)]
  | [], _, _, none => []
  | _ :: t, i, true, s => vcBlocksAux t (i + 1) false s
  | w :: t, i, false, none =>
    if opOf w = 0x24 then vcBlocksAux t (i + 1) true (some i) else vcBlocksAux t (i + 1) false none
  | w :: t, i, false, some s =>
    if opOf w = 0x25 then (s, i) :: vcBlocksAux t (i + 1) false none
    else if opOf w = 0x24 then vcBlocksAux t (i + 1) true (some s)
    else vcBlocksAux t (i + 1) false (some s)

def vcBlocks (p : List Word) : List (Nat × Nat) := vcBlocksAux p 0 false none

/-- The block a core is in, if any. -/
def Phase.block : Phase → Option Nat
  | .inside b => some b
  | .started b => some b
  | .ending b => some b
  | .idle => none

/-- A branch target lies in the program memory and in the current block (R66). -/
def inBlock (blocks : List (Nat × Nat)) (size : Nat) (ph : Phase) (target : Int) : Bool :=
  match ph.block with
  | none => false
  | some b =>
    let r := nth (0, 0) blocks b
    decide (0 ≤ target ∧ target < size ∧ (r.1 : Int) ≤ target ∧ target ≤ (r.2 : Int))

/-! ### The issue frame -/

/-- What an instruction sees when it issues: module, hearth, core number, module-wide core number, instruction word. -/
structure Env where
  m    : Mod
  h    : Nat
  core : Nat
  c    : Nat
  w    : Nat
deriving Repr

/-- Registers of a scalar core: s0 reads zero (R73). -/
def ScSt.get (s : ScSt) (r : Nat) : Word := if r = 0 then 0 else tGet 0 s.regs r

/-- Writes to s0 are discarded (R73). -/
def ScSt.put (s : ScSt) (r : Nat) (v : Word) : ScSt := if r = 0 then s else { s with regs := tSet 0 s.regs r v }

/-- a-registers of a vector core: a0 reads zero (R84). -/
def VcSt.geta (s : VcSt) (r : Nat) : Word := if r = 0 then 0 else tGet 0 s.a r

/-- Writes to a0 are discarded (R84). -/
def VcSt.puta (s : VcSt) (r : Nat) (v : Word) : VcSt := if r = 0 then s else { s with a := tSet 0 s.a r v }

/-- Mask registers: k0 reads as all ones (R84). -/
def VcSt.getk (s : VcSt) (r : Nat) : Word := if r = 0 then BitVec.allOnes 32 else tGet 0 s.k r

/-- k0 cannot be written (R84). -/
def VcSt.putk (s : VcSt) (r : Nat) (v : Word) : VcSt := if r = 0 then s else { s with k := tSet 0 s.k r v }

/-- Vector registers. -/
def VcSt.getv (s : VcSt) (r : Nat) : BitVec 256 := tGet 0 s.v r
def VcSt.putv (s : VcSt) (r : Nat) (v : BitVec 256) : VcSt := { s with v := tSet 0 s.v r v }

namespace Env

def ct (e : Env) : Ctl := e.m.ctl e.c
def sc (e : Env) : ScSt := e.m.sc e.c
def vc (e : Env) : VcSt := e.m.vc e.c
def hh (e : Env) : Hearth := e.m.hearth e.h
/-- Field [hi:lo] of the instruction word. -/
def f (e : Env) (hi lo : Nat) : Nat := slice e.w hi lo

-- Format A, I, B, Q, M of the scalar core (R74)
def rd (e : Env) : Nat := e.f 25 22
def ra (e : Env) : Nat := e.f 21 18
def rb (e : Env) : Nat := e.f 17 14
def imm (e : Env) : Nat := e.f 17 0
def immS (e : Env) : Int := sext 18 (e.f 17 0)
def vd (e : Env) : Word := e.sc.get e.rd
def va (e : Env) : Word := e.sc.get e.ra
def vb (e : Env) : Word := e.sc.get e.rb
/-- ra + imm, modulo 2^32, as a byte address. -/
def ea (e : Env) : Nat := (e.va + wordOfInt e.immS).toNat

/-- The next instruction of the core. -/
def next (e : Env) (m : Mod) : Mod := m.setPc e.c (e.ct.pc + 1)

/-- A result in rd, then the next instruction. -/
def wr (e : Env) (v : Word) : Mod := e.next (e.m.setSc e.c (e.sc.put e.rd v))

/-- A jump to a checked target. -/
def jump (e : Env) (target : Int) : Mod := e.m.setPc e.c target.toNat

end Env

/-- The frame of a scalar instruction (R65, R68): the core issues; the word at its program counter holds the opcode; past
the last word of program memory is BLK_ORDER; a reserved opcode is ILLEGAL_OP; the first cause found raises its program
fault and has no other effect. A core that stands at another instruction, or does not issue, is left as it is. -/
def scIssue (op : Nat) (cause : Env → Option Nat) (eff : Env → Mod) (h n : Nat) (m : Mod) : Mod :=
  let core := coreSc n
  let c := cid h core
  if !m.issues h core then m
  else if 128 ≤ (m.ctl c).pc then m.raise h core 1 6
  else
    let w := nth 0 (m.sc c).prog (m.ctl c).pc
    if 0x36 ≤ opOf w then m.raise h core 1 1
    else if opOf w ≠ op then m
    else
      let e : Env := { m := m, h := h, core := core, c := c, w := w.toNat }
      match cause e with
      | some k => m.raise h core 1 k
      | none => eff e

/-- The frame of a vector instruction, as for a scalar one; program memory holds 512 words. -/
def vcIssue (op : Nat) (cause : Env → Option Nat) (eff : Env → Mod) (h n : Nat) (m : Mod) : Mod :=
  let core := coreVc n
  let c := cid h core
  if !m.issues h core then m
  else if 512 ≤ (m.ctl c).pc then m.raise h core 1 6
  else
    let w := nth 0 (m.vc c).prog (m.ctl c).pc
    if 0x27 ≤ opOf w then m.raise h core 1 1
    else if opOf w ≠ op then m
    else
      let e : Env := { m := m, h := h, core := core, c := c, w := w.toNat }
      match cause e with
      | some k => m.raise h core 1 k
      | none => eff e

/-- A cause where a condition fails. -/
def unless' (ok : Bool) (code : Nat) : Option Nat := if ok then none else some code

/-- The first cause of two. -/
def orElse' (a b : Option Nat) : Option Nat :=
  match a with
  | some k => some k
  | none => b

/-! ### Windows -/

/-- Fields of a window descriptor (R69). -/
structure Win where
  eng   : Nat
  esize : Nat
  rd    : Bool
  wr    : Bool
  at'   : Bool
  fp    : Bool
  base  : Nat
  limit : Nat
deriving DecidableEq, Repr

/-- The descriptor of window w of a hearth; its reset value has LIMIT 0. -/
def Hearth.win (x : Hearth) (w : Nat) : Win :=
  let d := (tGet (0 : BitVec 128) x.windows w).toNat
  { eng := slice d 1 0, esize := slice d 4 2, rd := bitAt d 5, wr := bitAt d 6, at' := bitAt d 7, fp := bitAt d 8,
    base := slice d 55 16, limit := slice d 95 64 }

/-- Element size in bytes. -/
def Win.size (w : Win) : Nat := 2 ^ w.esize

/-- The element sizes an engine accepts (R35). -/
def engSize (eng esize : Nat) : Bool :=
  match eng with
  | 0 => decide (esize ≤ 6)
  | 1 => decide (2 ≤ esize ∧ esize ≤ 6)
  | _ => decide (5 ≤ esize ∧ esize ≤ 6)

/-- Outstanding requests an engine holds at most (R35). -/
def engLimit : Nat → Nat
  | 0 => 32
  | 1 => 128
  | 2 => 256
  | _ => 64

/-- An engine of the hearth has an outstanding slot free (R36). -/
def Hearth.slotFree (x : Hearth) (eng : Nat) : Bool := decide ((x.reqs.filter (·.eng = eng)).length < engLimit eng)

/-- The element's byte address (R70): module HBM addresses have 40 bits, hearth store addresses 17. -/
def Win.addr (w : Win) (i : Nat) : Nat := w.base + i * w.size

/-- The causes a gather or scatter can meet at issue, lowest code first (R68): WIN, COORD, HS_ADDR for engine 0. -/
def winCause (x : Hearth) (w : Win) (perm : Bool) (i : Nat) (coord : Word) : Option Nat :=
  if i ≥ w.limit ∨ !perm ∨ !(engSize w.eng w.esize) then some 7
  else if w.eng = 1 ∧ coord.toNat ≥ 8192 then some 8
  else if w.eng = 0 ∧ !(x.inRegion (w.addr i) w.size) then some 9
  else none

/-- A request issued to an engine by the instruction its core stands at (R199), under the side bit in force (R327); the report
counts bytes requested of HBM and of the peat tier. -/
def Mod.issueReq (m : Mod) (h : Nat) (r : Req) : Mod :=
  let x := m.hearth h
  let x := if r.eng = 2 then x.count 12 r.size else if r.eng = 3 then x.count 13 r.size else x
  m.setHearth h { x with reqs := x.reqs ++ [{ r with pc := (m.ctl (cid h r.core)).pc, side := m.hbm.side }] }

/-- A request of the core itself still has to reach bytes of its own hearth store that overlap n bytes at address a: the core's
later access waits, so that its accesses to one address take effect in program order (R43). -/
def Env.owed (e : Env) (a n : Nat) : Bool :=
  e.hh.reqs.any fun r => decide (r.core = e.core ∧ r.eng ≤ 1 ∧ r.th = e.h) && overlap r.addr r.size a n

/-- The queue that a gather response goes to (R71): of the issuing core for engine 0, else of the core named. -/
def gathDest (h core eng dcore q : Nat) : Nat × Nat :=
  let k := if eng = 0 then core else dcore
  (k, qid (cid h k) q)

/-- A destination queue that the receiving core has (R68, R71). Whether the cord places that core is not checked: a response for an
unplaced core stands in its queue (log entry 129). -/
def destOk (k q : Nat) : Bool := decide (q < inQueues k)

end Sys2Proof.Machine
end

