-- ==== Sys2Proof/Machine/Scalar.lean ====
section
/-! DEFINITION. The scalar core's instructions (R75 to R83), one meaning for each. -/

namespace Sys2Proof.Machine

/-- Format A: the reserved field must be zero (R74); a register field that an instruction does not use is not checked (log entry 9). -/
def cA (e : Env) : Option Nat := unless' (e.f 13 0 = 0) 1

/-- A register operation on ra and rb. -/
def scRR (op : Nat) (g : Word → Word → Word) (h : BitVec 13) (n : Fin 123) (s : State) :
    Host.Outcome State Fault Refusal :=
  lift (scIssue op cA (fun e => e.wr (g e.va e.vb)) h.toNat n.val) s

/-- A register operation on ra and the immediate, which `ok` accepts. -/
def scRI (op : Nat) (ok : Nat → Bool) (g : Word → Nat → Word) (h : BitVec 13) (n : Fin 123) (s : State) :
    Host.Outcome State Fault Refusal :=
  lift (scIssue op (fun e => unless' (ok e.imm) 1) (fun e => e.wr (g e.va e.imm)) h.toNat n.val) s

def w1 (b : Bool) : Word := if b then 1 else 0

/-- Leading zeros of a word, 0 to 32. -/
def clz (a : Word) : Nat := 32 - bitLen a.toNat

/-- Number of set bits of a number of w bits. -/
def popc (x : Nat) : Nat → Nat
  | 0 => 0
  | w + 1 => b2n (x.testBit w) + popc x w

/-- R75: no effect. -/
def execScNop (h : BitVec 13) (n : Fin 123) (s : State) : Host.Outcome State Fault Refusal :=
  lift (scIssue 0x00 cA (fun e => e.next e.m) h.toNat n.val) s
def execScAdd (h : BitVec 13) (n : Fin 123) (s : State) : Host.Outcome State Fault Refusal := scRR 0x01 (· + ·) h n s
def execScSub (h : BitVec 13) (n : Fin 123) (s : State) : Host.Outcome State Fault Refusal := scRR 0x02 (· - ·) h n s
def execScAnd (h : BitVec 13) (n : Fin 123) (s : State) : Host.Outcome State Fault Refusal := scRR 0x03 (· &&& ·) h n s
def execScOr (h : BitVec 13) (n : Fin 123) (s : State) : Host.Outcome State Fault Refusal := scRR 0x04 (· ||| ·) h n s
def execScXor (h : BitVec 13) (n : Fin 123) (s : State) : Host.Outcome State Fault Refusal := scRR 0x05 (· ^^^ ·) h n s
def execScShl (h : BitVec 13) (n : Fin 123) (s : State) : Host.Outcome State Fault Refusal :=
  scRR 0x06 (fun a b => a <<< (b.toNat % 32)) h n s
def execScShr (h : BitVec 13) (n : Fin 123) (s : State) : Host.Outcome State Fault Refusal :=
  scRR 0x07 (fun a b => a >>> (b.toNat % 32)) h n s
def execScSra (h : BitVec 13) (n : Fin 123) (s : State) : Host.Outcome State Fault Refusal :=
  scRR 0x08 (fun a b => a.sshiftRight (b.toNat % 32)) h n s
def execScMul (h : BitVec 13) (n : Fin 123) (s : State) : Host.Outcome State Fault Refusal := scRR 0x09 (· * ·) h n s
def execScMulhu (h : BitVec 13) (n : Fin 123) (s : State) : Host.Outcome State Fault Refusal :=
  scRR 0x0A (fun a b => BitVec.ofNat 32 (a.toNat * b.toNat / 2 ^ 32)) h n s
def execScSlt (h : BitVec 13) (n : Fin 123) (s : State) : Host.Outcome State Fault Refusal :=
  scRR 0x0B (fun a b => w1 (a.slt b)) h n s
def execScSltu (h : BitVec 13) (n : Fin 123) (s : State) : Host.Outcome State Fault Refusal :=
  scRR 0x0C (fun a b => w1 (a.ult b)) h n s
def execScMin (h : BitVec 13) (n : Fin 123) (s : State) : Host.Outcome State Fault Refusal :=
  scRR 0x0D (fun a b => if a.slt b then a else b) h n s
def execScMax (h : BitVec 13) (n : Fin 123) (s : State) : Host.Outcome State Fault Refusal :=
  scRR 0x0E (fun a b => if a.slt b then b else a) h n s
def execScMinu (h : BitVec 13) (n : Fin 123) (s : State) : Host.Outcome State Fault Refusal :=
  scRR 0x0F (fun a b => if a.ult b then a else b) h n s
def execScMaxu (h : BitVec 13) (n : Fin 123) (s : State) : Host.Outcome State Fault Refusal :=
  scRR 0x10 (fun a b => if a.ult b then b else a) h n s
def execScClz (h : BitVec 13) (n : Fin 123) (s : State) : Host.Outcome State Fault Refusal :=
  scRR 0x11 (fun a _ => BitVec.ofNat 32 (clz a)) h n s
def execScPopc (h : BitVec 13) (n : Fin 123) (s : State) : Host.Outcome State Fault Refusal :=
  scRR 0x12 (fun a _ => BitVec.ofNat 32 (popc a.toNat 32)) h n s
def execScAddi (h : BitVec 13) (n : Fin 123) (s : State) : Host.Outcome State Fault Refusal :=
  scRI 0x13 (fun _ => true) (fun a i => a + wordOfInt (sext 18 i)) h n s
def execScAndi (h : BitVec 13) (n : Fin 123) (s : State) : Host.Outcome State Fault Refusal :=
  scRI 0x14 (fun _ => true) (fun a i => a &&& BitVec.ofNat 32 i) h n s
def execScOri (h : BitVec 13) (n : Fin 123) (s : State) : Host.Outcome State Fault Refusal :=
  scRI 0x15 (fun _ => true) (fun a i => a ||| BitVec.ofNat 32 i) h n s
def execScXori (h : BitVec 13) (n : Fin 123) (s : State) : Host.Outcome State Fault Refusal :=
  scRI 0x16 (fun _ => true) (fun a i => a ^^^ BitVec.ofNat 32 i) h n s
/-- imm[17:5] must be zero. -/
def execScShli (h : BitVec 13) (n : Fin 123) (s : State) : Host.Outcome State Fault Refusal :=
  scRI 0x17 (fun i => i < 32) (fun a i => a <<< (i % 32)) h n s
def execScShri (h : BitVec 13) (n : Fin 123) (s : State) : Host.Outcome State Fault Refusal :=
  scRI 0x18 (fun i => i < 32) (fun a i => a >>> (i % 32)) h n s
/-- RA must be s0. -/
def execScLui (h : BitVec 13) (n : Fin 123) (s : State) : Host.Outcome State Fault Refusal :=
  lift (scIssue 0x19 (fun e => unless' (e.ra = 0) 1) (fun e => e.wr (BitVec.ofNat 32 (e.imm * 2 ^ 14))) h.toNat n.val) s
/-- pos = imm[9:5], len = imm[4:0] + 1; imm[17:10] must be zero. -/
def execScBext (h : BitVec 13) (n : Fin 123) (s : State) : Host.Outcome State Fault Refusal :=
  scRI 0x1A (fun i => i < 1024)
    (fun a i => BitVec.ofNat 32 ((a.toNat >>> slice i 9 5) % 2 ^ (slice i 4 0 + 1))) h n s
/-- R81. -/
def execScHash (h : BitVec 13) (n : Fin 123) (s : State) : Host.Outcome State Fault Refusal :=
  scRI 0x1B (fun i => decide (1 ≤ i ∧ i ≤ 32)) (fun a i => (a * 0x2C1B3C6D#32) >>> (32 - i)) h n s

/-- One compare-exchange of SORT: the smaller unsigned value in the lower-numbered register (R82). -/
def cmpEx (st : ScSt) (i j : Nat) : ScSt :=
  let a := st.get i
  let b := st.get j
  if b.ult a then (st.put i b).put j a else st

/-- One stage of the four-element sorting network from register r (R82). -/
def sortStage (st : ScSt) (r : Nat) : Nat → ScSt
  | 0 => cmpEx (cmpEx st r (r + 1)) (r + 2) (r + 3)
  | 1 => cmpEx (cmpEx st r (r + 2)) (r + 1) (r + 3)
  | _ => cmpEx st (r + 1) (r + 2)

/-- R82: rd is s4, s8 or s12, stage 3 and imm[17:2] are refused. -/
def execScSort (h : BitVec 13) (n : Fin 123) (s : State) : Host.Outcome State Fault Refusal :=
  lift (scIssue 0x1C
    (fun e => unless' (decide ((e.rd = 4 ∨ e.rd = 8 ∨ e.rd = 12) ∧ e.imm < 3)) 1)
    (fun e => e.next (e.m.setSc e.c (sortStage e.sc e.rd e.imm))) h.toNat n.val) s

/-- A data memory access of n bytes, aligned to n, at a (R68 MEM_ADDR). -/
def dmOk (a n : Nat) : Bool := decide (a % n = 0 ∧ a + n ≤ 512)

def execScLd (h : BitVec 13) (n : Fin 123) (s : State) : Host.Outcome State Fault Refusal :=
  lift (scIssue 0x1D (fun e => unless' (dmOk e.ea 4) 3) (fun e => e.wr (mWord e.sc.dmem e.ea)) h.toNat n.val) s
def execScLdb (h : BitVec 13) (n : Fin 123) (s : State) : Host.Outcome State Fault Refusal :=
  lift (scIssue 0x1E (fun e => unless' (dmOk e.ea 1) 3)
    (fun e => e.wr ((mGet e.sc.dmem e.ea).setWidth 32)) h.toNat n.val) s
def execScSt (h : BitVec 13) (n : Fin 123) (s : State) : Host.Outcome State Fault Refusal :=
  lift (scIssue 0x1F (fun e => unless' (dmOk e.ea 4) 3)
    (fun e => e.next (e.m.setSc e.c { e.sc with dmem := mWrite e.sc.dmem e.ea (wBytes e.vd) })) h.toNat n.val) s
def execScStb (h : BitVec 13) (n : Fin 123) (s : State) : Host.Outcome State Fault Refusal :=
  lift (scIssue 0x20 (fun e => unless' (dmOk e.ea 1) 3)
    (fun e => e.next (e.m.setSc e.c { e.sc with dmem := mSet e.sc.dmem e.ea (e.vd.setWidth 8) })) h.toNat n.val) s

/-- A target is in program memory and in the current block, whether the branch is taken or not (R66). -/
def scTarget (e : Env) (t : Int) : Option Nat := unless' (inBlock (scBlocks e.sc.prog) 128 e.ct.phase t) 2

/-- A conditional branch of format B: RA in [25:22], RB in [21:18], a word offset from the branch's own address. -/
def scBr (op : Nat) (p : Word → Word → Bool) (h : BitVec 13) (n : Fin 123) (s : State) :
    Host.Outcome State Fault Refusal :=
  lift (scIssue op (fun e => scTarget e (e.ct.pc + e.immS))
    (fun e => if p (e.sc.get e.rd) (e.sc.get e.ra) then e.jump (e.ct.pc + e.immS) else e.next e.m) h.toNat n.val) s

def execScBeq (h : BitVec 13) (n : Fin 123) (s : State) : Host.Outcome State Fault Refusal :=
  scBr 0x21 (fun a b => a == b) h n s
def execScBne (h : BitVec 13) (n : Fin 123) (s : State) : Host.Outcome State Fault Refusal :=
  scBr 0x22 (fun a b => a != b) h n s
def execScBlt (h : BitVec 13) (n : Fin 123) (s : State) : Host.Outcome State Fault Refusal :=
  scBr 0x23 (fun a b => a.slt b) h n s
def execScBge (h : BitVec 13) (n : Fin 123) (s : State) : Host.Outcome State Fault Refusal :=
  scBr 0x24 (fun a b => !a.slt b) h n s
def execScBltu (h : BitVec 13) (n : Fin 123) (s : State) : Host.Outcome State Fault Refusal :=
  scBr 0x25 (fun a b => a.ult b) h n s
def execScBgeu (h : BitVec 13) (n : Fin 123) (s : State) : Host.Outcome State Fault Refusal :=
  scBr 0x26 (fun a b => !a.ult b) h n s

/-- rd = PC + 1, then PC = PC + imm; RA must be s0. -/
def execScJal (h : BitVec 13) (n : Fin 123) (s : State) : Host.Outcome State Fault Refusal :=
  lift (scIssue 0x27 (fun e => orElse' (unless' (e.ra = 0) 1) (scTarget e (e.ct.pc + e.immS)))
    (fun e => (e.m.setSc e.c (e.sc.put e.rd (BitVec.ofNat 32 (e.ct.pc + 1)))).setPc e.c (e.ct.pc + e.immS).toNat)
    h.toNat n.val) s
/-- PC = ra[6:0]; ra[31:7] must be zero. -/
def execScJr (h : BitVec 13) (n : Fin 123) (s : State) : Host.Outcome State Fault Refusal :=
  lift (scIssue 0x28 (fun e => orElse' (cA e) (scTarget e e.va.toNat)) (fun e => e.jump e.va.toNat) h.toNat n.val) s

/-- The own-HS word address of CAS and AADD (R76). -/
def hsWordOk (e : Env) : Option Nat :=
  orElse' (cA e) (unless' (decide (e.va.toNat % 4 = 0) && e.hh.inRegion e.va.toNat 4) 9)

/-- A request issued through an engine, or a stall at the instruction while no slot is free (R36). -/
def withSlot (e : Env) (r : Req) (k : Mod → Mod) : Mod :=
  if e.hh.slotFree r.eng then k (e.next (e.m.issueReq e.h r)) else e.m

/-- Compare and swap through engine 0; the core waits for the old value (R76, log entry 8). -/
def execScCas (h : BitVec 13) (n : Fin 123) (s : State) : Host.Outcome State Fault Refusal :=
  lift (scIssue 0x29 hsWordOk
    (fun e => withSlot e { eng := 0, core := e.core, idx := 0, addr := e.va.toNat, size := 4, th := e.h,
                           op := .cas e.rd e.vd e.vb }
      (fun m => m.setCtl e.c { m.ctl e.c with wait := .cas })) h.toNat n.val) s
/-- Posted atomic INT32 add through engine 0 (R76). -/
def execScAadd (h : BitVec 13) (n : Fin 123) (s : State) : Host.Outcome State Fault Refusal :=
  lift (scIssue 0x2A hsWordOk
    (fun e => withSlot e { eng := 0, core := e.core, idx := 0, addr := e.va.toNat, size := 4, th := e.h,
                           op := .atomic false (wBytes e.vb) } (fun m => m)) h.toNat n.val) s

/-- Fields of format Q (R74). -/
def Env.q (e : Env) : Nat := e.f 17 17
def Env.len (e : Env) : Nat := e.f 16 12

/-- LEN, TAG, MASK, EOT and the reserved field are zero. -/
def cQ0 (e : Env) : Bool := decide (e.f 16 0 = 0)

/-- One take counted against the block's declared count. -/
def Mod.useTake (m : Mod) (c q : Nat) : Mod :=
  let ct := m.ctl c
  m.setCtl c { ct with takes := setAt ct.takes q (nth 0 ct.takes q - 1) }

/-- R77. -/
def execScTake (h : BitVec 13) (n : Fin 123) (s : State) : Host.Outcome State Fault Refusal :=
  lift (scIssue 0x2B
    (fun e => orElse' (unless' (cQ0 e) 1)
      (orElse' (unless' (decide (e.va.toNat % 4 = 0 ∧ e.va.toNat + 64 ≤ 512)) 3)
        (unless' (decide (0 < nth 0 e.ct.takes e.q)) 4)))
    (fun e => match e.m.takeTok (qid e.c e.q) with
      | none => e.m
      | some (t, m) =>
        let st := e.sc.put e.rd t.hdr
        e.next ((m.setSc e.c { st with dmem := mWrite st.dmem e.va.toNat (wsBytes t.words) }).useTake e.c e.q))
    h.toNat n.val) s
/-- R78. -/
def execScPut (h : BitVec 13) (n : Fin 123) (s : State) : Host.Outcome State Fault Refusal :=
  lift (scIssue 0x2C
    (fun e => orElse' (unless' (decide (e.rd = 0 ∧ e.len ≤ 16 ∧ e.f 3 0 = 0)) 1)
      (orElse' (unless' (decide (e.va.toNat % 4 = 0 ∧ e.va.toNat + 4 * e.len ≤ 512)) 3)
        (unless' (decide (0 < (e.m.outq (qid e.c e.q)).room)) 5)))
    (fun e => e.next (e.m.send (qid e.c e.q) (mWords e.sc.dmem e.va.toNat e.len) (BitVec.ofNat 6 (e.f 11 6))
      (e.f 5 5 = 1) (e.f 4 4 = 1))) h.toNat n.val) s

/-- RA, LEN, TAG, MASK, EOT zero (R79). -/
def cPeek (e : Env) : Option Nat := unless' (decide (e.ra = 0) && cQ0 e) 1

/-- R79: the header of the head token the core may take; zero where there is none. -/
def execScPeek (h : BitVec 13) (n : Fin 123) (s : State) : Host.Outcome State Fault Refusal :=
  lift (scIssue 0x2D cPeek
    (fun e => e.wr (match (e.m.inq (qid e.c e.q)).seen e.hh.gen with
      | t :: _ => t.tok.hdr
      | [] => 0)) h.toNat n.val) s
/-- R79: the number of tokens, router and spill part together, that the core may take. -/
def execScQcnt (h : BitVec 13) (n : Fin 123) (s : State) : Host.Outcome State Fault Refusal :=
  lift (scIssue 0x2E cPeek
    (fun e => e.wr (BitVec.ofNat 32 ((e.m.inq (qid e.c e.q)).seen e.hh.gen).length)) h.toNat n.val) s

/-- Window of format M (R74). -/
def Env.win (e : Env) : Win := e.hh.win (e.f 13 10)

/-- R71: the response goes to the queue named. -/
def execScGath (h : BitVec 13) (n : Fin 123) (s : State) : Host.Outcome State Fault Refusal :=
  lift (scIssue 0x2F
    (fun e => orElse' (unless' (e.f 0 0 = 0) 1)
      (let d := gathDest e.h e.core e.win.eng (e.f 7 1) (e.f 9 8)
       winCause e.hh e.win (e.win.rd && destOk d.1 (e.f 9 8)) e.va.toNat e.vb))
    (fun e =>
      let d := gathDest e.h e.core e.win.eng (e.f 7 1) (e.f 9 8)
      withSlot e { eng := e.win.eng, core := e.core, idx := e.va.toNat, addr := e.win.addr e.va.toNat,
                   size := e.win.size, th := if e.win.eng = 1 then e.vb.toNat else e.h,
                   op := .gather d.2 (BitVec.ofNat 6 (e.f 13 10)) } (fun m => m)) h.toNat n.val) s

/-- The data-memory source of SCAT and SCATA at address rd (R76): MEM_ADDR comes before WIN by code. -/
def scatCause (e : Env) (perm : Bool) : Option Nat :=
  orElse' (unless' (e.f 0 0 = 0) 1)
    (orElse' (unless' (dmOk e.vd.toNat e.win.size) 3) (winCause e.hh e.win perm e.va.toNat e.vb))

/-- The request of a scatter. -/
def scatReq (e : Env) (op : ReqOp) : Req :=
  { eng := e.win.eng, core := e.core, idx := e.va.toNat, addr := e.win.addr e.va.toNat, size := e.win.size,
    th := if e.win.eng = 1 then e.vb.toNat else e.h, op := op }

def execScScat (h : BitVec 13) (n : Fin 123) (s : State) : Host.Outcome State Fault Refusal :=
  lift (scIssue 0x30 (fun e => scatCause e e.win.wr)
    (fun e => withSlot e (scatReq e (.scatter (mRead e.sc.dmem e.vd.toNat e.win.size))) (fun m => m)) h.toNat n.val) s
/-- The window has AT = 1 and AFMT = 0. -/
def execScScata (h : BitVec 13) (n : Fin 123) (s : State) : Host.Outcome State Fault Refusal :=
  lift (scIssue 0x31 (fun e => scatCause e (e.win.at' && !e.win.fp && decide (e.win.eng ≤ 1 ∧ 2 ≤ e.win.esize)))
    (fun e => withSlot e (scatReq e (.atomic false (mRead e.sc.dmem e.vd.toNat e.win.size))) (fun m => m))
    h.toNat n.val) s

/-- A request that FENCE waits for: every scatter and atomic, not a gather. -/
def ReqOp.posted : ReqOp → Bool
  | .gather _ _ => false
  | _ => true

/-- Waits until every scatter and atomic of the core has taken effect. -/
def execScFence (h : BitVec 13) (n : Fin 123) (s : State) : Host.Outcome State Fault Refusal :=
  lift (scIssue 0x32 cA
    (fun e => if e.hh.reqs.any (fun r => r.core = e.core && r.op.posted) then e.m else e.next e.m) h.toNat n.val) s

/-- The block is entered: its BLK has issued (R65). -/
def Mod.enterBlock (m : Mod) (c words : Nat) : Mod :=
  let ct := m.ctl c
  match ct.phase with
  | .started b => m.setCtl c { ct with phase := .inside b, pc := ct.pc + words }
  | _ => m

/-- A BLK met inside a block is BLK_ORDER (R66). -/
def blkOrder (e : Env) : Option Nat :=
  match e.ct.phase with
  | .started _ => none
  | _ => some 6

def execScBlk (h : BitVec 13) (n : Fin 123) (s : State) : Host.Outcome State Fault Refusal :=
  lift (scIssue 0x33 (fun e => orElse' (unless' (e.f 9 0 = 0) 1) (blkOrder e)) (fun e => e.m.enterBlock e.c 1)
    h.toNat n.val) s

/-- END outside a block: a placed, live core that is in no block and stands at an END (R68 BLK_ORDER). -/
def strayEnd (m : Mod) (h core op : Nat) (prog : List Word) : Bool :=
  m.live h core && (m.ctl (cid h core)).phase == .idle &&
    decide (opOf (nth 0 prog (m.ctl (cid h core)).pc) = op)

/-- Ends the firing block: room not used is released (R65, R66). -/
def execScEnd (h : BitVec 13) (n : Fin 123) (s : State) : Host.Outcome State Fault Refusal :=
  lift (fun m =>
    if strayEnd m h.toNat (coreSc n.val) 0x34 (m.sc (cid h.toNat (coreSc n.val))).prog then
      m.raise h.toNat (coreSc n.val) 1 6
    else scIssue 0x34 (fun e => cA e)
      (fun e => match e.ct.phase with
        | .inside b => (e.next e.m).endBlock e.h e.core b
        | _ => e.m) h.toNat n.val m) s

/-- A contribution to a sync-tree channel (R83, R264). -/
def execScSync (h : BitVec 13) (n : Fin 123) (s : State) : Host.Outcome State Fault Refusal :=
  lift (scIssue 0x35
    (fun e => orElse' (unless' (decide (e.rd = 0 ∧ (e.f 1 0 = 1 ∨ e.f 1 0 = 2) ∧ e.f 17 10 = 0)) 1)
      (unless' (decide (e.f 1 0 = 1 ∨ (e.va.toNat % 4 = 0 ∧ e.va.toNat + 4 * (e.f 9 4 + 1) ≤ 512))) 3))
    (fun e =>
      let k : SyncC :=
        if e.f 1 0 = 1 then { ch := e.f 3 2, core := e.core, flag := e.va, sum := [] }
        else { ch := e.f 3 2, core := e.core, flag := 0, sum := mWords e.sc.dmem e.va.toNat (e.f 9 4 + 1) }
      e.next (e.m.setHearth e.h { e.hh with sync := e.hh.sync ++ [k] })) h.toNat n.val) s

end Sys2Proof.Machine
end

