-- ==== Sys2Proof/Machine/Vector.lean ====
section
/-! DEFINITION. The vector core's instructions (R84 to R98, R344), one meaning for each. -/

namespace Sys2Proof.Machine

/-! ### Operand forms of the vector formats (R85) -/

namespace Env
-- format V: VD [25:22], VA [21:18], VB [17:14], VC [13:10], K [9:8], RM [7:6], FMT [5:2], SUB [1:0]
def vva (e : Env) : BitVec 256 := e.vc.getv (e.f 21 18)
def vvb (e : Env) : BitVec 256 := e.vc.getv (e.f 17 14)
def vvc (e : Env) : BitVec 256 := e.vc.getv (e.f 13 10)
def vold (e : Env) : BitVec 256 := e.vc.getv (e.f 25 22)
def kmask (e : Env) : Word := e.vc.getk (e.f 9 8)
def rm (e : Env) : Nat := e.f 7 6
def fmtc (e : Env) : Nat := e.f 5 2
def sub (e : Env) : Nat := e.f 1 0
-- format L: AA [21:19], IMM [18:0] signed
def aa (e : Env) : Word := e.vc.geta (e.f 21 19)
def immL (e : Env) : Int := sext 19 (e.f 18 0)
def eaL (e : Env) : Nat := (e.aa + wordOfInt e.immL).toNat
/-- A new state of the vector core, then the next instruction. -/
def wv (e : Env) (st : VcSt) : Mod := e.next (e.m.setVc e.c st)
end Env

/-- The default rounding mode of the cord that a hearth runs (R151): 0 RNE, 1 RZ, 2 stochastic. -/
def Mod.rndOf (m : Mod) (h : Nat) : Nat :=
  match m.cord.succ with
  | some _ => if m.cord.switched.contains h then m.cord.succRnd else m.cord.rnd
  | none => m.cord.rnd

/-- RM of every instruction but VCVT (R87): 3 takes the default, to nearest even under a stochastic one. -/
def rndPlain (dflt rm : Nat) : Rnd :=
  if rm = 1 ∨ (rm = 3 ∧ dflt = 1) then .rz else .rne

def Env.rnd (e : Env) : Rnd := rndPlain (e.m.rndOf e.h) e.rm

/-- Status bits set are sticky (R164). -/
def VcSt.flag (s : VcSt) (f : Flg) : VcSt := { s with st := s.st ||| BitVec.ofNat 4 f.bits }

/-- The lanes of a vector register, lane 0 first (R84). -/
def lanes (w : Nat) (v : BitVec 256) : List Nat := (List.range (256 / w)).map fun i => (v.toNat >>> (i * w)) % 2 ^ w

/-- Elements of w bits packed from bit 0 (R144). -/
def packN (w : Nat) : List Nat → Nat
  | [] => 0
  | a :: t => a % 2 ^ w + 2 ^ w * packN w t

def ofLanes (w : Nat) (l : List Nat) : BitVec 256 := BitVec.ofNat 256 (packN w l)

/-- New lanes where the mask enables them, old lanes elsewhere; only enabled lanes set flags (R84, R164). -/
def blend (mask : Word) : Nat → List Nat → List (Nat × Flg) → List Nat × Flg
  | i, o :: os, n :: ns =>
    let r := blend mask (i + 1) os ns
    if mask.getLsbD i then (n.1 :: r.1, n.2.or r.2) else (o :: r.1, r.2)
  | _, _, _ => ([], {})

/-- Every V-format instruction: RM is not 2 (R87), FMT is no reserved code (R86), and the extra condition holds. -/
def cV (ok : Env → Bool) (e : Env) : Option Nat := unless' (decide (e.rm ≠ 2 ∧ e.fmtc < 12) && ok e) 1

/-- The format of the lanes; the causes have refused codes that name none. -/
def Env.fmt (e : Env) : Fmt := (Fmt.ofCode e.fmtc).getD .fp32

/-- Lane formats of R89. -/
def isLaneFp (c : Nat) : Bool := c == 0 || c == 1 || c == 2
def isLane (c : Nat) : Bool := isLaneFp c || c == 8 || c == 9

/-- One lane of an arithmetic result: floating-point rounds once into the lane format; INT32 wraps; INT8 saturates (R89). -/
def laneOut (f : Fmt) (rd : Rnd) (p : Num × Bool) : Nat × Flg :=
  match f with
  | .int32 => match p.1 with
    | .fin s m e => ((wordOfInt (sgn s (shl m e))).toNat, {})
    | _ => (0, {})
  | _ => let r := f.enc rd p.1; (r.1, { r.2 with nv := r.2.nv || p.2 })

/-- A lane-wise result written to vd under the mask. -/
def Env.putLanes (e : Env) (f : Fmt) (l : List (Nat × Flg)) : Mod :=
  let r := blend e.kmask 0 (lanes f.width e.vold) l
  e.wv ((e.vc.putv (e.f 25 22) (ofLanes f.width r.1)).flag r.2)

/-- A lane-wise operation on va and vb. -/
def vBin (op : Nat) (ok : Nat → Bool) (g : Num → Num → Num × Bool) (h : BitVec 13) (n : Fin 4) (s : State) :
    Host.Outcome State Fault Refusal :=
  lift (vcIssue op (cV fun e => ok e.fmtc)
    (fun e => e.putLanes e.fmt (List.zipWith (fun a b => laneOut e.fmt e.rnd (g (e.fmt.dec a) (e.fmt.dec b)))
      (lanes e.fmt.width e.vva) (lanes e.fmt.width e.vvb))) h.toNat n.val) s

def execVcNop (h : BitVec 13) (n : Fin 4) (s : State) : Host.Outcome State Fault Refusal :=
  lift (vcIssue 0x00 (cV fun _ => true) (fun e => e.next e.m) h.toNat n.val) s
def execVadd (h : BitVec 13) (n : Fin 4) (s : State) : Host.Outcome State Fault Refusal :=
  vBin 0x01 isLane Num.add h n s
def execVsub (h : BitVec 13) (n : Fin 4) (s : State) : Host.Outcome State Fault Refusal :=
  vBin 0x02 isLane (fun a b => a.add b.neg) h n s
def execVmul (h : BitVec 13) (n : Fin 4) (s : State) : Host.Outcome State Fault Refusal :=
  vBin 0x03 (fun c => isLaneFp c || c == 9) Num.mul h n s

/-- Exact a * b + c; NV where a step made a NaN and none of the three operands was one (R164). -/
def fma3 (a b c : Num) : Num × Bool :=
  let p := a.mul b
  let r := p.1.add c
  (r.1, (p.2 && c != .nan) || r.2)

def execVfma (h : BitVec 13) (n : Fin 4) (s : State) : Host.Outcome State Fault Refusal :=
  lift (vcIssue 0x04 (cV fun e => isLaneFp e.fmtc)
    (fun e => e.putLanes e.fmt (List.zipWith (fun p c => laneOut e.fmt e.rnd
        (fma3 (e.fmt.dec p.1) (e.fmt.dec p.2) (e.fmt.dec c)))
      (List.zip (lanes e.fmt.width e.vva) (lanes e.fmt.width e.vvb)) (lanes e.fmt.width e.vvc))) h.toNat n.val) s
def execVmin (h : BitVec 13) (n : Fin 4) (s : State) : Host.Outcome State Fault Refusal :=
  vBin 0x05 isLane (fun a b => (a.lmin b, false)) h n s
def execVmax (h : BitVec 13) (n : Fin 4) (s : State) : Host.Outcome State Fault Refusal :=
  vBin 0x06 isLane (fun a b => (a.lmax b, false)) h n s

/-- Bits of a mask register replaced, where the lane exists and is enabled. -/
def maskBits (mask : Word) (old : Word) : Nat → List Bool → Word
  | _, [] => old
  | i, b :: t =>
    let r := maskBits mask old (i + 1) t
    if mask.getLsbD i then (if b then r ||| BitVec.ofNat 32 (2 ^ i) else r &&& ~~~(BitVec.ofNat 32 (2 ^ i))) else r

/-- Writes mask kD, D = VD[1:0] from 1 to 3; lanes masked off and bits above the lane count keep their values. -/
def execVcmp (h : BitVec 13) (n : Fin 4) (s : State) : Host.Outcome State Fault Refusal :=
  lift (vcIssue 0x07 (cV fun e => isLane e.fmtc && decide (1 ≤ e.f 25 22 ∧ e.f 25 22 ≤ 3))
    (fun e =>
      let l := List.zipWith (fun a b => Num.lcmp e.sub (e.fmt.dec a) (e.fmt.dec b))
        (lanes e.fmt.width e.vva) (lanes e.fmt.width e.vvb)
      e.wv (e.vc.putk (e.f 25 22) (maskBits e.kmask (e.vc.getk (e.f 25 22)) 0 l))) h.toNat n.val) s

/-- Lane of va where the mask is 1, of vb where it is 0. -/
def execVsel (h : BitVec 13) (n : Fin 4) (s : State) : Host.Outcome State Fault Refusal :=
  lift (vcIssue 0x08 (cV fun e => isLane e.fmtc)
    (fun e =>
      let r := blend e.kmask 0 (lanes e.fmt.width e.vvb) ((lanes e.fmt.width e.vva).map fun x => (x, {}))
      e.wv (e.vc.putv (e.f 25 22) (ofLanes e.fmt.width r.1))) h.toNat n.val) s

/-! ### Conversions (R90, R91, R156, R157) -/

/-- Pairs of formats that VCVT provides (R156). -/
def cvtOk (src dst : Fmt) : Bool :=
  let narrow := fun (f : Fmt) => f.isFp8 || f == .e3m2 || f == .e2m3 || f == .e2m1
  let wide := fun (f : Fmt) => f == .fp32 || f == .bf16 || f == .fp16
  let int := fun (f : Fmt) => f == .int8 || f == .int32
  if wide src then true
  else if narrow src then wide dst || narrow dst
  else if int src then wide dst || int dst
  else wide dst || dst == src

/-- Registers that a group of 32 elements spans (R90). -/
def grpRegs (f : Fmt) : Nat := if f.width ≤ 8 then 1 else f.width / 8

/-- The 32 elements of a group from register r. -/
def VcSt.group (s : VcSt) (f : Fmt) (r : Nat) : List Nat :=
  let bits := packN 256 ((List.range (grpRegs f)).map fun i => (s.getv (r + i)).toNat)
  (List.range 32).map fun i => (bits >>> (i * f.width)) % 2 ^ f.width

/-- A group of 32 elements written from register r; the rest of a register is zero. -/
def VcSt.putGroup (s : VcSt) (f : Fmt) (r : Nat) (l : List Nat) : VcSt :=
  let bits := packN f.width l
  (List.range (grpRegs f)).foldl (fun s i => s.putv (r + i) (BitVec.ofNat 256 (bits >>> (256 * i)))) s

/-- Keys of the parameter latch (R337): shard key, step key. -/
def VcSt.shardKey (s : VcSt) : Word := s.latch.extractLsb' 32 32
def VcSt.stepKey (s : VcSt) : Word := s.latch.extractLsb' 64 32

/-- Rounding of element j of VCVT (R87, R151, R153). -/
def Env.cvtRnd (e : Env) (j : Nat) : Rnd :=
  let d := e.m.rndOf e.h
  if e.rm = 2 ∨ (e.rm = 3 ∧ d = 2) then
    .sto (srBits e.vc.shardKey e.vc.stepKey (e.vc.geta 6 + BitVec.ofNat 32 j) 0)
  else rndPlain d e.rm

/-- The formats of format X: FSRC [17:14], FDST [13:10]. -/
def Env.fsrc (e : Env) : Fmt := (Fmt.ofCode (e.f 17 14)).getD .fp32
def Env.fdst (e : Env) : Fmt := (Fmt.ofCode (e.f 13 10)).getD .fp32

/-- The scale register AS is in use for a format: FP8 with AS other than a0, or a format that always has a scale (R91). -/
def cvtScaled (f : Fmt) (as : Nat) : Bool := f.alwaysScaled || (f.isFp8 && decide (as ≠ 0))

def cvtCause (e : Env) : Option Nat :=
  unless' (decide (e.f 17 14 < 12 ∧ e.f 13 10 < 12 ∧ e.f 2 0 = 0) && cvtOk e.fsrc e.fdst &&
    decide (e.f 21 18 % grpRegs e.fsrc = 0 ∧ e.f 25 22 % grpRegs e.fdst = 0) &&
    !(decide (e.f 5 3 = 0) && (e.fsrc.alwaysScaled || e.fdst.alwaysScaled))) 1

def execVcvt (h : BitVec 13) (n : Fin 4) (s : State) : Host.Outcome State Fault Refusal :=
  lift (vcIssue 0x09 cvtCause
    (fun e =>
      let st := e.vc
      let as := e.f 5 3
      let src := st.group e.fsrc (e.f 21 18)
      let old := st.group e.fdst (e.f 25 22)
      if e.fsrc.isFp8 && e.fsrc == e.fdst && decide (as = 0) then
        -- an unscaled FP8 group is copied unchanged (R156)
        e.wv (st.putGroup e.fdst (e.f 25 22) (blend e.kmask 0 old (src.map fun x => (x, {}))).1)
      else
        let sc := if cvtScaled e.fsrc as then some ((st.geta as).toNat % 256) else none
        let vals := src.map fun x => e.fsrc.decScaled sc x
        let rnds := (List.range 32).map e.cvtRnd
        if cvtScaled e.fdst as then
          let g := encGroup e.fdst (List.zip vals rnds)
          let r := blend e.kmask 0 old g.2
          let st := st.putGroup e.fdst (e.f 25 22) r.1
          e.wv ((st.puta as (BitVec.ofNat 32 g.1)).flag (r.2.or { nv := grpBad vals }))
        else
          let r := blend e.kmask 0 old (List.zipWith (fun v rd => e.fdst.enc rd v) vals rnds)
          e.wv ((st.putGroup e.fdst (e.f 25 22) r.1).flag r.2)) h.toNat n.val) s

/-! ### Reduction -/

/-- A number rounded to FP32, with flags. -/
def out32 (rd : Rnd) (p : Num × Bool) : Num × Flg :=
  let r := Fmt.enc .fp32 rd p.1
  (Fmt.dec .fp32 r.1, { r.2 with nv := r.2.nv || p.2 })

/-- Identity of a reduction (R88, R94): 0 sum, 1 max, 2 min, 3 product. -/
def redId (op : Nat) : Num :=
  match op with
  | 0 => .zero
  | 1 => .inf true
  | 2 => .inf false
  | _ => .fin false 1 0

/-- One combination of a floating-point reduction; maximum and minimum by the rule of VMAX and VMIN (log entry 96). -/
def redFp (op : Nat) (rd : Rnd) (a b : Num) : Num × Flg :=
  match op with
  | 0 => out32 rd (a.add b)
  | 1 => out32 rd (a.lmax b, false)
  | 2 => out32 rd (a.lmin b, false)
  | _ => out32 rd (a.mul b)

/-- One level of the pairwise tree: adjacent results, the lower-numbered on the left. -/
def redLevel {α : Type} (f : α → α → α) : List α → List α
  | a :: b :: t => f a b :: redLevel f t
  | l => l

/-- The pairwise tree over lane positions; `fuel` levels. -/
def redTree {α : Type} (f : α → α → α) (d : α) : Nat → List α → α
  | 0, l => l.headD d
  | k + 1, l => redTree f d k (redLevel f l)

/-- INT32 combination: sum modulo 2^32, max, min. -/
def redInt (op : Nat) (a b : Word) : Word :=
  match op with
  | 0 => a + b
  | 1 => if a.slt b then b else a
  | _ => if a.slt b then a else b

def redIntId (op : Nat) : Word :=
  match op with
  | 0 => 0
  | 1 => 0x80000000#32
  | _ => 0x7FFFFFFF#32

/-- Value of lane i for a reduction: the identity where the mask is 0. -/
def maskList {α : Type} (mask : Word) (d : α) : Nat → List α → List α
  | _, [] => []
  | i, a :: t => (if mask.getLsbD i then a else d) :: maskList mask d (i + 1) t

/-- R88: the enabled lanes of va into lane 0 of vd, the other lanes zero. -/
def execVred (h : BitVec 13) (n : Fin 4) (s : State) : Host.Outcome State Fault Refusal :=
  lift (vcIssue 0x0A (cV fun e => isLaneFp e.fmtc || (e.fmtc == 9 && decide (e.sub ≠ 3)))
    (fun e =>
      if e.fmtc = 9 then
        let l := maskList e.kmask (redIntId e.sub) 0 ((lanes 32 e.vva).map (BitVec.ofNat 32))
        e.wv (e.vc.putv (e.f 25 22) ((redTree (redInt e.sub) 0 3 l).setWidth 256))
      else
        let l := maskList e.kmask (redId e.sub) 0 ((lanes e.fmt.width e.vva).map e.fmt.dec)
        let f := fun (a b : Num × Flg) => let r := redFp e.sub e.rnd a.1 b.1; (r.1, (a.2.or b.2).or r.2)
        let r := redTree f (.zero, {}) (if e.fmtc = 0 then 3 else 4) (l.map fun x => (x, {}))
        e.wv ((e.vc.putv (e.f 25 22) ((rn32 r.1).setWidth 256)).flag r.2)) h.toNat n.val) s

/-! ### Segmented reduction (R94 to R97) -/

/-- Fields of format S. -/
def Env.sQd (e : Env) : Nat := e.f 18 17
def Env.sQo (e : Env) : Nat := e.f 16 15
def Env.sFmt (e : Env) : Nat := e.f 14 11
def Env.sSub (e : Env) : Nat := e.f 10 9
def Env.sRm (e : Env) : Nat := e.f 8 7
/-- Accumulator registers: two for FP32, four for 16-bit elements (R95). -/
def Env.sRegs (e : Env) : Nat := if e.sFmt = 0 then 2 else 4

/-- FP32 elements of the accumulator. -/
def Env.segAcc (e : Env) (st : VcSt) : List Word :=
  ((List.range e.sRegs).flatMap fun i => lanes 32 (st.getv (e.f 25 22 + i))).map (BitVec.ofNat 32)

/-- FP32 elements written to the accumulator. -/
def Env.putAcc (e : Env) (st : VcSt) (l : List Word) : VcSt :=
  let bits := packN 32 (l.map BitVec.toNat)
  (List.range e.sRegs).foldl (fun s i => s.putv (e.f 25 22 + i) (BitVec.ofNat 256 (bits >>> (256 * i)))) st

/-- The elements a data token carries, none beyond its payload. -/
def Env.segElems (e : Env) (t : Token) : List Num :=
  if e.sFmt = 0 then t.words.map f32
  else t.words.flatMap fun w =>
    let f : Fmt := if e.sFmt = 1 then .bf16 else .fp16
    [f.dec (w.toNat % 65536), f.dec (w.toNat / 65536)]

/-- One row combined into the accumulator; missing elements contribute the identity (R96). -/
def segRow (op : Nat) (rd : Rnd) : List Word → List Num → List Word × Flg
  | a :: as, x :: xs =>
    let r := redFp op rd (f32 a) x
    let t := segRow op rd as xs
    (rn32 r.1 :: t.1, r.2.or t.2)
  | as, _ => (as, {})

/-- Rows left to take and result tokens sent. -/
structure SegSt where
  m    : Mod
  rows : Nat
  sent : Nat

/-- Takes data tokens while rows are left and tokens are there. -/
def segTake (e : Env) : Nat → Mod → Nat → Mod × Nat
  | 0, m, rows => (m, rows)
  | fuel + 1, m, rows =>
    if rows = 0 then (m, 0)
    else match m.takeTok (qid e.c e.sQd) with
      | none => (m, rows)
      | some (t, m) =>
        if t.mask then segTake e fuel m (rows - 1)
        else
          let st := m.vc e.c
          let r := segRow e.sSub (rndPlain (m.rndOf e.h) e.sRm) (e.segAcc st) (e.segElems t)
          segTake e fuel (m.setVc e.c ((e.putAcc st r.1).flag r.2)) (rows - 1)

/-- Sends result tokens while there is room: one for FP32, two for 16-bit elements. -/
def segSend (e : Env) : Nat → Mod → Nat → Mod × Nat
  | 0, m, sent => (m, sent)
  | fuel + 1, m, sent =>
    let q := qid e.c e.sQo
    if sent * 2 = e.sRegs then (m, sent)
    else if m.roomFor q 1 then
      let w := ((e.segAcc (m.vc e.c)).drop (16 * sent)).take 16
      segSend e fuel ((m.reserve q 1).send q w (BitVec.ofNat 6 (e.f 6 1)) false false) (sent + 1)
    else (m, sent)

/-- VSEGR goes on from its rows left and results sent: it ends, or waits for data or room (R97). In static firing it may not begin
to wait: where it finds no token or no room it raises SCHED_WAIT (R185, log entry 92). -/
def segGo (e : Env) (m : Mod) (rows sent : Nat) : Mod :=
  let a := segTake e ((m.inq (qid e.c e.sQd)).router.length + 1) m rows
  let b := if a.2 = 0 then segSend e 3 a.1 sent else (a.1, sent)
  if a.2 = 0 ∧ b.2 * 2 = e.sRegs then
    let ct := b.1.ctl e.c
    b.1.setCtl e.c { ct with wait := .none, pc := ct.pc + 1 }
  else if cStatic (e.m.imgOf e.h) && decide (a.2 = rows ∧ b.2 = sent) then e.m.raise e.h e.core 3 4
  else b.1.setCtl e.c { b.1.ctl e.c with wait := .segr a.2 b.2 }

def segCause (e : Env) : Option Nat :=
  orElse' (unless' (decide (e.f 25 22 % 4 = 0 ∧ e.f 0 0 = 0 ∧ e.sRm ≠ 2) && isLaneFp e.sFmt) 1)
    (orElse' (unless' (decide (nth 0 e.ct.inCnt e.sQd = 0)) 4) (unless' (decide (nth 0 e.ct.outCnt e.sQo = 0)) 5))

def execVsegr (h : BitVec 13) (n : Fin 4) (s : State) : Host.Outcome State Fault Refusal :=
  lift (vcIssue 0x0B segCause
    (fun e =>
      let m := e.m.setVc e.c (e.putAcc e.vc (List.replicate (8 * e.sRegs) (rn32 (redId e.sSub))))
      segGo e m (e.vc.geta (e.f 21 19)).toNat 0) h.toNat n.val) s

/-! ### Approximations (R98) -/

/-- |a - b| of two exact numbers is at most n * 2^u. -/
def within (a b : Num) (n : Nat) (u : Int) : Bool :=
  match (a.add b.neg).1 with
  | .fin _ m e => !(magGt m e n u)
  | _ => false

/-- A result near the exact value: the free candidate where it keeps the bound of n units in the last place of the
correctly rounded result (or of 2^u absolute), else that result; below 2^-126 it is flushed to a zero of its sign. -/
def approxOut (op x : Nat) (exact : Num) (n : Nat) (abs : Option Int) : Nat × Flg :=
  let r := (Fmt.enc .fp32 .rne exact).1
  let c := Config.approx op x % 2 ^ 32
  let u := match abs with
    | some k => k
    | none => (Fmt.mag .fp32 (r % 2 ^ 31)).2
  let v := if (Fmt.dec .fp32 c).isFin && within (Fmt.dec .fp32 c) exact n u then c else r
  if v % 2 ^ 31 < 2 ^ 23 then (v / 2 ^ 31 * 2 ^ 31, { uf := decide (v % 2 ^ 31 ≠ 0 ∨ exact ≠ .zero) }) else (v, {})

/-- A finite number times d is greater than k: a comparison with the decimal k / d. -/
def gtDec (man : Nat) (ex : Int) (k d : Nat) : Bool := magGt (man * d) ex k 0

/-- A subnormal input counts as a zero of its sign (R98). -/
def daz (x : Nat) : Nat := if x % 2 ^ 31 < 2 ^ 23 then x / 2 ^ 31 * 2 ^ 31 else x

def nan32 : Nat := 0x7FC00000
def inf32 (neg : Bool) : Nat := if neg then 0xFF800000 else 0x7F800000
def zero32 (neg : Bool) : Nat := if neg then 2 ^ 31 else 0

/-- e^x. -/
def apExp (x : Nat) : Nat × Flg :=
  match Fmt.dec .fp32 (daz x) with
  | .nan => (nan32, {})
  | .inf neg => (if neg then 0 else inf32 false, {})
  | .fin neg m e =>
    if m = 0 then (0x3F800000, {})
    else if !neg && gtDec m e 887228 10000 then (inf32 false, { ovf := true })
    else if neg && gtDec m e 873365 10000 then (0, { uf := true })
    else let p := expMag neg m e; approxOut 0x0C x (.fin false p.1 p.2) 2 none

/-- ln x: 2 units in the last place outside [0.5, 2], 2^-22 absolute inside. -/
def apLog (x : Nat) : Nat × Flg :=
  match Fmt.dec .fp32 (daz x) with
  | .nan => (nan32, {})
  | .inf neg => if neg then (nan32, { nv := true }) else (inf32 false, {})
  | .fin neg m e =>
    if m = 0 then (inf32 true, {})
    else if neg then (nan32, { nv := true })
    else if x = 0x3F800000 then (0, {})
    else
      let p := lnMag m e
      let inside := magGe m e 1 (-1) && !(magGt m e 2 0)
      approxOut 0x0D x (.fin p.1 p.2.1 p.2.2) (if inside then 1 else 2) (if inside then some (-22) else none)

/-- 1 / x. -/
def apRcp (x : Nat) : Nat × Flg :=
  match Fmt.dec .fp32 (daz x) with
  | .nan => (nan32, {})
  | .inf neg => (zero32 neg, {})
  | .fin neg m e =>
    if m = 0 then (inf32 neg, {})
    else if magGt m e 1 126 then (zero32 neg, { uf := true })
    else let p := divMag 1 0 m e; approxOut 0x0E x (.fin neg p.1 p.2) 1 none

/-- 1 / sqrt x. -/
def apRsq (x : Nat) : Nat × Flg :=
  match Fmt.dec .fp32 (daz x) with
  | .nan => (nan32, {})
  | .inf neg => if neg then (nan32, { nv := true }) else (0, {})
  | .fin neg m e =>
    if m = 0 then (inf32 neg, {})
    else if neg then (nan32, { nv := true })
    else
      let q := sqrtMag m e
      let p := divMag 1 0 q.1 q.2
      approxOut 0x0F x (.fin false p.1 p.2) 1 none

/-- tanh x. -/
def apTanh (x : Nat) : Nat × Flg :=
  match Fmt.dec .fp32 (daz x) with
  | .nan => (nan32, {})
  | .inf neg => (if neg then 0xBF800000 else 0x3F800000, {})
  | .fin neg m e =>
    if !(magGe m e 1 (-12)) then (daz x, {})
    else if magGe m e 9 0 then (if neg then 0xBF800000 else 0x3F800000, {})
    else let p := tanhMag m e; approxOut 0x10 x (.fin neg p.1 p.2) 2 none

/-- A lane-wise function of va, FP32 only (R98). -/
def vFun (op : Nat) (g : Nat → Nat × Flg) (h : BitVec 13) (n : Fin 4) (s : State) :
    Host.Outcome State Fault Refusal :=
  lift (vcIssue op (cV fun e => e.fmtc == 0)
    (fun e => e.putLanes .fp32 ((lanes 32 e.vva).map g)) h.toNat n.val) s

def execVexp (h : BitVec 13) (n : Fin 4) (s : State) : Host.Outcome State Fault Refusal := vFun 0x0C apExp h n s
def execVlog (h : BitVec 13) (n : Fin 4) (s : State) : Host.Outcome State Fault Refusal := vFun 0x0D apLog h n s
def execVrcp (h : BitVec 13) (n : Fin 4) (s : State) : Host.Outcome State Fault Refusal := vFun 0x0E apRcp h n s
def execVrsq (h : BitVec 13) (n : Fin 4) (s : State) : Host.Outcome State Fault Refusal := vFun 0x0F apRsq h n s
def execVtanh (h : BitVec 13) (n : Fin 4) (s : State) : Host.Outcome State Fault Refusal := vFun 0x10 apTanh h n s

/-! ### Loads, stores and a-registers -/

/-- An access of n bytes, aligned to n, inside local memory (R68 MEM_ADDR). -/
def vmOk (a n : Nat) : Bool := decide (a % n = 0 ∧ a + n ≤ 8192)

/-- An access of n bytes, aligned to n, inside a declared region of the hearth store (R68 HS_ADDR). -/
def hsOk (e : Env) (a n : Nat) : Bool := decide (a % n = 0) && e.hh.inRegion a n

def vBytes (v : BitVec 256) : List Byte := leBytes 32 v.toNat

def execVld (h : BitVec 13) (n : Fin 4) (s : State) : Host.Outcome State Fault Refusal :=
  lift (vcIssue 0x11 (fun e => unless' (vmOk e.eaL 32) 3)
    (fun e => e.wv (e.vc.putv (e.f 25 22) (BitVec.ofNat 256 (leNat (mRead e.vc.mem e.eaL 32))))) h.toNat n.val) s
def execVst (h : BitVec 13) (n : Fin 4) (s : State) : Host.Outcome State Fault Refusal :=
  lift (vcIssue 0x12 (fun e => unless' (vmOk e.eaL 32) 3)
    (fun e => e.wv { e.vc with mem := mWrite e.vc.mem e.eaL (vBytes e.vold) }) h.toNat n.val) s
/-- HLD and HST wait for the core's own requests to the same bytes (R43). -/
def execHld (h : BitVec 13) (n : Fin 4) (s : State) : Host.Outcome State Fault Refusal :=
  lift (vcIssue 0x13 (fun e => unless' (hsOk e e.eaL 32) 9)
    (fun e =>
      if e.owed e.eaL 32 then e.m
      else
        let r := e.hh.read (3 + e.core) e.eaL 32
        e.next ((e.m.setHearth e.h r.2).setVc e.c (e.vc.putv (e.f 25 22) (BitVec.ofNat 256 (leNat r.1))))) h.toNat n.val) s
def execHst (h : BitVec 13) (n : Fin 4) (s : State) : Host.Outcome State Fault Refusal :=
  lift (vcIssue 0x14 (fun e => unless' (hsOk e e.eaL 32) 9)
    (fun e => if e.owed e.eaL 32 then e.m
      else e.next (e.m.setHearth e.h (e.hh.write (3 + e.core) e.eaL (vBytes e.vold)))) h.toNat n.val) s
/-- The destination a-register of format L is [24:22], with [25] zero. -/
def execAld (h : BitVec 13) (n : Fin 4) (s : State) : Host.Outcome State Fault Refusal :=
  lift (vcIssue 0x15 (fun e => orElse' (unless' (decide (e.f 25 25 = 0)) 1) (unless' (vmOk e.eaL 4) 3))
    (fun e => e.wv (e.vc.puta (e.f 24 22) (mWord e.vc.mem e.eaL))) h.toNat n.val) s
def execAaddi (h : BitVec 13) (n : Fin 4) (s : State) : Host.Outcome State Fault Refusal :=
  lift (vcIssue 0x16 (fun e => unless' (decide (e.f 25 25 = 0)) 1)
    (fun e => e.wv (e.vc.puta (e.f 24 22) (e.aa + wordOfInt e.immL))) h.toNat n.val) s
/-- VD[3], VB[3], VC, K, RM, FMT and SUB must be zero. -/
def execAmov (h : BitVec 13) (n : Fin 4) (s : State) : Host.Outcome State Fault Refusal :=
  lift (vcIssue 0x17 (fun e => unless' (decide (e.f 25 25 = 0 ∧ e.f 17 17 = 0 ∧ e.f 13 0 = 0)) 1)
    (fun e => e.wv (e.vc.puta (e.f 24 22) (BitVec.ofNat 32 (nth 0 (lanes 32 e.vva) (e.f 16 14))))) h.toNat n.val) s
def execVbcst (h : BitVec 13) (n : Fin 4) (s : State) : Host.Outcome State Fault Refusal :=
  lift (vcIssue 0x18 (fun _ => none)
    (fun e => e.wv (e.vc.putv (e.f 25 22) (ofLanes 32 (List.replicate 8 e.aa.toNat)))) h.toNat n.val) s

/-! ### Tokens (R92, R93) -/

/-- R92: VD even; TAG, MASK, EOT, LEN and the reserved field zero. -/
def execVtake (h : BitVec 13) (n : Fin 4) (s : State) : Host.Outcome State Fault Refusal :=
  lift (vcIssue 0x19
    (fun e => orElse' (unless' (decide (e.f 22 22 = 0 ∧ e.f 19 0 = 0)) 1)
      (unless' (decide (0 < nth 0 e.ct.takes (e.f 21 20))) 4))
    (fun e => match e.m.takeTok (qid e.c (e.f 21 20)) with
      | none => e.m
      | some (t, m) =>
        let b := leNat (wsBytes t.words)
        let st := ((e.vc.putv (e.f 25 22) (BitVec.ofNat 256 b)).putv (e.f 25 22 + 1) (BitVec.ofNat 256 (b >>> 256)))
        let st := (st.puta 7 t.hdr).putk 3 (if t.mask then 0 else BitVec.allOnes 32)
        e.next ((m.setVc e.c st).useTake e.c (e.f 21 20))) h.toNat n.val) s
/-- R93: LEN words from vd and vd + 1. -/
def execVput (h : BitVec 13) (n : Fin 4) (s : State) : Host.Outcome State Fault Refusal :=
  lift (vcIssue 0x1A
    (fun e => orElse' (unless' (decide (e.f 22 22 = 0 ∧ e.f 11 7 ≤ 16 ∧ e.f 6 0 = 0)) 1)
      (unless' (decide (0 < (e.m.outq (qid e.c (e.f 21 20))).room)) 5))
    (fun e =>
      let b := vBytes e.vold ++ vBytes (e.vc.getv (e.f 25 22 + 1))
      e.next (e.m.send (qid e.c (e.f 21 20)) (bytesWords (e.f 11 7) b) (BitVec.ofNat 6 (e.f 19 14))
        (e.f 13 13 = 1) (e.f 12 12 = 1))) h.toNat n.val) s

/-! ### Gathers and scatters -/

/-- Window, index and coordinate of format M: W [15:12], AA [21:19], AB [18:16]. -/
def Env.vwin (e : Env) : Win := e.hh.win (e.f 15 12)
def Env.vab (e : Env) : Word := e.vc.geta (e.f 18 16)

/-- VGATH (R85, R89): its field VD names no register and is not checked (log entry 9). -/
def execVgath (h : BitVec 13) (n : Fin 4) (s : State) : Host.Outcome State Fault Refusal :=
  lift (vcIssue 0x1B
    (fun e => orElse' (unless' (decide (e.f 2 0 = 0)) 1)
      (let d := gathDest e.h e.core e.vwin.eng (e.f 9 3) (e.f 11 10)
       winCause e.hh e.vwin (e.vwin.rd && destOk d.1 (e.f 11 10)) e.aa.toNat e.vab))
    (fun e =>
      let d := gathDest e.h e.core e.vwin.eng (e.f 9 3) (e.f 11 10)
      withSlot e { eng := e.vwin.eng, core := e.core, idx := e.aa.toNat, addr := e.vwin.addr e.aa.toNat,
                   size := e.vwin.size, th := if e.vwin.eng = 1 then e.vab.toNat else e.h,
                   op := .gather d.2 (BitVec.ofNat 6 (e.f 15 12)) } (fun m => m)) h.toNat n.val) s

def vscatCause (e : Env) (perm : Bool) : Option Nat :=
  orElse' (unless' (decide (e.f 22 22 = 0 ∧ e.f 2 0 = 0)) 1) (winCause e.hh e.vwin perm e.aa.toNat e.vab)

/-- The element: bytes of the pair vd, vd + 1 from byte 0 upward. -/
def Env.vElem (e : Env) : List Byte := (vBytes e.vold ++ vBytes (e.vc.getv (e.f 25 22 + 1))).take e.vwin.size

def vscatReq (e : Env) (op : ReqOp) : Req :=
  { eng := e.vwin.eng, core := e.core, idx := e.aa.toNat, addr := e.vwin.addr e.aa.toNat, size := e.vwin.size,
    th := if e.vwin.eng = 1 then e.vab.toNat else e.h, op := op }

def execVscat (h : BitVec 13) (n : Fin 4) (s : State) : Host.Outcome State Fault Refusal :=
  lift (vcIssue 0x1C (fun e => vscatCause e e.vwin.wr)
    (fun e => withSlot e (vscatReq e (.scatter e.vElem)) (fun m => m)) h.toNat n.val) s
def execVscata (h : BitVec 13) (n : Fin 4) (s : State) : Host.Outcome State Fault Refusal :=
  lift (vcIssue 0x1D (fun e => vscatCause e (e.vwin.at' && decide (e.vwin.eng ≤ 1 ∧ 2 ≤ e.vwin.esize)))
    (fun e => withSlot e (vscatReq e (.atomic e.vwin.fp e.vElem)) (fun m => m)) h.toNat n.val) s

/-! ### Branches -/

/-- Target of a branch of format L: its signed word offset counts from the branch's own address, as format B of the scalar core does
(R74, R85; log entry 128). A target outside the block is refused. -/
def vcTarget (e : Env) : Option Nat :=
  unless' (inBlock (vcBlocks e.vc.prog) 512 e.ct.phase (e.ct.pc + e.immL)) 2

def execBz (h : BitVec 13) (n : Fin 4) (s : State) : Host.Outcome State Fault Refusal :=
  lift (vcIssue 0x1E vcTarget
    (fun e => if e.aa = 0 then e.jump (e.ct.pc + e.immL) else e.next e.m) h.toNat n.val) s
def execBnz (h : BitVec 13) (n : Fin 4) (s : State) : Host.Outcome State Fault Refusal :=
  lift (vcIssue 0x1F vcTarget
    (fun e => if e.aa = 0 then e.next e.m else e.jump (e.ct.pc + e.immL)) h.toNat n.val) s
/-- AA must be a0. -/
def execJmp (h : BitVec 13) (n : Fin 4) (s : State) : Host.Outcome State Fault Refusal :=
  lift (vcIssue 0x20 (fun e => orElse' (unless' (decide (e.f 21 19 = 0)) 1) (vcTarget e))
    (fun e => e.jump (e.ct.pc + e.immL)) h.toNat n.val) s
/-- a = a - 1, then branch while a is not zero. -/
def execVcLoop (h : BitVec 13) (n : Fin 4) (s : State) : Host.Outcome State Fault Refusal :=
  lift (vcIssue 0x21 vcTarget
    (fun e =>
      let st := e.vc.puta (e.f 21 19) (e.aa - 1)
      let m := e.m.setVc e.c st
      if st.geta (e.f 21 19) = 0 then e.next m else m.setPc e.c (e.ct.pc + e.immL).toNat) h.toNat n.val) s

/-! ### Step parameters and STEP.M (R99 to R101, R337, R344, R345) -/

/-- PARM loads the entry once its VALID bit [19] is 1; until then the core waits at it (R338). -/
def execParm (h : BitVec 13) (n : Fin 4) (s : State) : Host.Outcome State Fault Refusal :=
  lift (vcIssue 0x22 (fun e => unless' (hsOk e e.eaL 64) 9)
    (fun e =>
      let r := e.hh.read (3 + e.core) e.eaL 64
      let x := leNat r.1
      if x.testBit 19 && !e.owed e.eaL 64 then e.next ((e.m.setHearth e.h r.2).setVc e.c { e.vc with latch := BitVec.ofNat 512 x })
      else e.m) h.toNat n.val) s

/-- The fields of the parameter latch (R337). -/
structure StepPar where
  skip  : Bool
  mrm   : Nat
  shard : Word
  step  : Word
  gscale : Word
  lr    : Word
  beta1 : Word
  omb1  : Word
  beta2 : Word
  omb2  : Word
  eps   : Word
  wd    : Word
  bc1   : Word
  bc2   : Word

def StepPar.of (l : BitVec 512) : StepPar :=
  { skip := l.getLsbD 16, mrm := slice l.toNat 18 17, shard := l.extractLsb' 32 32, step := l.extractLsb' 64 32,
    gscale := l.extractLsb' 96 32, lr := l.extractLsb' 128 32, beta1 := l.extractLsb' 160 32,
    omb1 := l.extractLsb' 192 32, beta2 := l.extractLsb' 224 32, omb2 := l.extractLsb' 256 32,
    eps := l.extractLsb' 288 32, wd := l.extractLsb' 320 32, bc1 := l.extractLsb' 352 32, bc2 := l.extractLsb' 384 32 }

/-- One FP32 operation to nearest even on values that carry flags. -/
def fl2 (g : Num → Num → Num × Bool) (a b : Num × Flg) : Num × Flg :=
  let r := out32 .rne (g a.1 b.1)
  (r.1, (a.2.or b.2).or r.2)

def fl3 (a b c : Num × Flg) : Num × Flg :=
  let r := out32 .rne (fma3 a.1 b.1 c.1)
  (r.1, ((a.2.or b.2).or c.2).or r.2)

def flSqrt (a : Num × Flg) : Num × Flg :=
  let r := out32 .rne a.1.sqrt
  (r.1, a.2.or r.2)

/-- One element of STEP.M: new master, new moments, each with its flags (R344). -/
def stepElem (p : StepPar) (w gr m8 v8 : Num) : (Num × Flg) × (Num × Flg) × (Num × Flg) :=
  let c := fun (x : Word) => (f32 x, ({} : Flg))
  let w' : Num × Flg := (w, {})
  let g := fl2 Num.mul (gr, {}) (c p.gscale)
  let m := fl3 (c p.beta1) (out32 .rne (m8, false)) (fl2 Num.mul (c p.omb1) g)
  let v := fl3 (c p.beta2) (out32 .rne (v8, false)) (fl2 Num.mul (c p.omb2) (fl2 Num.mul g g))
  let u := fl2 Num.div (fl2 Num.mul m (c p.bc1)) (fl2 Num.add (flSqrt (fl2 Num.mul v (c p.bc2))) (c p.eps))
  let d := fl2 Num.mul (c p.lr) (fl2 Num.add u (fl2 Num.mul (c p.wd) w'))
  (fl2 (fun a b => a.add b.neg) w' d, m, v)

/-- Rounding of the moment re-encoding of element j (R151, R153): MRM 2 is stochastic, 3 the default, to nearest even
under a stochastic default. -/
def mrmRnd (dflt : Nat) (p : StepPar) (key : Word) (purpose : Nat) : Rnd :=
  if p.mrm = 2 then .sto (srBits p.shard p.step key purpose) else rndPlain dflt p.mrm

/-- STEP.M on a frame of 384 bytes: the 128 bytes of new masters, the 66 bytes of moments and scales from offset 256
where they change, the flags, and whether the block was held (R345). -/
def stepM (dflt : Nat) (p : StepPar) (a6 : Word) (fr : List Byte) : List Byte × Option (List Byte) × Flg × Bool :=
  let wB := fr.take 128
  if p.skip then (wB, none, {}, false)
  else
    let ws := bytesWords 32 fr
    let gs := bytesWords 32 (fr.drop 128)
    let sm := (nth 0 fr 320).toNat
    let sv := (nth 0 fr 321).toNat
    let ms := ((fr.drop 256).take 32).map fun b => Fmt.decScaled .mq8l (some sm) b.toNat
    let vs := ((fr.drop 288).take 32).map fun b => Fmt.decScaled .mq8q (some sv) b.toNat
    let r := List.zipWith (fun x y => stepElem p (f32 x.1) (f32 x.2) y.1 y.2) (List.zip ws gs) (List.zip ms vs)
    let fl := r.foldl (fun a x => a.or ((x.1.2.or x.2.1.2).or x.2.2.2)) ({} : Flg)
    if r.any fun x => !(x.1.1.isFin && x.2.1.1.isFin && x.2.2.1.isFin) then (wB, none, fl, true)
    else
      let key := fun (j : Nat) => a6 + BitVec.ofNat 32 j
      let gm := encGroup .mq8l ((List.zip r (List.range 32)).map fun x => (x.1.2.1.1, mrmRnd dflt p (key x.2) 1))
      let gv := encGroup .mq8q ((List.zip r (List.range 32)).map fun x => (x.1.2.2.1, mrmRnd dflt p (key x.2) 2))
      let fl := (gm.2 ++ gv.2).foldl (fun a x => a.or x.2) fl
      let byte := fun (n : Nat) => BitVec.ofNat 8 n
      (wsBytes (r.map fun x => rn32 x.1.1),
        some (gm.2.map (fun x => byte x.1) ++ gv.2.map (fun x => byte x.1) ++ [byte gm.1, byte gv.1]), fl, false)

/-- Format P: AF [25:23], AD [22:20], [19:0] reserved; the placement rule of R100. -/
def stepCause (e : Env) : Option Nat :=
  let af := (e.vc.geta (e.f 25 23)).toNat
  let ad := (e.vc.geta (e.f 22 20)).toNat
  orElse' (unless' (decide (e.f 19 0 = 0)) 1)
    (unless' (decide (af % 64 = 0 ∧ ad % 64 = 0 ∧ af + 384 ≤ 8192 ∧ ad + 128 ≤ 8192 ∧
      (ad = af ∨ ad + 128 ≤ af ∨ af + 384 ≤ ad))) 10)

def execStepM (h : BitVec 13) (n : Fin 4) (s : State) : Host.Outcome State Fault Refusal :=
  lift (vcIssue 0x23 stepCause
    (fun e =>
      let af := (e.vc.geta (e.f 25 23)).toNat
      let ad := (e.vc.geta (e.f 22 20)).toNat
      let r := stepM (e.m.rndOf e.h) (StepPar.of e.vc.latch) (e.vc.geta 6) (mRead e.vc.mem af 384)
      let mem := match r.2.1 with
        | some b => mWrite e.vc.mem (af + 256) b
        | none => e.vc.mem
      let st := { e.vc with mem := mWrite mem ad r.1, held := if r.2.2.2 then satAdd 65535 e.vc.held 1 else e.vc.held }
      let m := e.wv (st.flag r.2.2.1)
      { m with train := { m.train with stepVcs := m.train.stepVcs.filter (· ≠ e.c) ++ [e.c] } }) h.toNat n.val) s

/-! ### Blocks -/

/-- BLK is two words; the reserved fields of both must be zero (R85). -/
def execVcBlk (h : BitVec 13) (n : Fin 4) (s : State) : Host.Outcome State Fault Refusal :=
  lift (vcIssue 0x24
    (fun e => orElse' (unless' (decide (e.f 9 0 = 0 ∧ slice (nth 0 e.vc.prog (e.ct.pc + 1)).toNat 15 0 = 0)) 1)
      (blkOrder e))
    (fun e => e.m.enterBlock e.c 2) h.toNat n.val) s

def execVcEnd (h : BitVec 13) (n : Fin 4) (s : State) : Host.Outcome State Fault Refusal :=
  lift (fun m =>
    if strayEnd m h.toNat (coreVc n.val) 0x25 (m.vc (cid h.toNat (coreVc n.val))).prog then
      m.raise h.toNat (coreVc n.val) 1 6
    else vcIssue 0x25 (cV fun _ => true)
      (fun e => match e.ct.phase with
        | .inside b => (e.next e.m).endBlock e.h e.core b
        | _ => e.m) h.toNat n.val m) s

/-- Waits until every scatter and HS store of the core has taken effect. -/
def execVcFence (h : BitVec 13) (n : Fin 4) (s : State) : Host.Outcome State Fault Refusal :=
  lift (vcIssue 0x26 (cV fun _ => true)
    (fun e => if e.hh.reqs.any (fun r => r.core = e.core && r.op.posted) then e.m else e.next e.m) h.toNat n.val) s

end Sys2Proof.Machine
end

