-- ==== Sys2Proof/Machine/Matrix.lean ====
section
/-! DEFINITION. The matrix core: sequencer, operand buffers, array, accumulator, drain unit (chapter 04, R161, R230 to R233). -/

namespace Sys2Proof.Machine

/-! ### The sequencer program -/

/-- Base of the sequencer program: the start of the hearth's SEQUENCER region (R213). -/
def Hearth.seqBase (x : Hearth) : Nat :=
  match x.regions.find? (·.kind = 1) with
  | some r => r.base
  | none => 0

/-- Descriptor i of the program (R116). -/
def Hearth.desc (x : Hearth) (i : Nat) : Nat := leNat (mRead x.hs (x.seqBase + 16 * i) 16)

def dOp (d : Nat) : Nat := slice d 3 0
def dEnd (d : Nat) : Bool := bitAt d 4

/-- Blocks of a sequencer program: first and last descriptor of each (R117); `n` descriptors from i are left. -/
def mcBlocksAux (x : Hearth) : Nat → Nat → Nat → List (Nat × Nat)
  | 0, i, st => if st < i then [(st, i - 1)] else []
  | n + 1, i, st => if dEnd (x.desc i) then (st, i) :: mcBlocksAux x n (i + 1) (i + 1) else mcBlocksAux x n (i + 1) st

def mcBlocks (x : Hearth) (ndesc : Nat) : List (Nat × Nat) := mcBlocksAux x ndesc 0 0

/-- The LOOPs of the program whose body holds descriptor i, as indices (R128). Bodies that overlap without one holding the other
count alike, each for the descriptors it holds (log entry 90). -/
def enclosing (x : Hearth) (ndesc i : Nat) : List Nat :=
  (List.range ndesc).filter fun l =>
    i < l && dOp (x.desc l) = 2 && decide (l ≤ i + slice (x.desc l) 15 8)

/-- Offsets of descriptor i from its enclosing loops (R128). -/
def offsets (x : Hearth) (mc : McSt) (i : Nat) : McOff :=
  (enclosing x mc.ndesc i).foldl (fun o l =>
    let d := x.desc l
    let n := tGet 0 mc.loops l
    { a := o.a + n * slice d 48 32, b := o.b + n * slice d 65 49, d := o.d + n * slice d 82 66,
      ka := o.ka + n * slice d 92 83, kb := o.kb + n * slice d 102 93, t := o.t + n * slice d 105 103,
      af := o.af != (bitAt d 106 && decide (n % 2 = 1)), bf := o.bf != (bitAt d 107 && decide (n % 2 = 1)) }) {}

/-- Nesting depth of the LOOP at index l: one more than the deepest LOOP descriptor in its body. -/
def loopDepth (x : Hearth) : Nat → Nat → Nat
  | 0, _ => 1
  | fuel + 1, l =>
    let b := slice (x.desc l) 15 8
    1 + ((List.range b).foldl (fun a k => let i := l - b + k
          if dOp (x.desc i) = 2 then max a (loopDepth x fuel i) else a) 0)

/-- What a descriptor sees when it issues: the module after the fetch, hearth, descriptor, matrix core, loop offsets; the module
as it was, which stays where the sequencer stalls. -/
structure MEnv where
  m  : Mod
  h  : Nat
  d  : Nat
  mc : McSt
  o  : McOff
  stall : Mod

namespace MEnv
def c (e : MEnv) : Nat := cid e.h 0
def ct (e : MEnv) : Ctl := e.m.ctl e.c
def hh (e : MEnv) : Hearth := e.m.hearth e.h
def f (e : MEnv) (hi lo : Nat) : Nat := slice e.d hi lo
end MEnv

/-- An MC fault of R130: the core stops, the MC status word keeps the code (R132). -/
def Mod.raiseMc (m : Mod) (h code : Nat) : Mod :=
  let m := m.raise h 0 2 code
  m.setMc (cid h 0) { m.mc (cid h 0) with fault := code }

/-- After a descriptor (R117): on END the block waits for its units, else the next descriptor. -/
def Mod.mcNext (m : Mod) (h d : Nat) : Mod :=
  let c := cid h 0
  let ct := m.ctl c
  let pc := if ct.pc + 1 = (m.mc c).ndesc then 0 else ct.pc + 1
  match ct.phase with
  | .inside b => m.setCtl c { ct with pc := pc, phase := if dEnd d then .ending b else .inside b }
  | _ => m.setCtl c { ct with pc := pc }

/-- The sequencer's fetch of the descriptor at index pc: a local requester's access of 16 B (R41, R116, R242). -/
def Hearth.fetched (x : Hearth) (pc : Nat) : Hearth := (x.grant (x.seqBase + 16 * pc) 3).count 11 16

/-- The first cause of R130 that a descriptor meets: its own, and the order of blocks and their TILE (R117). -/
def mcCheck (cause : Option Nat) (op : Nat) (e : MEnv) : Option Nat :=
  let order : Option Nat := match e.ct.phase with
    | .started _ => unless' (decide (op = 1)) 7
    | _ => unless' (decide (op ≠ 1)) 7
  let first := match cause, order with
    | some a, some b => some (min a b)
    | some a, none => some a
    | none, r => r
  orElse' (unless' (decide (slice e.d 7 5 = 0)) 1) first

/-- The frame of a descriptor (R119, R130): the sequencer stands at it, inside a block (or at the block's TILE); the first
cause found raises its MC fault and the descriptor has no other effect. -/
def mcIssue (op : Nat) (cause : MEnv → Option Nat) (eff : MEnv → Mod) (h : Nat) (m : Mod) : Mod :=
  if !m.issues h 0 then m
  else
    let x := m.hearth h
    let pc := (m.ctl (cid h 0)).pc
    let d := x.desc pc
    let e : MEnv := { m := m.setHearth h (x.fetched pc), h := h, d := d, mc := m.mc (cid h 0),
                      o := offsets x (m.mc (cid h 0)) pc, stall := m }
    if dOp d = 0 ∨ 8 ≤ dOp d then e.m.raiseMc h 1
    else if dOp d ≠ op then m
    else match mcCheck (cause e) op e with
      | some k => e.m.raiseMc h k
      | none => eff e

/-! ### Tiles and slots -/

/-- Rows and columns of a tile shape (R113). -/
def shapeMN : Nat → Nat × Nat
  | 0 => (8, 128)
  | 1 => (16, 64)
  | 2 => (32, 32)
  | 3 => (64, 16)
  | _ => (128, 8)

/-- The current block's TILE word. -/
def McSt.tw (mc : McSt) : Nat := mc.tile.toNat
def McSt.mn (mc : McSt) : Nat × Nat := shapeMN (slice mc.tw 10 8)
def McSt.afmt (mc : McSt) : Fmt := (Fmt.ofCode (slice mc.tw 27 24)).getD .bf16
def McSt.bfmt (mc : McSt) : Fmt := (Fmt.ofCode (slice mc.tw 31 28)).getD .bf16
def McSt.slot (mc : McSt) (t : Nat) : Slot := tGet {} mc.slots t
def McSt.setSlot (mc : McSt) (t : Nat) (s : Slot) : McSt := { mc with slots := tSet {} mc.slots t s }
def McSt.half (mc : McSt) (b : Bool) (h : Nat) : Half := tGet {} mc.halves ((if b then 2 else 0) + h % 2)
def McSt.setHalf (mc : McSt) (b : Bool) (h : Nat) (x : Half) : McSt :=
  { mc with halves := tSet {} mc.halves ((if b then 2 else 0) + h % 2) x }

/-- Operand pairs the array takes (R106). -/
def pairOk (a b : Nat) : Bool :=
  let nar := fun (c : Nat) => decide (1 ≤ c ∧ c ≤ 7)
  (nar a && nar b) || (a == 8 && b == 8) || (a == 0 && b == 0)

/-- FP32 to INT32 of the bias, to nearest even (R114, R149). -/
def biasInt (w : Word) : Word := BitVec.ofNat 32 (encInt 32 .rne (f32 w)).1

/-- Initial value of an element in column j of a slot (R114). -/
def McSt.init (mc : McSt) (s : Slot) (j : Nat) : Word :=
  if s.bias then (let b := tGet 0 mc.bias j; if s.int32 then biasInt b else b) else 0

/-- Number of the 4 x 4 block that holds element (i, j) (R113). -/
def blockOf (n i j : Nat) : Nat := (i / 4) * (n / 4) + j / 4

/-- Element (i, j) of slot t as a DRAIN sees it: the initial value where the block's init bit is set (R114). -/
def McSt.elem (mc : McSt) (t i j : Nat) : Word :=
  let n := mc.mn.2
  let s := mc.slot t
  if s.init.getLsbD (blockOf n i j) then mc.init s j else tGet 0 mc.acc (t * 1024 + i * n + j)

/-- The slots of a TMASK. -/
def slotsOf (tmask : Nat) : List Nat := (List.range 8).filter fun t => tmask.testBit t

/-- Base of the ACC spill region (R208 KIND 8). -/
def Hearth.accBase (x : Hearth) : Nat :=
  match x.regions.find? (·.kind = 8) with
  | some r => r.base
  | none => 0

/-- The place of a record in the spill region is its place in the directory's order of keys: (set, slot) among 256. The
directory keeps at most 64; the i-th listed record has granules 64i on. -/
def recPos (dir : List SpillRec) (set slot : Nat) : Option Nat := dir.findIdx? fun r => r.set = set && r.slot = slot

/-- A free directory place: the directory is kept as 64 places, a deleted one marked by slot 8. -/
def freePos (dir : List SpillRec) : Nat :=
  match dir.findIdx? fun r => r.slot = 8 with
  | some i => i
  | none => dir.length

/-- The directory with a record put at place i. -/
def dirPut (dir : List SpillRec) (i : Nat) (r : SpillRec) : List SpillRec :=
  if i < dir.length then setAt dir i r else dir ++ [r]

/-- All 1,024 elements of a slot, under the shape of the TILE that last named it; the initial value where the init bit
of the block is set (R231). -/
def McSt.slotWords (mc : McSt) (t : Nat) : List Word :=
  let s := mc.slot t
  (List.range 1024).map fun k =>
    if s.init.getLsbD (blockOf s.cols (k / s.cols) (k % s.cols)) then mc.init s (k % s.cols)
    else tGet 0 mc.acc (t * 1024 + k)

/-- A slot's accumulator bytes replaced. -/
def McSt.putWords (mc : McSt) (t : Nat) (l : List Word) : McSt :=
  { mc with acc := (l.zip (List.range 1024)).foldl (fun a p => tSet 0 a (t * 1024 + p.2) p.1) mc.acc }

/-- A spill or restore of record i: its 64 granules are granted one by one (R232; requester 3, log entry 24). -/
def Hearth.spilled (x : Hearth) (i : Nat) : Hearth := (x.grants (x.accBase + 4096 * i) 4096 3).count 26 1

/-- Spill or restore of slot t at a TILE of set y in compact mode (R231); each adds 1 to ACC_SPILL (R232). -/
def tileSlot (y initc : Nat) (kind : Bool) (st : Hearth × McSt) (t : Nat) : Hearth × McSt :=
  let s := st.2.slot t
  if s.owner = some y then st
  else
    let st : Hearth × McSt := match s.owner with
      | none => st
      | some x =>
        if s.init = BitVec.allOnes 64 then st
        else
          let i := match recPos st.2.dir x t with
            | some i => i
            | none => freePos st.2.dir
          let hh := st.1.spilled i
          ({ hh with hs := mWrite hh.hs (hh.accBase + 4096 * i) (wsBytes (st.2.slotWords t)) },
            { st.2 with dir := dirPut st.2.dir i { set := x, slot := t, int32 := s.int32 } })
    let st : Hearth × McSt := match recPos st.2.dir y t, decide (initc = 0) with
      | some i, true =>
        let k := (nth { set := 0, slot := 8, int32 := false } st.2.dir i).int32
        let hh := st.1.spilled i
        let mc := st.2.putWords t (mWords hh.hs (hh.accBase + 4096 * i) 1024)
        let mc := mc.setSlot t { init := 0, bias := false, int32 := k, owner := some y }
        (hh, { mc with dir := dirPut mc.dir i { set := 0, slot := 8, int32 := false } })
      | some i, false =>
        (st.1, { st.2 with dir := dirPut st.2.dir i { set := 0, slot := 8, int32 := false } })
      | none, true => (st.1, st.2.setSlot t { init := BitVec.allOnes 64, bias := false, int32 := kind, owner := some y })
      | none, false => st
    (st.1, st.2.setSlot t { st.2.slot t with owner := some y })

/-- The tile set of block b (R230). -/
def McSt.tset (mc : McSt) (b : Nat) : Nat := nth 0 mc.tsets b

/-- Checks of TILE (R120, R130). -/
def tileCause (e : MEnv) : Option Nat :=
  let a := e.f 27 24
  let b := e.f 31 28
  let tm := e.f 18 11
  let y := e.mc.tset ((e.ct.phase.block).getD 0)
  let kind := decide (a = 8)
  let kindBad := (slotsOf tm).any fun t =>
    let s := e.mc.slot t
    (!cCompact (e.m.imgOf e.h) || s.owner == some y) && s.int32 != kind
  let n := (shapeMN (e.f 10 8)).2
  let bias := e.f 80 64
  orElse' (unless' (decide (e.f 23 21 = 0 ∧ e.f 63 56 = 0 ∧ e.f 127 81 = 0 ∧ e.f 20 19 ≠ 3 ∧ a < 12 ∧ b < 12)) 1)
    (orElse' (unless' (decide (e.f 10 8 < 5 ∧ tm ≠ 0)) 2)
      (orElse' (unless' (pairOk a b && !(decide (e.f 20 19 = 0) && kindBad)) 3)
        (orElse' (unless' (decide (e.f 20 19 ≠ 2 ∨ bias % 64 = 0)) 5)
          (unless' (decide (e.f 20 19 ≠ 2) || e.hh.inRegion bias (4 * n)) 9))))

/-- n takes of trigger tokens from an input queue. -/
def takeN (q : Nat) : Nat → Mod → Mod
  | 0, m => m
  | k + 1, m => match m.takeTok q with
    | none => m
    | some (_, m) => takeN q k m

/-- Effect of TILE (R117, R120, R114, R231): triggers taken and discarded, slots spilled, restored and initialised, bias loaded (by requester
3, log entry 24). -/
def tileEff (e : MEnv) : Mod :=
  let b := (e.ct.phase.block).getD 0
  let m := (List.range 4).foldl (fun m q => takeN (qid e.c q) (nth 0 e.ct.inCnt q) m) e.m
  let mc := { e.mc with tile := BitVec.ofNat 128 e.d, loops := [] }
  let initc := e.f 20 19
  let kind := decide (e.f 27 24 = 8)
  let slots := slotsOf (e.f 18 11)
  let y := mc.tset b
  let st := if cCompact (m.imgOf e.h) then slots.foldl (tileSlot y initc kind) (m.hearth e.h, mc)
            else (m.hearth e.h, slots.foldl (fun mc t => mc.setSlot t { mc.slot t with owner := some y }) mc)
  let mc := slots.foldl (fun mc t => mc.setSlot t { mc.slot t with cols := mc.mn.2 }) st.2
  let mc := if initc = 0 then mc
    else slots.foldl (fun mc t => mc.setSlot t { mc.slot t with init := BitVec.allOnes 64, bias := decide (initc = 2),
                                                                int32 := kind }) mc
  let n := mc.mn.2
  let r := if initc = 2 then st.1.read 3 (e.f 80 64) (4 * n) else ([], st.1)
  let mc := if initc = 2 then
      { mc with bias := ((bytesWords n r.1).zip (List.range n)).foldl (fun t p => tSet 0 t p.2 p.1) mc.bias }
    else mc
  let m := (m.setHearth e.h r.2).setMc e.c mc
  let m := m.setCtl e.c { m.ctl e.c with phase := .inside b }
  m.mcNext e.h e.d

/-- TILE. -/
def execTile (h : BitVec 13) (s : State) : Host.Outcome State Fault Refusal :=
  lift (mcIssue 1 tileCause tileEff h.toNat) s

/-! ### LOAD (R121, R122) -/

/-- LOAD of unit u (0 A, 1 B), with loop offsets: address and half. -/
structure LoadF where
  src   : Nat
  half  : Nat
  q     : Nat
  scl   : Bool
  addr  : Nat
  pitch : Nat
  rows  : Nat
  rb    : Nat
  saddr : Nat

def loadF (u d : Nat) (o : McOff) : LoadF :=
  { src := slice d 9 8, half := if (if u = 0 then o.af else o.bf) then 1 - slice d 10 10 else slice d 10 10,
    q := slice d 12 11, scl := bitAt d 13,
    addr := (slice d 48 32 + (if slice d 9 8 ≤ 1 then (if u = 0 then o.a else o.b) else 0)) % 2 ^ 17,
    pitch := slice d 76 64, rows := slice d 86 77 + 1, rb := slice d 99 87, saddr := slice d 116 100 }

/-- Format of the panel a loader fills. -/
def McSt.fmtOf (mc : McSt) (u : Nat) : Fmt := if u = 0 then mc.afmt else mc.bfmt

/-- Elements of one panel row. -/
def rowElems (f : Fmt) (rb : Nat) : Nat := rb * 8 / f.width

/-- Scales of a panel (R112): A in (row, K block) order, B in (K block, column) order. -/
def scaleCount (u : Nat) (f : Fmt) (rows rb : Nat) : Nat :=
  if u = 0 then rows * ceilDiv (rowElems f rb) 32 else ceilDiv rows 32 * rowElems f rb

/-- Rows and columns of a transposing block by element width (R46). -/
def transBlock (f : Fmt) : Nat :=
  match f with
  | .fp32 => 16
  | .bf16 | .fp16 | .e4m3 | .e5m2 | .int8 => 32
  | _ => 0

/-- Source row pitch of a LOAD: packed where PITCH is 0. -/
def srcPitch (f : Fmt) (l : LoadF) : Nat :=
  if l.pitch ≠ 0 then l.pitch else if l.src = 1 then l.rows * (f.width / 8) else l.rb

/-- Rows of the source and the bytes of each: a transposed source has a row for each panel column. -/
def srcRows (f : Fmt) (l : LoadF) : Nat × Nat :=
  if l.src = 1 then (rowElems f l.rb, l.rows * (f.width / 8)) else (l.rows, l.rb)

/-- Every source row lies in one declared region (R40; a row across two regions that touch is outside, log entry 91). -/
def srcOk (x : Hearth) (f : Fmt) (l : LoadF) : Bool :=
  let r := srcRows f l
  (List.range r.1).all fun i => x.inRegion (l.addr + i * srcPitch f l) r.2

/-- The transposing read port's own rule: base aligned to 64 B, row pitch a multiple of 64 B up to 4,096 B (R47). The base is the
LOAD's ADDR; where a panel of 8-bit elements is wider than one block, the bases of its further blocks follow from it and are not
checked (log entry 116). -/
def transOk (f : Fmt) (l : LoadF) : Bool :=
  decide (l.src ≠ 1 ∨ (l.addr % 64 = 0 ∧ srcPitch f l % 64 = 0 ∧ srcPitch f l ≤ 4096))

/-- Checks of LOAD (R121, R122, R130). A base or pitch that breaks R47 at the transposing port is MC_LOAD, the lower of the two
codes that R130 and R47 give it (R198); PITCH below RB is MC_LOAD for SRC 0 and 1 alike (R121); SRC 2 ignores ADDR and PITCH
(log entry 15). -/
def loadCause (u : Nat) (e : MEnv) : Option Nat :=
  let l := loadF u e.d e.o
  let f := e.mc.fmtOf u
  let nsc := scaleCount u f l.rows l.rb
  let shapeOk :=
    if l.src = 2 then decide (l.rows * l.rb % 64 = 0)
    else if l.src = 1 then
      let t := transBlock f
      decide (t ≠ 0 ∧ l.rb % (f.width / 8) = 0 ∧ rowElems f l.rb % t = 0 ∧ l.rows % t = 0 ∧ (l.pitch = 0 ∨ l.rb ≤ l.pitch)) && transOk f l
    else decide (l.addr % 64 = 0 ∧ (l.pitch = 0 ∨ (l.pitch % 64 = 0 ∧ l.pitch ≤ 4096 ∧ l.rb ≤ l.pitch)))
  orElse' (unless' (decide (e.f 31 14 = 0 ∧ e.f 63 49 = 0 ∧ e.f 127 117 = 0 ∧ l.src ≠ 3)) 1)
    (orElse' (unless' (decide (l.rb ≠ 0 ∧ l.rows * l.rb ≤ 4096 ∧ (l.scl = false ∨ nsc ≤ 256)) && shapeOk) 5)
      (orElse' (unless' (decide (l.src ≠ 2 ∨ nth 0 e.ct.inCnt l.q = 0)) 8)
        (unless' ((decide (l.src = 2) || srcOk e.hh f l) && (!l.scl || e.hh.inRegion l.saddr nsc)) 9)))

/-- Grants of the granules that a LOAD reads: of each source row, of a packed source as one run (R41, R122). -/
def loadGrants (u : Nat) (f : Fmt) (l : LoadF) (x : Hearth) : Hearth :=
  let r := srcRows f l
  if l.src = 0 ∧ l.pitch = 0 then x.grants l.addr (r.1 * r.2) (1 + u)
  else (List.range r.1).foldl (fun x i => x.grants (l.addr + i * srcPitch f l) r.2 (if l.src = 1 then 8 else 1 + u)) x

/-- Panel bytes from the hearth store (SRC 0 and 1): rows in order, or transposed. -/
def panelBytes (x : Hearth) (f : Fmt) (l : LoadF) : List Byte :=
  let r := srcRows f l
  let src := (List.range r.1).map fun i => mRead x.hs (l.addr + i * srcPitch f l) r.2
  if l.src = 1 then
    let w := f.width / 8
    (List.range l.rows).flatMap fun i => src.flatMap fun row => (row.drop (i * w)).take w
  else src.flatten

/-- Completion of a LOAD: ROWS and RB are latched, scales loaded or cleared (R110, R112). -/
def loadDone (u h : Nat) (l : LoadF) (m : Mod) : Mod :=
  let c := cid h 0
  let mc := m.mc c
  let x := mc.half (u = 1) l.half
  let r := if l.scl then (m.hearth h).read (1 + u) l.saddr (scaleCount u (mc.fmtOf u) l.rows l.rb) else ([], m.hearth h)
  let m := m.setHearth h r.2
  m.setMc c (mc.setHalf (u = 1) l.half { x with rows := l.rows, rb := l.rb, scales := if l.scl then some r.1 else none })

/-- Bytes written into a half. -/
def fillHalf (u h : Nat) (l : LoadF) (at' : Nat) (b : List Byte) (m : Mod) : Mod :=
  let c := cid h 0
  let mc := m.mc c
  let x := mc.half (u = 1) l.half
  m.setMc c (mc.setHalf (u = 1) l.half { x with data := mWrite x.data at' b })

/-- 64 bytes of a token's payload; a masked token fills zeros (R122). -/
def tokBytes (t : Token) : List Byte :=
  let b := if t.mask then [] else wsBytes t.words
  b ++ List.replicate (64 - b.length) 0

/-- A LOAD from a queue takes tokens while they are there; answers the units filled. -/
def loadTokens (u h : Nat) (l : LoadF) (total : Nat) : Nat → Mod → Nat → Mod × Nat
  | 0, m, k => (m, k)
  | fuel + 1, m, k =>
    if k = total then (m, k)
    else match m.takeTok (qid (cid h 0) l.q) with
      | none => (m, k)
      | some (t, m) => loadTokens u h l total fuel (fillHalf u h l (64 * k) (tokBytes t) m) (k + 1)

/-! ### DRAIN (R125, R126) -/

structure DrainF where
  slot  : Nat
  dst   : Nat
  fmt   : Nat
  rm    : Nat
  eot   : Bool
  tag   : Nat
  dr    : Nat
  addr  : Nat
  pitch : Nat
  kaddr : Nat
  kbase : Nat

def drainF (d : Nat) (o : McOff) : DrainF :=
  { slot := (slice d 10 8 + o.t) % 8, dst := slice d 12 11, fmt := slice d 16 13, rm := slice d 18 17, eot := bitAt d 19,
    tag := slice d 25 20, dr := slice d 38 32 + 1,
    addr := (slice d 56 40 + (if slice d 12 11 = 0 then o.d else 0)) % 2 ^ 17, pitch := slice d 76 64,
    kaddr := slice d 96 80, kbase := slice d 127 97 }

/-- Rounding of DRAIN is stochastic: RM 2, or 3 under a stochastic default (R151). -/
def drainSto (dflt rm : Nat) : Bool := decide (rm = 2 ∨ (rm = 3 ∧ dflt = 2))

/-- Output formats by slot kind (R126). -/
def drainFmtOk (int32 : Bool) (f : Nat) : Bool :=
  if int32 then f == 9 || f == 0 else decide (f ≤ 4)

/-- Bytes of one output row. -/
def drainRow (mc : McSt) (l : DrainF) : Nat := mc.mn.2 * (((Fmt.ofCode l.fmt).getD .fp32).width / 8)

/-- Checks of DRAIN (R125, R126, R130). A DRAIN to a queue ignores ADDR and PITCH (log entry 15). -/
def drainCause (e : MEnv) : Option Nat :=
  let l := drainF e.d e.o
  let rb := drainRow e.mc l
  let sto := drainSto (e.m.rndOf e.h) l.rm
  let rowsOk := (List.range l.dr).all fun i => e.hh.inRegion (l.addr + i * (if l.pitch = 0 then rb else l.pitch)) rb
  orElse' (unless' (decide (e.f 31 26 = 0 ∧ e.f 39 39 = 0 ∧ e.f 63 57 = 0 ∧ e.f 79 77 = 0 ∧ l.dst ≠ 3 ∧ l.fmt < 12)) 1)
    (orElse' (unless' (decide ((slice e.mc.tw 18 11).testBit l.slot = true ∧ l.dr ≤ e.mc.mn.1)) 2)
      (orElse' (unless' (drainFmtOk (e.mc.slot l.slot).int32 l.fmt) 3)
        (orElse' (unless' (decide (l.dst ≠ 0 ∨ (l.addr % 64 = 0 ∧
            (l.pitch = 0 ∨ (l.pitch % 64 = 0 ∧ l.pitch ≤ 4096 ∧ rb ≤ l.pitch)))) &&
            decide (sto = false ∨ l.kaddr % 16 = 0)) 5)
          (orElse' (unless' (decide (l.dst = 0 ∨ nth 0 e.ct.outCnt (l.dst - 1) = 0)) 8)
            (unless' ((decide (l.dst ≠ 0) || rowsOk) && (!sto || e.hh.inRegion l.kaddr 16)) 9)))))

/-- Output bytes of rows 0 to dr - 1, converted with one rounding (R126, R153). -/
def drainBytes (m : Mod) (h : Nat) (l : DrainF) : List Byte :=
  let mc := m.mc (cid h 0)
  let n := mc.mn.2
  let s := mc.slot l.slot
  let f := (Fmt.ofCode l.fmt).getD .fp32
  let key := leNat (mRead (m.hearth h).hs l.kaddr 16)
  let dflt := m.rndOf h
  (List.range (l.dr * n)).flatMap fun k =>
    let w := mc.elem l.slot (k / n) (k % n)
    let rd := if drainSto dflt l.rm then
        Rnd.sto (srBits (BitVec.ofNat 32 key) (BitVec.ofNat 32 (key / 2 ^ 32)) (BitVec.ofNat 32 (l.kbase + k)) 3)
      else rndPlain dflt l.rm
    leBytes (f.width / 8) (f.enc rd (if s.int32 then Fmt.dec .int32 w.toNat else f32 w)).1

/-- 64 B units of a DRAIN sent while there is room; the last, if partly filled, is zero-padded. -/
def drainUnits (h : Nat) (l : DrainF) (b : List Byte) (total : Nat) : Nat → Mod → Nat → Mod × Nat
  | 0, m, k => (m, k)
  | fuel + 1, m, k =>
    let q := qid (cid h 0) (l.dst - 1)
    if k = total then (m, k)
    else if m.roomFor q 1 then
      let u := (b.drop (64 * k)).take 64
      drainUnits h l b total fuel ((m.reserve q 1).send q (bytesWords 16 u) (BitVec.ofNat 6 l.tag) false
        (l.eot && decide (k + 1 = total))) (k + 1)
    else (m, k)

/-- The access that reads a stochastic DRAIN's keys (requester 3, log entry 24). -/
def keyRead (dflt : Nat) (l : DrainF) (x : Hearth) : Hearth := if drainSto dflt l.rm then (x.read 3 l.kaddr 16).2 else x

/-- Rows of a DRAIN written to the hearth store (requester 3, log entry 24). -/
def drainRows (l : DrainF) (rb : Nat) (b : List Byte) (x : Hearth) : Hearth :=
  (List.range l.dr).foldl (fun x i =>
    x.write 3 (l.addr + i * (if l.pitch = 0 then rb else l.pitch)) ((b.drop (i * rb)).take rb)) x

/-! ### MMA (R103 to R109, R123, R124, R161) -/

structure MmaF where
  slot : Nat
  ah   : Nat
  bh   : Nat
  row0 : Nat
  col0 : Nat
  mv   : Nat
  nv   : Nat
  ka0  : Nat
  kb0  : Nat
  kv   : Nat

def mmaF (d : Nat) (o : McOff) : MmaF :=
  { slot := (slice d 10 8 + o.t) % 8, ah := if o.af then 1 - slice d 11 11 else slice d 11 11,
    bh := if o.bf then 1 - slice d 12 12 else slice d 12 12, row0 := slice d 22 16, col0 := slice d 29 23,
    mv := slice d 38 32 + 1, nv := slice d 45 39 + 1, ka0 := slice d 57 48 + o.ka, kb0 := slice d 67 58 + o.kb,
    kv := slice d 78 68 }

/-- A format that carries block scales here: FP6 and FP4 always, FP8 where the half holds scales (R108). -/
def usesScale (f : Fmt) (x : Half) : Bool := f.alwaysScaled || (f.isFp8 && x.scales.isSome)

/-- What an MMA finds in a half as its checks see it: the latest LOAD into the half, complete or still in its loader, gives ROWS,
RB and whether there are scales (R110, R112, R129, log entry 93). -/
def McSt.panel (mc : McSt) (b : Bool) (h : Nat) : Half :=
  match (mc.pend.filter fun p => p.unit = (if b then 1 else 0) && (loadF p.unit p.desc.toNat p.off).half = h).getLast? with
  | some p =>
    let l := loadF p.unit p.desc.toNat p.off
    { rows := l.rows, rb := l.rb, scales := if l.scl then some [] else none }
  | none => mc.half b h

/-- Checks of MMA (R123, R130). In compact mode the accumulator kind of a slot that a restore has set stays as it is, whatever the
block's formats (R115, log entry 94). -/
def mmaCause (e : MEnv) : Option Nat :=
  let l := mmaF e.d e.o
  let a := e.mc.panel false l.ah
  let b := e.mc.panel true l.bh
  let fa := e.mc.afmt
  let fb := e.mc.bfmt
  let scaleBad := fun (f : Fmt) (x : Half) (k : Nat) =>
    (f.alwaysScaled && x.scales.isNone) || (usesScale f x && decide (k % 32 ≠ 0))
  orElse' (unless' (decide (e.f 15 13 = 0 ∧ e.f 31 30 = 0 ∧ e.f 47 46 = 0 ∧ e.f 127 79 = 0 ∧ l.kv ≤ 1024)) 1)
    (orElse' (unless' (decide ((slice e.mc.tw 18 11).testBit l.slot = true ∧ l.row0 % 4 = 0 ∧ l.col0 % 4 = 0 ∧
        l.row0 + l.mv ≤ e.mc.mn.1 ∧ l.col0 + l.nv ≤ e.mc.mn.2)) 2)
      (orElse' (unless' (!scaleBad fa a l.ka0 && !scaleBad fb b l.kb0) 3)
        (unless' (decide (a.rows ≠ 0 ∧ b.rows ≠ 0 ∧ l.mv ≤ a.rows ∧ l.ka0 + l.kv ≤ rowElems fa a.rb ∧
          l.kb0 + l.kv ≤ b.rows ∧ l.nv ≤ rowElems fb b.rb)) 4)))

/-- Element k of row i of a half's panel, unscaled. -/
def Half.elem (x : Half) (f : Fmt) (i k : Nat) : Nat :=
  let bit := k * f.width
  let a := i * x.rb + bit / 8
  (leNat (mRead x.data a 5) >>> (bit % 8)) % 2 ^ f.width

/-- The block scale of an A row or a B column as an exponent; none is a scale of NaN (R108, R141). -/
def Half.scaleExp (x : Half) (f : Fmt) (i : Nat) : Option Int :=
  if usesScale f x then
    let b := (nth 0 (x.scales.getD []) i).toNat
    if b = 255 then none else some ((b : Int) - 127)
  else some 0

/-- A tree sum held with a 30-bit significand and one guard bit, truncated toward minus infinity (R161). -/
def trunc31 : Num → Num
  | .fin neg m e =>
    let b := bitLen m
    if b ≤ 31 then .fin neg m e
    else
      let k := b - 31
      .fin neg (if neg then (m + 2 ^ k - 1) >>> k else m >>> k) (e + k)
  | x => x

/-- A sum in the tree; a masked product contributes nothing (R124). -/
def treeAdd (a b : Option Num) : Option Num :=
  match a, b with
  | some x, some y => some (trunc31 (x.add y).1)
  | some x, none => some x
  | none, r => r

/-- The tree of depth 3 over at most 8 products, which adds neighbours: 0 with 1, 2 with 3, and so on at each level (R103, R161; log entry
131). -/
def treeSum (l : List (Option Num)) : Num := (redTree treeAdd none 3 l).getD .zero

/-- High and low 12-bit parts of an FP32 operand (R107, R161). -/
def split12 : Num → Num × Num
  | .fin s m e => (.fin s (m >>> 12) (e + 12), .fin s (m % 4096) e)
  | x => (x, x)

/-- One update of a lane: the tree result of at most 8 pairs, FP32 in four passes combined exactly (R107, R161). -/
def laneTree (fp32 : Bool) (l : List (Option (Num × Num))) : Num :=
  let prods := fun (g : Num × Num → Num) => l.map fun p => p.map g
  let full := treeSum (prods fun p => (p.1.mul p.2).1)
  if fp32 && full.isFin then
    let pass := fun (ga gb : Num → Num) => treeSum (prods fun p => ((ga p.1).mul (gb p.2)).1)
    let hi := fun x => (split12 x).1
    let lo := fun x => (split12 x).2
    ((((pass hi hi).add (pass hi lo)).1.add (pass lo hi)).1.add (pass lo lo)).1
  else full

/-- What one lane's K step adds, as (value, is a NaN forced by a scale). -/
def laneStep (fa fb : Fmt) (a b : Half) (l : MmaF) (i j step : Nat) : Num :=
  let k0 := 8 * step
  let nb := rowElems fb b.rb
  let ka := ceilDiv (rowElems fa a.rb) 32
  let sa := a.scaleExp fa (i * ka + (l.ka0 + k0) / 32)
  let sb := b.scaleExp fb ((l.kb0 + k0) / 32 * nb + j)
  match sa, sb with
  | some x, some y =>
    let pairs := (List.range 8).map fun d =>
      if k0 + d < l.kv then
        some (fa.dec (a.elem fa i (l.ka0 + k0 + d)), fb.dec (b.elem fb (l.kb0 + k0 + d) j))
      else none
    (laneTree (fa == .fp32) pairs).scale (x + y)
  | _, _ => .nan

/-- All K steps of one element of an FP32 slot: the new value, and whether a write was not finite. -/
def accFp (fa fb : Fmt) (a b : Half) (l : MmaF) (i j : Nat) : Nat → Nat → Word → Bool → Word × Bool
  | 0, _, w, nf => (w, nf)
  | n + 1, step, w, nf =>
    let v := rn32 ((f32 w).add (laneStep fa fb a b l i j step)).1
    accFp fa fb a b l i j n (step + 1) v (nf || !(f32 v).isFin)

/-- The integer of a number that is one. -/
def Num.toInt : Num → Int
  | .fin s m e => sgn s (shl m e)
  | _ => 0

/-- All K steps of one element of an INT32 slot: the wrapped value, and whether a write wrapped (R109). -/
def accInt (fa fb : Fmt) (a b : Half) (l : MmaF) (i j : Nat) : Nat → Nat → Word → Bool → Word × Bool
  | 0, _, w, ov => (w, ov)
  | n + 1, step, w, ov =>
    let sum := (List.range 8).foldl (fun z d =>
      if 8 * step + d < l.kv then
        z + ((fa.dec (a.elem fa i (l.ka0 + 8 * step + d))).mul (fb.dec (b.elem fb (l.kb0 + 8 * step + d) j))).1.toInt
      else z) (0 : Int)
    let z := w.toInt + sum
    let v := wordOfInt z
    accInt fa fb a b l i j n (step + 1) v (ov || decide (v.toInt ≠ z))

/-- First update of the blocks an MMA touches: the initial value into all 16 elements, the init bit cleared (R114). -/
def mmaInit (mc : McSt) (l : MmaF) : McSt × Bool :=
  let n := mc.mn.2
  let rows := (List.range (ceilDiv l.mv 4)).map fun k => l.row0 + 4 * k
  let cols := (List.range (ceilDiv l.nv 4)).map fun k => l.col0 + 4 * k
  (rows.flatMap fun i => cols.map fun j => (i, j)).foldl (fun (st : McSt × Bool) p =>
    let mc := st.1
    let s := mc.slot l.slot
    let k := blockOf n p.1 p.2
    if s.init.getLsbD k then
      let vals := (List.range 16).map fun x => (l.slot * 1024 + (p.1 + x / 4) * n + (p.2 + x % 4), mc.init s (p.2 + x % 4))
      ({ (mc.setSlot l.slot { s with init := s.init &&& ~~~(BitVec.ofNat 64 (2 ^ k)) }) with
          acc := vals.foldl (fun a v => tSet 0 a v.1 v.2) mc.acc },
        st.2 || (!s.int32 && vals.any fun v => !(f32 v.2).isFin))
    else st) (mc, false)

/-- The MMA's effect on the matrix core (R124). The slot's kind decides the sum, a restored one's too (R115, log entry 94). -/
def mmaRun (mc : McSt) (l : MmaF) : McSt :=
  let n := mc.mn.2
  let a := mc.half false l.ah
  let b := mc.half true l.bh
  let st := mmaInit mc l
  let int := (mc.slot l.slot).int32
  let steps := ceilDiv l.kv 8
  let idx := (List.range l.mv).flatMap fun i => (List.range l.nv).map fun j => (i, j)
  let r := idx.foldl (fun (st : McSt × Bool) p =>
    let k := l.slot * 1024 + (l.row0 + p.1) * n + l.col0 + p.2
    let w := tGet 0 st.1.acc k
    let v := if int then accInt mc.afmt mc.bfmt a b l p.1 p.2 steps 0 w false
             else accFp mc.afmt mc.bfmt a b l p.1 p.2 steps 0 w false
    ({ st.1 with acc := tSet 0 st.1.acc k v.1 }, st.2 || v.2)) (st.1, false)
  if int then { r.1 with intOvf := r.1.intOvf || r.2 }
  else { r.1 with nonfin := r.1.nonfin || r.2 || st.2 }

/-! ### Units (R116, R118, R129) -/

/-- What stands at the head of a unit goes on: the module, its 64 B units done, and whether it is complete. -/
def unitRun (m : Mod) (h : Nat) (p : McPend) : Mod × Nat × Bool :=
  let c := cid h 0
  if p.unit = 3 then
    let l := mmaF p.desc.toNat p.off
    (m.setMc c (mmaRun (m.mc c) l), 0, true)
  else if p.unit = 2 then
    let l := drainF p.desc.toNat p.off
    let b := drainBytes m h l
    if l.dst = 0 then
      (m.setHearth h (drainRows l (drainRow (m.mc c) l) b (keyRead (m.rndOf h) l (m.hearth h))), 0, true)
    else
      let total := ceilDiv b.length 64
      let r := drainUnits h l b total (total + 1) m p.done
      (if r.2 = total then r.1.setHearth h (keyRead (m.rndOf h) l (r.1.hearth h)) else r.1, r.2, decide (r.2 = total))
  else
    let l := loadF p.unit p.desc.toNat p.off
    if l.src = 2 then
      let total := l.rows * l.rb / 64
      let r := loadTokens p.unit h l total (total + 1) m p.done
      if r.2 = total then (loadDone p.unit h l r.1, r.2, true) else (r.1, r.2, false)
    else
      let f := (m.mc c).fmtOf p.unit
      let b := panelBytes (m.hearth h) f l
      let x := (loadGrants p.unit f l (m.hearth h)).count 11 b.length
      (loadDone p.unit h l (fillHalf p.unit h l 0 b (m.setHearth h x)), 0, true)

/-- First byte and length of the runs of the hearth store that a LOAD reads, its panel and its scales, or that a DRAIN writes. -/
def McPend.spans (mc : McSt) (p : McPend) : List (Nat × Nat) :=
  if p.unit = 2 then
    let l := drainF p.desc.toNat p.off
    let rb := drainRow mc l
    if l.dst = 0 then [(l.addr, (l.dr - 1) * (if l.pitch = 0 then rb else l.pitch) + rb)] else []
  else if p.unit < 2 then
    let l := loadF p.unit p.desc.toNat p.off
    let f := mc.fmtOf p.unit
    let r := srcRows f l
    (if l.src = 2 then [] else [(l.addr, (r.1 - 1) * srcPitch f l + r.2)]) ++
      (if l.scl then [(l.saddr, scaleCount p.unit f l.rows l.rb)] else [])
  else []

/-- The half of OBA or OBB that a LOAD fills, counted as unit and half. -/
def McPend.fills (p : McPend) : Nat × Nat := (p.unit, (loadF p.unit p.desc.toNat p.off).half)

/-- A LOAD and an MMA that reads the half it fills (R129). -/
def loadMma (l a : McPend) : Bool :=
  let x := mmaF a.desc.toNat a.off
  decide (l.unit < 2 ∧ a.unit = 3) && (l.fills == (0, x.ah) || l.fills == (1, x.bh))

/-- A DRAIN and an MMA of one slot (R129). -/
def drainMma (d a : McPend) : Bool :=
  decide (d.unit = 2 ∧ a.unit = 3) && decide ((drainF d.desc.toNat d.off).slot = (mmaF a.desc.toNat a.off).slot)

/-- The later descriptor p waits for the earlier q: one unit works in order (R116), the waits of R129 by half and by slot, and a
LOAD and a DRAIN of the same bytes of the hearth store keep program order (R43). -/
def McPend.after (mc : McSt) (p q : McPend) : Bool :=
  p.unit == q.unit || loadMma p q || loadMma q p || drainMma p q || drainMma q p ||
    (decide ((p.unit = 2 ∧ q.unit < 2) ∨ (p.unit < 2 ∧ q.unit = 2)) &&
      (p.spans mc).any fun a => (q.spans mc).any fun b => overlap a.1 a.2 b.1 b.2)

/-- One pass over the descriptors in the units, in program order: each goes on unless an earlier one that stays holds it back.
Answers the module, those that stay, and the index of the first that went on and found no token or no room. -/
def pumpList (h : Nat) : List McPend → List McPend → Option Nat → Mod → Mod × List McPend × Option Nat
  | [], kept, w, m => (m, kept, w)
  | p :: t, kept, w, m =>
    if kept.any fun q => p.after (m.mc (cid h 0)) q then pumpList h t (kept ++ [p]) w m
    else
      let r := unitRun m h p
      if r.2.2 then pumpList h t kept w r.1
      else pumpList h t (kept ++ [{ p with done := r.2.1 }]) (if r.2.1 = p.done then some (w.getD p.pc) else w) r.1

/-- The units of a matrix core go on. In static firing a LOAD or DRAIN that finds no token or no room begins to wait there, which
is SCHED_WAIT (R118, R185, log entry 92). -/
def Mod.mcPump (m : Mod) (h : Nat) : Mod :=
  let c := cid h 0
  let r := pumpList h (m.mc c).pend [] none m
  let n := r.1.setMc c { r.1.mc c with pend := r.2.1 }
  match r.2.2 with
  | some pc => if cStatic (m.imgOf h) then n.raiseAt h 0 3 4 pc else n
  | none => n

/-- A LOAD, DRAIN or MMA is issued to its unit: at most one works and two wait, else the sequencer stalls (R116). It completes at
once, or waits (R118, R129). -/
def issueUnit (u : Nat) (e : MEnv) : Mod :=
  if 3 ≤ (e.mc.pend.filter (·.unit = u)).length then e.stall
  else
    let p : McPend := { unit := u, desc := BitVec.ofNat 128 e.d, off := e.o, done := 0, pc := e.ct.pc }
    let m := (e.m.setMc e.c { e.mc with pend := e.mc.pend ++ [p] }).mcPump e.h
    if (m.ctl e.c).faulted then m else m.mcNext e.h e.d

/-- LOAD.A. -/
def execLoadA (h : BitVec 13) (s : State) : Host.Outcome State Fault Refusal :=
  lift (mcIssue 3 (loadCause 0) (issueUnit 0) h.toNat) s
/-- LOAD.B. -/
def execLoadB (h : BitVec 13) (s : State) : Host.Outcome State Fault Refusal :=
  lift (mcIssue 4 (loadCause 1) (issueUnit 1) h.toNat) s

/-- An MMA with KV = 0 completes when it issues: no unit holds it, no other descriptor waits for it, and only the counts of empty
reductions of the core and of the report move (R133). It issues where the array's queue has room for it, as every MMA (R116). -/
def mmaEff (e : MEnv) : Mod :=
  if (mmaF e.d e.o).kv ≠ 0 then issueUnit 3 e
  else if 3 ≤ (e.mc.pend.filter (·.unit = 3)).length then e.stall
  else ((e.m.setMc e.c { e.mc with emptyRed := satAdd 255 e.mc.emptyRed 1 }).count e.h 14 1).mcNext e.h e.d

/-- MMA. -/
def execMma (h : BitVec 13) (s : State) : Host.Outcome State Fault Refusal :=
  lift (mcIssue 5 mmaCause mmaEff h.toNat) s

/-- DRAIN. -/
def execDrain (h : BitVec 13) (s : State) : Host.Outcome State Fault Refusal :=
  lift (mcIssue 6 drainCause (issueUnit 2) h.toNat) s

/-- Checks of SIGNAL (R127, R130). -/
def signalCause (e : MEnv) : Option Nat :=
  orElse' (unless' (decide (e.f 9 8 ≤ 1 ∧ e.f 127 18 = 0)) 1)
    (unless' (decide (0 < (e.m.outq (qid e.c (e.f 9 8))).room)) 8)

/-- SIGNAL (R127): with WAIT, only once every earlier descriptor of the block has completed. -/
def execSignal (h : BitVec 13) (s : State) : Host.Outcome State Fault Refusal :=
  lift (mcIssue 7 signalCause
    (fun e =>
      if e.f 17 17 = 1 ∧ e.mc.pend ≠ [] then e.stall
      else (e.m.send (qid e.c (e.f 9 8)) [] (BitVec.ofNat 6 (e.f 15 10)) false (e.f 16 16 = 1)).mcNext e.h e.d)
    h.toNat) s

/-- Checks of LOOP (R128, R130). BODY = 0 is a reserved encoding, MC_OP (log entry 130). A body that holds the block's
TILE is MC_LOOP at the LOOP, before the TILE could be met again (log entry 90). -/
def mcLoopCause (e : MEnv) : Option Nat :=
  let b := e.f 15 8
  let blk := nth (0, 0) (mcBlocks e.hh e.mc.ndesc) ((e.ct.phase.block).getD 0)
  orElse' (unless' (decide (e.f 127 108 = 0 ∧ b ≠ 0)) 1)
    (unless' (decide (blk.1 + 1 + b ≤ e.ct.pc) &&
      ((List.range b).all fun k => !dEnd (e.hh.desc (e.ct.pc - b + k))) &&
      decide (loopDepth e.hh 5 e.ct.pc ≤ 4)) 6)

/-- Effect of LOOP: back to the body until COUNT passes are done (R128). -/
def mcLoopEff (e : MEnv) : Mod :=
  let n := tGet 0 e.mc.loops e.ct.pc
  if n < e.f 31 16 then
    let m := e.m.setMc e.c { e.mc with loops := tSet 0 e.mc.loops e.ct.pc (n + 1) }
    m.setPc e.c (e.ct.pc - e.f 15 8)
  else (e.m.setMc e.c { e.mc with loops := tSet 0 e.mc.loops e.ct.pc 0 }).mcNext e.h e.d

/-- LOOP. -/
def execMcLoop (h : BitVec 13) (s : State) : Host.Outcome State Fault Refusal :=
  lift (mcIssue 2 mcLoopCause mcLoopEff h.toNat) s

/-- The block ends when every descriptor of it has completed (R117). -/
def execMcBlockEnd (h : BitVec 13) (s : State) : Host.Outcome State Fault Refusal :=
  lift (fun m =>
    let c := cid h.toNat 0
    match (m.ctl c).phase with
    | .ending b =>
      if m.live h.toNat 0 && (m.mc c).pend.isEmpty then m.endBlock h.toNat 0 b else m
    | _ => m) s

end Sys2Proof.Machine
end

