-- ==== Sys2Proof/Machine/Mesh.lean ====
section
/-! DEFINITION. The bulk mesh moves (R188, R251 to R253, R268): arbiters, hops, split routers met on the way. -/

namespace Sys2Proof.Machine

/-- An output grants a flit of a channel from an input port: both pointers move past it (R253). -/
def Mod.grantOut (m : Mod) (p : Hop) (vc inPort : Nat) : Mod :=
  let a := tGet {} m.grid.arbs (1024 * p.1 + p.2)
  let b : Arb := { chan := (vc + 1) % 4, ports := tSet 0 a.ports vc ((inPort + 1) % 10) }
  { m with grid := { m.grid with arbs := tSet {} m.grid.arbs (1024 * p.1 + p.2) b } }

/-- A flit of the memory-response or remote-in channel goes its whole route, entering by `first`: each output on the way grants it
(R251 to R253). It takes its link credits as it goes and is never found in a buffer: a response sinks, a request is held by the
slot of its engine until its target takes it (log entry 99). -/
def Mod.travel (m : Mod) (vc first : Nat) (l : List Hop) : Mod :=
  (l.zip (first :: l.map Prod.snd)).foldl (fun (m : Mod) p => m.grantOut p.1 vc p.2) m

/-- The clock of a die runs (R271): its routers move what is in flight. -/
def Mod.dieClocks (m : Mod) (d : Nat) : Bool :=
  (if d = 0 then m.dieN else m.dieS).run == .running || (if d = 0 then m.dieN else m.dieS).run == .draining

/-- Flight i may take its next hop: it is first in its buffer, its router and the next are clocked, and the next buffer has an
entry free (R252, R268). -/
def Mod.mayHop (m : Mod) (i : Nat) : Bool :=
  let l := m.grid.flights
  let f := nth {} l i
  !f.there && m.dieClocks (hDie f.place.1) && m.dieClocks (hDie f.next.place.1) && !(l.take i).any (fun x => x.place = f.place) &&
    f.roomIn l

/-- How far the pointers of an output still are from a flight: by channel, and within a channel by input port (R253). -/
def Mod.turnOf (m : Mod) (f : Flight) : Nat :=
  let a := tGet {} m.grid.arbs (1024 * f.asks.1 + f.asks.2)
  10 * ((f.vc + 4 - a.chan) % 4) + (f.inPort + 10 - tGet 0 a.ports f.vc) % 10

/-- The flight an output grants: of those that may go by it, the one next in round-robin order (R253). -/
def Mod.granted (m : Mod) (o : Hop) : Option Nat :=
  (indices m.grid.flights).foldl (fun best i =>
    let f := nth {} m.grid.flights i
    if f.asks = o ∧ m.mayHop i = true then
      match best with
      | some j => if m.turnOf f < m.turnOf (nth {} m.grid.flights j) then some i else best
      | none => some i
    else best) none

/-- Flight i takes its hop. One of a tree that comes to a further split router of it enters the buffer there (R188). -/
def Mod.hopFlight (m : Mod) (i : Nat) : Mod :=
  let f := (nth {} m.grid.flights i).next
  match f.tree with
  | none => { m with grid := { m.grid with flights := setAt m.grid.flights i f } }
  | some (t, ks) =>
    match (m.tree t).nodeAt f.place.1 with
    | none => { m with grid := { m.grid with flights := setAt m.grid.flights i f } }
    | some n =>
      ({ m with grid := { m.grid with flights := m.grid.flights.take i ++ m.grid.flights.drop (i + 1) } }).enterNode t n f.tok.tok ks

/-- An output grants one flight, which takes its hop. -/
def Mod.hopOn (m : Mod) (o : Hop) : Mod :=
  match m.granted o with
  | none => m
  | some i =>
    let f := nth {} m.grid.flights i
    (m.grantOut o f.vc f.inPort).hopFlight i

/-- Every output of the mesh grants once. -/
def Mod.meshRound (m : Mod) : Mod :=
  ((((indices m.grid.flights).filter fun i => m.mayHop i).map fun i => (nth {} m.grid.flights i).asks).eraseDups).foldl Mod.hopOn m

/-- The mesh moves on until no flight may hop (log entry 99: when it moves is no command's own); as many rounds as hops are left are
enough. -/
def Mod.meshRounds : Nat → Mod → Mod
  | 0, m => m
  | n + 1, m => if (indices m.grid.flights).any m.mayHop then Mod.meshRounds n m.meshRound else m

/-- Hops that a flight has left, of a tree's those to every target that it serves. -/
def Mod.hopsLeft (m : Mod) (f : Flight) : Nat :=
  match f.tree with
  | none => f.hops.length - f.hop
  | some (t, ks) => (ks.map fun k =>
      let x := nth (0, false) (m.tree t).targets k
      (branchHops (qHearth f.tok.prod) x.1 x.2).length).sum

/-- Every flight goes as far as it can. -/
def Mod.meshOn (m : Mod) : Mod := Mod.meshRounds (m.grid.flights.map m.hopsLeft).sum m

end Sys2Proof.Machine
end

