-- ==== Sys2Proof/Machine/Firing.lean ====
section
/-! DEFINITION. Firing blocks, the queues' own events, waits inside a block (chapter 06: R173 to R190, R236). -/

namespace Sys2Proof.Machine

/-- Blocks of a core's program: first and last word or descriptor. -/
def Mod.blocks (m : Mod) (h core : Nat) : List (Nat × Nat) :=
  if core = 0 then mcBlocks (m.hearth h) (m.mc (cid h 0)).ndesc
  else if core < 5 then vcBlocks (m.vc (cid h core)).prog
  else scBlocks (m.sc (cid h core)).prog

/-- Declared counts of block b: per input queue, per output queue (R65, R74, R85, R120). -/
def Mod.counts (m : Mod) (h core b : Nat) : List Nat × List Nat :=
  let s := (nth (0, 0) (m.blocks h core) b).1
  if core = 0 then
    let d := (m.hearth h).desc s
    ([slice d 35 32, slice d 39 36, slice d 43 40, slice d 47 44], [slice d 51 48, slice d 55 52])
  else if core < 5 then
    let p := (m.vc (cid h core)).prog
    let w := (nth 0 p s).toNat
    let x := (nth 0 p (s + 1)).toNat
    ([slice w 25 22, slice w 21 18, slice w 17 14, slice w 13 10],
      [slice x 31 28, slice x 27 24, slice x 23 20, slice x 19 16])
  else
    let w := (nth 0 (m.sc (cid h core)).prog s).toNat
    ([slice w 25 22, slice w 21 18], [slice w 17 14, slice w 13 10])

/-- Condition 1 of R177: each input queue holds its declared count of takeable tokens in its router part. -/
def Mod.inputsMet (m : Mod) (h core : Nat) (l : List Nat) : Bool :=
  (List.range l.length).all fun q => decide (nth 0 l q ≤ (m.inq (qid (cid h core) q)).ready (m.hearth h).gen)

/-- What an output's room is taken from (R175, R177): the credits of a queue, whatever the route, of a tree or of a window. -/
def Bind.pool : Bind → Bind
  | .unicast q _ => .unicast q false
  | b => b

/-- Tokens that a block declares for what output q is bound to: outputs bound to one queue, tree or window share its credits
(R175). -/
def Mod.wants (m : Mod) (c : Nat) (l : List Nat) (q : Nat) : Nat :=
  let b := fun (k : Nat) => (m.outq (qid c k)).bind.pool
  (((List.range l.length).filter fun k => b k = b q).map fun k => nth 0 l k).sum

/-- Condition 2 of R177: each output queue has room for its declared count. -/
def Mod.roomMet (m : Mod) (h core : Nat) (l : List Nat) : Bool :=
  (List.range l.length).all fun q => nth 0 l q = 0 || m.roomFor (qid (cid h core) q) (m.wants (cid h core) l q)

/-- A source block: its input counts are all zero (R179). -/
def isSource (l : List Nat) : Bool := l.all (· = 0)

/-- Block b is ready (R177, R179). -/
def Mod.blockReady (m : Mod) (h core b : Nat) : Bool :=
  let k := m.counts h core b
  m.inputsMet h core k.1 && m.roomMet h core k.2 &&
    !(isSource k.1 && (m.ctl (cid h core)).srcDone.contains b)

/-- Room for every declared output count is reserved (R178). -/
def Mod.reserveAll (m : Mod) (c : Nat) (l : List Nat) : Mod :=
  (List.range l.length).foldl (fun m q => m.reserve (qid c q) (nth 0 l q)) m

/-- Report word of blocks started by the core's kind (R242). -/
def fireWord (core : Nat) : Nat := if core = 0 then 2 else if core < 5 then 1 else 0

/-- A block starts: room is reserved, the declared takes are available, the core stands at its BLK or TILE. -/
def Mod.startBlock (m : Mod) (h core b : Nat) : Mod :=
  let c := cid h core
  let k := m.counts h core b
  let m := (m.reserveAll c k.2).count h (fireWord core) 1
  let m := { m with pow := { m.pow with fires := m.pow.fires + 1 } }
  let ct := m.ctl c
  m.setCtl c { ct with phase := .started b, pc := (nth (0, 0) (m.blocks h core) b).1, takes := k.1, inCnt := k.1,
                       outCnt := k.2, srcDone := if isSource k.1 then ct.srcDone ++ [b] else ct.srcDone }

/-- Blocks in the order of the search: after the block last ended, wrapping round (R178). -/
def searchOrder (n : Nat) (last : Option Nat) : List Nat :=
  match last with
  | none => List.range n
  | some b => (List.range n).map fun i => (b + 1 + i) % n

/-- A live core outside a block. -/
def Mod.atRest (m : Mod) (h core : Nat) : Bool :=
  m.live h core && (m.ctl (cid h core)).phase == .idle && (m.ctl (cid h core)).wait == .none

/-- R178: in dataflow firing a core outside a block starts the first ready block. -/
def execBlockStart (h : BitVec 13) (core : BitVec 7) (s : State) : Host.Outcome State Fault Refusal :=
  lift (fun m =>
    let h := h.toNat
    let k := core.toNat
    if m.starts && m.atRest h k && !cStatic (m.imgOf h) then
      match (searchOrder (m.blocks h k).length (m.ctl (cid h k)).last).find? (m.blockReady h k) with
      | some b => m.startBlock h k b
      | none => m
    else m) s

/-- The static entry of SCHEDULE that names a core (R384): its schedule's hearth store address and entry count. -/
def staticOf (c : List Byte) (h core : Nat) : Option (Nat × Nat) :=
  ((cSched c).find? fun e => slice e 3 0 = 6 && slice e 16 4 = h && slice e 23 17 = core).map
    fun e => (slice e 40 24, slice e 49 41)

/-- Entry i of a core's schedule (R183), if it is within the tick's entries. -/
def Mod.schedEntry (m : Mod) (h core i : Nat) : Option Nat :=
  match staticOf (m.imgOf h) h core with
  | none => none
  | some (a, n) =>
    let w := fun k => leNat (mRead (m.hearth h).hs (a + 4 * k) 4)
    if i < n ∧ !((List.range i).any fun k => (w k).testBit 31) then some (w i) else none

/-- The firing unit's read of the schedule entry, a local requester's access (R41, R183; requester 3, log entry 24). -/
def Mod.schedRead (m : Mod) (h core : Nat) : Mod :=
  match staticOf (m.imgOf h) h core with
  | some (a, _) => m.setHearth h ((m.hearth h).grant (a + 4 * (m.ctl (cid h core)).sched) 3)
  | none => m

/-- R184: at a schedule entry's cycle the named block starts; an input count not met is SCHED_MISSING, room not
available SCHED_ROOM, a core still inside its previous block SCHED_LATE, the lowest code counting (R198). -/
def execSchedEntryStart (h : BitVec 13) (core : BitVec 7) (s : State) : Host.Outcome State Fault Refusal :=
  lift (fun m =>
    let h := h.toNat
    let k := core.toNat
    let c := cid h k
    if m.starts && m.live h k && cStatic (m.imgOf h) then
      match m.schedEntry h k (m.ctl c).sched with
      | none => m
      | some w =>
        let b := slice w 30 26
        let n := m.counts h k b
        let m := (m.schedRead h k).setCtl c { m.ctl c with sched := (m.ctl c).sched + 1 }
        if !m.inputsMet h k n.1 then m.raise h k 3 1
        else if !m.roomMet h k n.2 then m.raise h k 3 2
        else if !m.atRest h k then m.raise h k 3 3
        else m.startBlock h k b
    else m) s

/-- R180: a VSEGR, LOAD or DRAIN that waits inside its block goes on when data or room has come. -/
def execInblockWaitResume (h : BitVec 13) (core : BitVec 7) (s : State) : Host.Outcome State Fault Refusal :=
  lift (fun m =>
    let h := h.toNat
    let k := core.toNat
    let c := cid h k
    if !m.live h k then m
    else if k = 0 then m.mcPump h
    else match (m.ctl c).wait with
      | .segr rows sent =>
        let w := nth 0 (m.vc c).prog (m.ctl c).pc
        segGo { m := m, h := h, core := k, c := c, w := w.toNat } m rows sent
      | _ => m) s

/-- The first token in flight of a producer to a queue, with those before it and behind it (R176). -/
def takeFlight (prod q : Nat) (l : List Flight) : Option (List Flight × Flight × List Flight) :=
  let i := l.findIdx fun f => f.target = q && f.tok.prod = prod
  match l[i]? with
  | some f => some (l.take i, f, l.drop (i + 1))
  | none => none

/-- A token at the end of its way: at a gateway it joins those that wait for a batch of its window (R391), at its queue it enters or
is dropped as stale (R237); one of a tree is counted at its target (R189). -/
def Mod.land (m : Mod) (f : Flight) : Mod :=
  if isGate f.target then
    let w := f.target - prodRem 0
    let x := tGet {} m.rem.out w
    { m with rem := { m.rem with out := tSet {} m.rem.out w { x with waiting := x.waiting ++ [f.tok.tok] } } }
  else
    let m := match f.tree with
      | none => m
      | some (t, ks) =>
        let tr := m.tree t
        let k := ks.headD 0
        m.setTree t { tr with entered := setAt tr.entered k (nth 0 tr.entered k + 1) }
    m.arrive f.target f.tok

/-- R173, R237, R253: the mesh moves, and the oldest token in flight from a producer, once it is at its queue's router and first in
its link buffer there (a token within one hearth goes through the crossbar, R34), enters the queue, or is dropped as stale; one for
another module enters its window at the gateway. Nothing arrives on a stopped die (R268). -/
def execTokenArrival (prod q : Nat) (s : State) : Host.Outcome State Fault Refusal :=
  lift (fun m =>
    let m := m.meshOn
    match takeFlight prod q m.grid.flights with
    | none => m
    | some (pre, f, post) =>
      if !f.there || !m.dieClocks (hDie f.place.1) || (f.hop ≠ f.start && pre.any (fun x => x.place = f.place)) then m
      else (({ m with grid := { m.grid with flights := pre ++ post } }).grantOut f.asks f.vc f.inPort).land f) s

/-- R174: the oldest spilled token moves into a freed entry of the router part; its bytes come from the hearth store. -/
def execSpillRefill (q : Nat) (s : State) : Host.Outcome State Fault Refusal :=
  lift (fun m =>
    let x := m.inq q
    match x.spill with
    | t :: rest =>
      if x.router.length < 16 then
        let p := m.spillAddr q (x.spillNo - x.spill.length)
        let hh := (m.hearth (qHearth q)).count 25 68
        let tok := Token.ofHdr (mWord hh.hs p.2) (mWords hh.hs p.1 t.tok.words.length)
        (m.setHearth (qHearth q) hh).setInq q { x with router := x.router ++ [{ t with tok := tok }], spill := rest }
      else m
    | [] => m) s

/-- R175: a credit reaches its producer after a take. -/
def execCreditReturn (q : Nat) (s : State) : Host.Outcome State Fault Refusal :=
  lift (fun m =>
    let x := m.inq q
    if 0 < x.back then m.setInq q { x with back := x.back - 1, credit := x.credit + 1 } else m) s

/-- R189: a tree credit returns when a token has entered every target queue of the tree. -/
def execTreeCreditReturn (t : Nat) (s : State) : Host.Outcome State Fault Refusal :=
  lift (fun m =>
    let tr := m.tree t
    if (tr.entered.all fun n => decide (tr.ret < n)) && !tr.entered.isEmpty then
      m.setTree t { tr with ret := tr.ret + 1, credit := tr.credit + 1 }
    else m) s

/-- R188: a split router forwards what it owes on branches whose credit has returned. -/
def execReplicationForward (t node : Nat) (s : State) : Host.Outcome State Fault Refusal :=
  lift (fun m => if node < (m.tree t).nodes.length then m.forwardNode t node else m) s

/-- R236: a marker at the head of a queue's router part is removed; the producer it came from is noted. -/
def execMarkerRemove (q : Nat) (s : State) : Host.Outcome State Fault Refusal :=
  lift (fun m =>
    let x := m.inq q
    match x.router with
    | t :: rest =>
      if t.tok.isMarker && t.tok.gen == (m.hearth (qHearth q)).gen then
        m.setInq q { x with router := rest, back := x.back + 1, markers := x.markers ++ [t.prod] }
      else m
    | [] => m) s

end Sys2Proof.Machine
end

