-- ==== Sys2Proof/Machine/Install.lean ====
section
/-! DEFINITION. Installation of a cord on hearths (R206 to R214, R221), the step parameter entries (R337, R339), the return to the last commit (R594), voids (R226, R371), the abandonment of a step (R226), restart votes (R413), the start of an attempt (R386). -/

namespace Sys2Proof.Machine

/-! ### Programs of a cord -/

/-- Words of image n of a cord (R206), with its kind. -/
def imageOf (c : List Byte) (n : Nat) : Nat × List Word :=
  let s := cSect c 1
  let e := leNat ((s.drop (16 * n)).take 16)
  (slice e 3 0, bytesWords (slice e 25 16) (s.drop (slice e 63 32)))

/-- Entries of the SEQUENCER section (R213). -/
def seqEnts (c : List Byte) : List Nat := cRecs c 7 16

/-- Descriptor bytes of sequencer program n (R213), with their number. -/
def seqProg (c : List Byte) (n : Nat) : Nat × List Byte :=
  match (seqEnts c).find? (fun e => slice e 3 0 = 1 && slice e 15 4 = n) with
  | some e => (slice e 24 16, ((cSect c 7).drop (slice e 63 32)).take (16 * slice e 24 16))
  | none => (0, [])

/-- Tile sets of the blocks of a program, in block order (R213). -/
def tileSets (c : List Byte) (n : Nat) : List Nat :=
  let es := (seqEnts c).filter fun e => slice e 3 0 = 2 && slice e 15 4 = n
  (List.range es.length).map fun b =>
    match es.find? (fun e => slice e 20 16 = b) with
    | some e => slice e 25 21
    | none => 0

/-! ### Installation on hearths -/

/-- A table without the keys that a test selects. -/
def tDrop {α : Type} (p : Nat → Bool) (t : Tbl α) : Tbl α := t.filter fun e => !p e.1

/-- The keys of the grid's tables that belong to selected hearths are emptied: cores, queues, trees whose source lies there,
tokens on their way there (R594 action 3). Vector cores keep STEP_HELD_CNT and the arithmetic status word, matrix cores their
status word (R132, R164, R345). -/
def Mod.emptyHearths (m : Mod) (sel : Nat → Bool) : Mod :=
  let g := m.grid
  let vcs := g.vcs.map fun p => if sel (p.1 / 128) then (p.1, { held := p.2.held, st := p.2.st : VcSt }) else p
  let mcs := g.mcs.map fun p => if sel (p.1 / 128) then
    (p.1, { fault := p.2.fault, intOvf := p.2.intOvf, nonfin := p.2.nonfin, emptyRed := p.2.emptyRed : McSt }) else p
  { m with grid := { g with
      ctls := tDrop (fun c => sel (c / 128)) g.ctls
      scs := tDrop (fun c => sel (c / 128)) g.scs
      vcs := vcs.filter fun p => p.2 ≠ {}
      mcs := mcs.filter fun p => p.2 ≠ {}
      inqs := tDrop (fun q => sel (qHearth q)) g.inqs
      outqs := tDrop (fun q => sel (qHearth q)) g.outqs
      trees := g.trees.filter fun t => !sel (qHearth t.2.src)
      flights := g.flights.filter fun f => !sel (qHearth f.target) } }

/-- The arithmetic status words of selected hearths are cleared, as an installation does (R164). -/
def Mod.clearArith (m : Mod) (sel : Nat → Bool) : Mod :=
  let vcs := m.grid.vcs.map fun p => if sel (p.1 / 128) then (p.1, { p.2 with st := 0 }) else p
  { m with grid := { m.grid with vcs := vcs.filter fun p => p.2 ≠ {} } }

/-- One region entry (R208). -/
def Mod.putRegion (m : Mod) (sel : Nat → Bool) (e : Nat) : Mod :=
  let h := slice e 12 0
  if sel h then
    let x := m.hearth h
    m.setHearth h { x with regions := x.regions ++
      [{ kind := slice e 19 16, base := slice e 48 32, len := slice e 81 64 }] }
  else m

/-- One window entry (R209). -/
def Mod.putWindow (m : Mod) (sel : Nat → Bool) (e : Nat) : Mod :=
  let h := slice e 12 0
  if sel h then
    let x := m.hearth h
    m.setHearth h { x with windows := tSet 0 x.windows (slice e 19 16) (BitVec.ofNat 128 (slice e 255 128)) }
  else m

/-- One placement entry (R207): program memory, or the sequencer program copied to the start of the SEQUENCER region. -/
def Mod.putCore (m : Mod) (c : List Byte) (sel : Nat → Bool) (e : Nat) : Mod :=
  let h := slice e 12 0
  let k := slice e 22 16
  let n := slice e 47 32
  if sel h then
    let id := cid h k
    let m := m.setCtl id { placed := true, image := n }
    if k = 0 then
      let p := seqProg c n
      let m := m.setMc id { m.mc id with ndesc := p.1, tsets := tileSets c n }
      match (m.hearth h).region? 1 with
      | some r => m.hsPut h r.base p.2
      | none => m
    else if k < 5 then m.setVc id { m.vc id with prog := (imageOf c n).2 }
    else m.setSc id { m.sc id with prog := (imageOf c n).2 }
  else m

/-- One queue entry (R210). An input queue grants its whole depth as credit (R175). -/
def Mod.putQueue (m : Mod) (sel : Nat → Bool) (e : Nat) : Mod :=
  let h := slice e 16 4
  let q := qid (cid h (slice e 23 17)) (slice e 25 24)
  if sel h then
    if slice e 3 0 = 1 then
      m.setInq q { depth := slice e 40 32, staged := bitAt e 26, credit := 16 + slice e 40 32 }
    else
      let b := match slice e 27 26 with
        | 1 => Bind.unicast (qid (cid (slice e 44 32) (slice e 51 45)) (slice e 53 52)) (bitAt e 28)
        | 2 => Bind.tree (slice e 79 64)
        | 3 => Bind.remote (slice e 79 64)
        | _ => Bind.none
      m.setOutq q { bind := b }
  else m

/-- Trees whose source is a selected hearth (R211), keyed by generation and number. -/
def Mod.putTrees (m : Mod) (c : List Byte) (sel : Nat → Bool) (gen : Nat) : Mod :=
  let recs := cRecs c 6 16
  let src := (cRecs c 5 16).filter fun e => slice e 3 0 = 2 && slice e 27 26 = 2 && sel (slice e 16 4)
  src.foldl (fun m e =>
    let q := qid (cid (slice e 16 4) (slice e 23 17)) (slice e 25 24)
    let t := slice e 79 64
    let ts := treeTargets recs t
    let m := m.setTree (4096 * gen + t)
      { src := q, targets := ts, entered := List.replicate ts.length 0, nodes := splitNodes (qHearth q) ts }
    m.setOutq q { m.outq q with bind := .tree (4096 * gen + t) }) m

/-- The schedules of static firing, copied to the hearth store (R183, R384). -/
def Mod.putStatic (m : Mod) (c : List Byte) (sel : Nat → Bool) (e : Nat) : Mod :=
  if slice e 3 0 = 6 && sel (slice e 16 4) then
    m.hsPut (slice e 16 4) (slice e 40 24) (((cSect c 8).drop (slice e 95 64)).take (4 * slice e 49 41))
  else m

/-- DATA entries (R214). -/
def Mod.putData (m : Mod) (c : List Byte) (sel : Nat → Bool) (e : Nat) : Mod :=
  if sel (slice e 16 4) then
    m.hsPut (slice e 16 4) (slice e 33 17) (((cSect c 0x14).drop (slice e 127 96)).take (slice e 95 64))
  else m

/-- A parameter record of a tensor (R340 ETYPE 3). -/
def Mod.tensorRec (m : Mod) (t : Nat) : Nat :=
  ((m.params.find? fun e => slice e 3 0 = 3 && slice e 31 16 = t)).getD 0

/-- The loader's fields of a step parameter entry (R337): tensor, MRM, shard key, betas, EPS, WD; the collier's are 0. -/
def entryLoader (tensor rec key : Nat) : Nat :=
  let b1 := slice rec 159 128
  let b2 := slice rec 191 160
  let one : Word := 0x3F800000#32
  let om := fun (b : Nat) => (f32sub one (BitVec.ofNat 32 b)).toNat
  tensor + 2 ^ 17 * slice rec 35 34 + 2 ^ 32 * key + 2 ^ 160 * b1 + 2 ^ 192 * om b1 + 2 ^ 224 * b2 + 2 ^ 256 * om b2 +
    2 ^ 288 * slice rec 223 192 + 2 ^ 320 * slice rec 255 224

/-- Shard key with the seed of the job (R339). -/
def Mod.keyOf (m : Mod) (sh : Nat) : Nat :=
  match m.train.seed with
  | some s => (BitVec.ofNat 32 (shKey sh) ^^^ s).toNat
  | none => shKey sh

/-- The places of step parameter entries: PARAMS placements, and the replay entries of mirror shards (R340, R399, R409):
hearth, address, tensor, SHARDS entry. -/
def Mod.entryPlaces (m : Mod) : List (Nat × Nat × Nat × Nat) :=
  (m.params.filter fun e => slice e 3 0 = 4).map (fun e =>
    (slice e 16 4, slice e 33 17, slice e 49 34, nth 0 m.shards (slice e 81 50))) ++
  (m.mirrors.filter fun e => slice e 4 4 = 0).map (fun e =>
    let sh := nth 0 m.shards0 (slice e 47 16)
    (slice e 260 248, slice e 277 261, shTensor sh, sh))

/-- The loader writes the step parameter entries of selected hearths. -/
def Mod.putEntries (m : Mod) (sel : Nat → Bool) : Mod :=
  m.entryPlaces.foldl (fun m p =>
    if sel p.1 then m.hsPut p.1 p.2.1 (leBytes 64 (entryLoader p.2.2.1 (m.tensorRec p.2.2.1) (m.keyOf p.2.2.2))) else m) m

/-- VALID is cleared in every entry (R338). -/
def Mod.clearValid (m : Mod) : Mod :=
  m.entryPlaces.foldl (fun m p =>
    let a := p.2.1 + 2
    let b := (mGet (m.hearth p.1).hs a) &&& 0xF7#8
    m.hsPut p.1 a [b]) m

/-- The hearths that a cord places (R207). -/
def cPlaced (c : List Byte) : List Nat := ((cRecs c 2 8).map fun e => slice e 12 0).eraseDups

/-- Resets a hearth's own state and gives it a generation: regions, windows, requests, stall counter, bank pointers (R41, R221,
R594). -/
def Mod.clearHearth (m : Mod) (gen : BitVec 2) (h : Nat) : Mod :=
  let x := m.hearth h
  m.setHearth h { x with regions := [], windows := [], reqs := [], stall := 0, gen := gen, sync := [], syncPrev := [],
                         urgent := false, stopped := false, c2 := 0, c3 := [] }

/-- Of a hearth's status word what the journal keeps (R62, R492). -/
def Hearth.kept (x : Hearth) : Hearth := { passes := x.passes, ce := x.ce, cause := x.cause, addrFlt := x.addrFlt }

/-- A hearth whose arrays are cleared: its status word, scrub pointer, generation and bank pointers stand. -/
def Hearth.cleared (x : Hearth) : Hearth :=
  { scrub := x.scrub, passes := x.passes, ce := x.ce, cause := x.cause, addrFlt := x.addrFlt, gen := x.gen, c2 := x.c2, c3 := x.c3 }

/-- The arrays of the selected hearths are cleared. -/
def Mod.clearArrays (m : Mod) (sel : Nat → Bool) : Mod :=
  let hs := m.grid.hearths.map fun p => if sel p.1 then (p.1, p.2.cleared) else p
  { m with grid := { m.grid with hearths := hs.filter fun p => p.2 ≠ {} } }

/-- A cord installed on the selected hearths, with a generation (R221). A hearth that only an earlier cord used is parked: nothing
of that cord stays declared there. -/
def Mod.installOn (m : Mod) (c : List Byte) (gen : BitVec 2) (sel : Nat → Bool) : Mod :=
  let m := (m.emptyHearths sel).clearArith sel
  let m := (((cPlaced c ++ m.grid.hearths.map Prod.fst).eraseDups).filter sel).foldl (fun m h => m.clearHearth gen h) m
  let m := (cRecs c 3 16).foldl (fun m e => m.putRegion sel e) m
  let m := (cRecs c 4 32).foldl (fun m e => m.putWindow sel e) m
  let m := (cRecs c 2 8).foldl (fun m e => m.putCore c sel e) m
  let m := (cRecs c 5 16).foldl (fun m e => m.putQueue sel e) m
  let m := m.putTrees c sel gen.toNat
  let m := (cSched c).foldl (fun m e => m.putStatic c sel e) m
  let m := (cRecs c 0x14 16).foldl (fun m e => m.putData c sel e) m
  m.putEntries sel

/-! ### Return to the last commit -/

/-- Pending images of the step are discarded and their slots freed (R316). -/
def Mod.dropPending (m : Mod) : Mod :=
  { m with peat := { m.peat with slots := m.peat.slots.filter (fun p => !p.2.pending) } }

/-- A step's exchange state is forgotten; held messages, credits, VOIDs that wait and counters stay (R368). -/
def ExchSt.forget (x : ExchSt) : ExchSt :=
  { x with open' := [], toSend := [], words := [], got := [], flags := [], samples := [], made := [], sums := [],
           sumsOut := [], waiting := x.waiting.filter (fun p => p.2.kind = 4), fails := [], fwd := [] }

/-- The attempt's part of the cluster state is forgotten. -/
def ClusSt.forget (x : ClusSt) : ClusSt :=
  { x with own := none, votes := [], voteSent := false, outcome := none, mgrad := [], msums := [], mack := false,
           mackSent := false }

/-- The module without an installed cord (R216, R240, R480): its slot and its successor's read empty, the hearths are empty,
sessions with peers end, pairing and the partition are gone. HBM contents, counters and the dump records (R194) stay. -/
def Mod.uninstall (m : Mod) : Mod :=
  let used := m.cord.inst.toList ++ m.cord.succ.toList
  let hs := m.grid.hearths.map Prod.fst
  let m := m.emptyHearths (fun _ => true)
  let m := hs.foldl (fun m h => m.clearHearth 0 h) m
  let c := m.cord
  let c := { slot0 := if used.contains 0 then {} else c.slot0, slot1 := if used.contains 1 then {} else c.slot1,
             load := c.load, dumps := c.dumps : CordSt }
  let k := m.clus
  let k := { k with part := 0, lost := [], pair := .unpaired, helloOut := false, hello := none, pairFail := none,
                    shared := false, beats := [], votes := [], own := none, outcome := none, stateDue := [], stateIn := [],
                    holdV := [], repair := false, redist := false, digOwn := [], digPeer := [], digDue := false, held := [],
                    errs := [], departed := false, lossDue := [], rewrite := [], fresh := false, repl := false, ids := [],
                    ckpt := none, ckptEnts := [], ckptFrom := [], ckptOwn := none, sent := [], gain := [], hands := [],
                    stateNow := [], digNow := false }
  let t := { m.train with running := false, startAt := none, asked := false, stopAt := 0, stop := none, abort := false,
                          owed := none, flipDue := none, seed := none, audited := none }
  { m with cord := c, clus := k, train := t, sec := { m.sec with sess := [] },
           eth := { m.eth with qps := m.eth.qps.filter fun p => p.2.rank.isNone }, tick := { m.tick with us := 500 },
           flt := { m.flt with frozen := false }, exch := { m.exch.forget with held := [], waiting := [], used := [], freed := [], rxAt := [] }, rem := { stale := m.rem.stale },
           hbm := { m.hbm with moves := [], capture := none } }

/-- The last step of a cord has committed (R241, R384). -/
def Mod.lastDone (m : Mod) (c : List Byte) : Bool := cLastStep c != 0 && decide (cLastStep c ≤ m.train.last) && m.train.haveState

/-- Puts a staging slot in place. -/
def Mod.setSlot (m : Mod) (n : Nat) (x : CSlot) : Mod :=
  { m with cord := if n = 0 then { m.cord with slot0 := x } else { m.cord with slot1 := x } }

/-- R_Keys of the HOSTVIS entries are drawn afresh (R452). -/
def Mod.newRkeys (m : Mod) : Mod :=
  let n := cCount m.img 0xF
  (List.range n).foldl (fun (m : Mod) i =>
    let d := m.draw 32
    { d.2 with eth := { d.2.eth with rkeys := tSet 0 d.2.eth.rkeys i (BitVec.ofNat 32 d.1) } })
    { m with eth := { m.eth with rkeys := [] } }

/-- A prefetch entry (R312) at place j of ring q. -/
def Mod.ringAddr (m : Mod) (q j : Nat) : Nat := m.stageBase + 16384 + 8 * m.listEnts * q + 8 * j

/-- Every entry of the prefetch rings is null at an installation (R312). -/
def Mod.nullRings (m : Mod) : Mod :=
  if cPeat m.img then
    (List.range (4 * m.listEnts)).foldl (fun m j => m.hbmPut (m.ringAddr 0 j) (leBytes 8 0x7FFFFFFF)) m
  else m

/-- The slots of the tier under a successor (R217, R309): where its PEAT_STAGE region lies otherwise, dirty turves and pending images
take its first slots, a turf in flight waits for a slot again, and clean turves stay in flash alone. -/
def Mod.rehome (m : Mod) : Mod :=
  if !cPeat m.img || m.peat.slots.all fun p => decide (p.1 < m.nslots) && p.2.addr = m.slotAddr p.1 then m
  else
    let keep := (m.peat.slots.filter fun p => p.2.dirty || p.2.pending).map Prod.snd
    let wait := (m.peat.slots.filter fun p => !p.2.landed).filterMap fun p => p.2.turf.map fun t => (t, p.2.demand, p.2.listed)
    let imgs := keep.map fun x => m.hbmRaw x.addr 16384
    let new := (indices keep).map fun i => (i, { nth {} keep i with addr := m.slotAddr i })
    let m := { m with peat := { m.peat with slots := new, waitQ := wait ++ m.peat.waitQ } }
    (indices imgs).foldl (fun m i => m.hbmPut (m.slotAddr i) (nth [] imgs i)) m

/-- TICK_KEPT: a successor keeps its predecessor's period (R376). -/
def Mod.tickKept (m : Mod) : Mod := if cTickUs m.img ≠ m.tick.us then m.event 0x8109 m.tick.us 0 else m

/-- The successor is the installed cord (R216, R240, R312, R376, R452): the predecessor's slot reads empty, dump records are
cleared, its regions have R_Keys of their own and its prefetch rings are empty. -/
def Mod.takeOver (m : Mod) : Mod :=
  match m.cord.succ, m.cord.inst with
  | some n, some o =>
    let m := m.setSlot o {}
    let m := { m with cord := { m.cord with inst := some n, succ := none, switched := [], holdOff := none,
                                            gen := m.cord.gen + 1, rnd := m.cord.succRnd, dumps := [] }
                      train := { m.train with pressure := false, stopAt := 0 } }
    ((((m.event 0x8101 n (cId m.img)).newRkeys).rehome).nullRings).tickKept
  | _, _ => m

/-- Which cord the hearths take when a switch meets a return to the last commit (R241): the successor once the predecessor's
last step has committed, else the predecessor, and the switch begins again when the step in hand commits. -/
def Mod.settleSwitch (m : Mod) : Mod :=
  if m.cord.succ.isSome && m.lastDone m.img then m.takeOver
  else { m with cord := { m.cord with switched := [], holdOff := if m.cord.succ.isSome then some m.train.step else none } }

/-- Batches held for a later step or attempt outlive an attempt (R393). -/
def RemSt.keptIn (x : RemSt) : Tbl RemIn :=
  (x.inb.map (fun (p : Nat × RemIn) => (p.1, ({ held := p.2.held } : RemIn)))).filter (fun p => !p.2.held.isEmpty)
def RemSt.keptOut (x : RemSt) : Tbl RemOut :=
  (x.out.map (fun (p : Nat × RemOut) => (p.1, ({ held := p.2.held } : RemOut)))).filter (fun p => !p.2.held.isEmpty)

/-- The return to the last commit (R594): the attempt's work is discarded, every hearth of the cord is reset as at
installation, queues and requests are empty. After a commit vote not yet followed by its flip, what that flip needs is kept
(R413). -/
def Mod.returnToCommit (m : Mod) : Mod :=
  let m := m.settleSwitch
  let m := m.installOn m.img m.cord.gen (fun _ => true)
  let m := if m.train.owed.isSome then m else m.dropPending
  let m := { m with exch := m.exch.forget, clus := m.clus.forget,
                    rem := { m.rem with out := m.rem.keptOut, inb := m.rem.keptIn, gathers := [] },
                    hbm := { m.hbm with moves := [], wrote := [] }, flt := { m.flt with frozen := false } }
  let m := m.clearValid
  let t := m.train
  { m with train := { t with running := false, startAt := none, voted := false, andOk := false, andDue := false, flipDue := none,
                             stepVcs := if t.owed.isSome then t.stepVcs else [],
                             decided := if t.owed.isSome then t.decided else [],
                             nfSkip := t.owed.isSome && t.nfSkip } }

/-- Adds a vote of its own (R412). -/
def Mod.castVote (m : Mod) (vkind : Nat) (last : Nat) : Mod :=
  let x := { m.clMsg 2 with vkind := vkind, nfSkip := m.train.nfSkip, cover := 1, last := last,
                            tick := m.tick.cnt.toNat + slice m.schedHdr 15 12 }
  { m with clus := { m.clus with own := some x, voteSent := false } }

/-- The aggregate of the module's own vote and its children's (R412). -/
def aggregate (own : ClMsg) (vs : List ClMsg) : ClMsg :=
  vs.foldl (fun a v =>
    { a with vkind := if a.vkind = 2 ∨ v.vkind = 2 then 2 else a.vkind, cover := a.cover + v.cover,
             nfSkip := a.nfSkip || v.nfSkip, tick := Nat.max a.tick v.tick, last := Nat.max a.last v.last }) own

/-- The votes of all children are held. -/
def Mod.haveVotes (m : Mod) : Bool := m.children.all fun r => m.clus.votes.any fun v => v.sender = r

/-- Two messages are the same vote round: they carry one partition. -/
def samePart (p : Nat) (vs : List ClMsg) : Bool := vs.all fun v => v.part = p

/-- Sends the aggregated VOTE to the parent once own vote and children's votes are held, unless a loss is still to be acted on (R423);
the root, once COVER counts every
participating rank under one partition, holds the OUTCOME (R412). -/
def Mod.pumpVotes (m : Mod) : Mod :=
  match m.clus.own with
  | none => m
  | some own =>
    if m.clus.voteSent || !m.haveVotes || !m.clus.lossDue.isEmpty then m
    else
      let a := { aggregate own m.clus.votes with sender := m.self }
      match m.parent? with
      | some p => ({ m with clus := { m.clus with voteSent := true } }).sendCl p { a with kind := 2 }
      | none =>
        if a.cover = m.ranks.length && samePart m.clus.part m.clus.votes then
          { m with clus := { m.clus with voteSent := true, outcome := some { a with kind := 3, ckpt := false } } }
        else m

/-- A module that is to be handled as lost (R59, R299, R322): it departs and stops its cord (log entry 34). -/
def Mod.loseSelf (m : Mod) (code : Nat) : Mod := m.depart.stopAtEnd code false

/-- The next attempt begins at the outcome's start tick; a module that learns of it too late is handled as lost (R386). -/
def Mod.startFrom (m : Mod) (t : Nat) : Mod :=
  if t ≤ m.tick.cnt.toNat then m.loseSelf 0x8504 else { m with train := { m.train with startAt := some t } }

/-- The root sends the OUTCOME of its own restart or abort vote to its children and acts on it (R412, R413). A commit that
another module has flipped already is flipped here at the boundary that comes next. -/
def Mod.rootOutcome (m : Mod) (o : ClMsg) : Mod :=
  let m := m.children.foldl (fun m r => m.sendCl r { o with sender := m.self }) m
  if o.vkind = 2 then ({ m with train := { m.train with abort := true } }).stopAtEnd 0x8103 false
  else
    let m := match m.train.owed with
      | none => m
      | some n =>
        if m.train.last < o.last then
          { m with train := { m.train with flipDue := some n, nfSkip := o.nfSkip || m.train.nfSkip, ckptDue := false } }
        else
          let m := m.dropPending
          { m with train := { m.train with owed := none, decided := [], nfSkip := false } }
    m.startFrom o.tick

/-- A restart or abort vote is cast and joins the votes held; where this completes them at the root, the OUTCOME follows. -/
def Mod.castOwn (m : Mod) (vkind last : Nat) : Mod :=
  let had := m.clus.outcome.isSome
  let m := (m.castVote vkind last).pumpVotes
  match m.clus.outcome with
  | some o => if had then m else m.rootOutcome o
  | none => m

/-- The restart vote cast after a return to the last commit (R413). -/
def Mod.restartVote (m : Mod) : Mod := m.castOwn 3 m.train.last

/-- Ranks other than SELF that are members of SELF's groups (R359), and the credit that one sender has at a receiver (R361):
an equal share of RXSLOTS (log entry 43: of the sender's own section). -/
def Mod.exPeers (m : Mod) : List Nat :=
  let ms := m.buckets.filter fun e => slice e 3 0 = 3
  let gs := ((ms.filter fun e => slice e 39 28 = m.self).map fun e => slice e 15 4).eraseDups
  ((ms.filter fun e => gs.contains (slice e 15 4)).map fun e => slice e 39 28).eraseDups.filter (· ≠ m.self)

def Mod.exShare (m : Mod) : Nat := slice (m.buckets.headD 0) 59 44 / Nat.max 1 m.exPeers.length

/-- An exchange message that waits for the next exchange slot (R381). -/
def Mod.queueEx (m : Mod) (r : Nat) (x : ExMsg) : Mod := { m with exch := { m.exch with waiting := m.exch.waiting ++ [(r, x)] } }

/-- A message to a rank may go out: the session is open, none to it waits, and it has a credit (R361, R508). -/
def Mod.mayEx (m : Mod) (r : Nat) : Bool :=
  (m.msess r).open' && !m.exch.waiting.any (·.1 = r) && decide (tGet 0 m.exch.used r < m.exShare)

/-- In an exchange slot: a message to a rank takes a credit, or waits for one behind those that wait already (R361). -/
def Mod.sendEx (m : Mod) (r : Nat) (x : ExMsg) : Mod :=
  let u := tGet 0 m.exch.used r
  if !m.mayEx r then
    { m with exch := { m.exch with waiting := m.exch.waiting ++ [(r, x)] } }
  else
    let m := { m with exch := { m.exch with used := tSet 0 m.exch.used r (u + 1),
                                            tx := m.exch.tx + if x.kind = 1 then 1 else 0 } }
    m.sendTo r 0 x.bytes

/-- VOID to every participating module, when a bucket of the step has reached its exchange tick here (R371). -/
def Mod.sendVoid (m : Mod) : Mod :=
  if m.exch.open'.isEmpty then m
  else
    let x : ExMsg := { kind := 4, sender := m.self, attempt := m.train.attempt, step := m.train.step }
    (m.ranks.filter (· ≠ m.self)).foldl (fun m r => m.queueEx r x) m

/-- Abandons the step (R226): an abort vote on the sync tree and across the cluster, the cord stops at the end of the tick. -/
def Mod.abandon (m : Mod) (code : Nat) : Mod :=
  let m := { m with train := { m.train with abort := true } }
  (m.stopAtEnd code false).castOwn 2 0

/-- Microbatches voided in the step, each counted once (R226). -/
def Mod.addVoids (m : Mod) (mbs : List Nat) : Mod :=
  let new := (mbs.eraseDups).filter fun b => !m.train.voided.contains b
  { m with train := { m.train with voided := m.train.voided ++ new, voidCnt := m.train.voidCnt + new.length } }

/-- Above VOID_LIMIT the step is abandoned (R226). The event names the first tensor counted in the step, 0 where none was. -/
def Mod.checkVoids (m : Mod) : Mod :=
  if cVoidLimit m.img < m.train.voidCnt && !m.train.abort then
    (m.event 0x8103 (m.train.voidTen.getD 0) m.train.step).abandon 0x8103
  else m

/-- Microbatches voided, and the limit checked (R226). -/
def Mod.voidMbs (m : Mod) (mbs : List Nat) (tensor : Nat) : Mod :=
  let m := { m with train := { m.train with voidTen := some (m.train.voidTen.getD tensor) } }
  (m.addVoids mbs).checkVoids

/-- Event of each fault record that the collier has not acted on, which the journal takes up (R199, R483). -/
def Mod.faultEvents (m : Mod) : Mod :=
  let go := fun (m : Mod) (i : Nat) =>
    match m.flt.recs[i]? with
    | some r => m.event 0x8201 (r.cls + 16 * r.code) (m.flt.seen + i)
    | none => m
  (indices m.flt.recs).foldl go m

/-- The microbatches that the step's faults void, as each found them: of a STALL those of every stage in the dump region (R196). -/
def Mod.faultMbs (m : Mod) : List Nat := m.flt.recs.flatMap (·.mbs)

/-- The collier acts on the faults recorded in the step: their events, and their microbatches are voided in the rerun (R196, R198).
After the commit vote they wait for the step that they belong to (R198). -/
def Mod.takeFaults (m : Mod) : Mod :=
  if m.train.voted then m
  else
    let m := m.faultEvents
    let m := m.addVoids m.faultMbs
    { m with flt := { m.flt with recs := [], hit := false, seen := m.flt.made } }

/-- An attempt of the step has begun and its number stands for it (R368). -/
def Mod.inAttempt (m : Mod) : Bool := m.train.running || m.train.voted

/-- A rerun of the step is to follow: the attempt number rises by 1 where an attempt of that number has begun (R368). -/
def Mod.nextAttempt (m : Mod) (was : Bool) : Mod :=
  { m with train := { m.train with attempt := if was then (m.train.attempt + 1) % 16 else m.train.attempt, nowWaive := true } }

/-- The step is voided on the module (R196, R246, R296): its faults are acted on, VOID goes where it is due, the return, the attempt
raised by 1. -/
def Mod.voidCore (m : Mod) (tell : Bool) : Mod :=
  let was := m.inAttempt
  let m := m.takeFaults
  let m := if tell then m.sendVoid else m
  let m := m.returnToCommit.nextAttempt was
  { m with train := { m.train with rerun := true }, flt := { m.flt with rerun := true } }

/-- The step voided and rerun from the last commit: above VOID_LIMIT it is abandoned (R226), else a restart vote follows. -/
def Mod.voidRerun (m : Mod) (tell : Bool) : Mod :=
  let m := (m.voidCore tell).checkVoids
  if m.train.abort then m else m.restartVote

/-- The stop of a rerun that meets a fault again (R197). -/
def Mod.rerunStop (m : Mod) (code : Nat) : Mod := m.enterFault code

/-- A voided step is rerun, unless a fault of its rerun stops the cord (R197). -/
def Mod.voidStep (m : Mod) (tell : Bool) : Mod :=
  if m.flt.hit && !m.train.voted then m.takeFaults.rerunStop 0x1121 else m.voidRerun tell

/-! ### The start of an attempt -/

/-- Step words to the STEP_WORD region of every placed hearth that declares one (R343). -/
def Mod.stepWords (m : Mod) : Mod :=
  let w := leBytes 8 m.train.step ++ wBytes m.train.ls ++ leBytes 4 (b2n m.hbm.side)
  m.placed.foldl (fun m h => match (m.hearth h).region? 9 with
    | some r => m.hsPut h r.base w
    | none => m) m

/-- Window numbers of one direction (R390). -/
def Mod.remWins (m : Mod) (inbound : Bool) : List Nat := m.remotes.filter fun e => slice e 3 0 = 1 && bitAt e 4 = inbound

/-- The attempt begins: schedule tick 0, remote windows hold SLOTS credits (R392), SEQ counts afresh (R393), step words are
broadcast (R343). -/
def Mod.startAttempt (m : Mod) : Mod :=
  let out := (m.remWins false).foldl (fun t e =>
    tSet {} t (slice e 20 5) { credit := slice e 76 64, held := (tGet {} t (slice e 20 5)).held : RemOut }) m.rem.keptOut
  let m := { m with train := { m.train with running := true, startAt := none, asked := false, voted := false,
                                            andOk := false, andDue := false }
                    tick := { m.tick with k := 0 }
                    hbm := { m.hbm with wrote := [] }
                    rem := { m.rem with out := out, inb := m.rem.keptIn, gathers := [] }
                    clus := m.clus.forget }
  m.stepWords

end Sys2Proof.Machine
end

