-- ==== Sys2Proof/Machine/Hbm.lean ====
section
/-! DEFINITION. HBM (chapter 09): the settle, the stage mover, refresh, errors and scrub, channel retirement. -/

namespace Sys2Proof.Machine

/-! ### The settle -/

/-- Copies every segment of the settle that no unfinished export or digest round still reads, in entry order (R330, R331); the
wait of one that is read adds 1 to SETTLE_WAIT_CNT. One on a stopped die waits (R267). The model gives the copy no time of its own (log
entry 31). -/
def Mod.runSettle (m : Mod) : Mod :=
  m.hbm.settle.foldl (fun m s =>
    if m.hbm.pinned.any (fun p => overlap s.dst s.len p.dst p.len) then
      if s.waited then m
      else { m with hbm := { m.hbm with settle := m.hbm.settle.map (fun x => if x = s then { x with waited := true } else x),
                                        settleWait := m.hbm.settleWait + 1 } }
    else if !m.onDies s.src s.len || !m.onDies s.dst s.len then m
    else
      let m := m.hbmPut s.dst (m.hbmRaw s.src s.len)
      { m with hbm := { m.hbm with settle := m.hbm.settle.filter (· ≠ s) } }) m

/-- The segments of a settle: of each owned shard's stage its moments and ember copy, then of each mirror stage (R330,
R399). -/
def Mod.settleSegs (m : Mod) : List SettleSeg :=
  (m.owned.flatMap fun e =>
    let n := momBytes (shCount e)
    [{ src := shStage e, dst := shMom e, len := n }, { src := shStage e + n, dst := shEmb e, len := m.embBytes (shCount e) }]) ++
  ((m.mirrors.filter fun e => slice e 4 4 = 0).flatMap fun e =>
    let c := shCount (nth 0 m.shards0 (slice e 47 16))
    let n := momBytes c
    [{ src := slice e 207 168, dst := slice e 127 88, len := n },
     { src := slice e 207 168 + n, dst := slice e 167 128, len := m.embBytes c }])

/-! ### The stage mover -/

/-- Fields of a move entry (R287). -/
def mvOp (e : Nat) : Nat := slice e 7 4
def mvTag (e : Nat) : Nat := slice e 14 9
def mvHearth (e : Nat) : Nat := slice e 36 24
def mvHs (e : Nat) : Nat := slice e 64 48
def mvHbm (e : Nat) : Nat := slice e 119 80
def mvRb (e : Nat) : Nat := slice e 140 128
def mvRows (e : Nat) : Nat := slice e 155 144 + 1
def mvTick (e : Nat) : Nat := slice e 223 208
/-- The completion queue of a move. -/
def mvQueue (e : Nat) : Nat := qid (cid (mvHearth e) (slice e 21 15)) (slice e 23 22)
/-- Width of an element of a transposing move, 0 for the others. -/
def mvW (e : Nat) : Nat := if mvOp e = 2 then 1 else if mvOp e = 3 then 2 else 0
/-- HS rows and bytes per HS row; a transposing move turns rows and columns (R288). -/
def mvHsRows (e : Nat) : Nat := if mvW e = 0 then mvRows e else mvRb e / mvW e
def mvHsRow (e : Nat) : Nat := if mvW e = 0 then mvRb e else mvRows e * mvW e
def mvHsPitch (e : Nat) : Nat := if slice e 172 160 = 0 then mvHsRow e else slice e 172 160
def mvHbmPitch (e : Nat) : Nat := if slice e 207 176 = 0 then mvRb e else slice e 207 176

/-- The runs of bytes of a move, in HBM and in the hearth store. -/
def mvHbmRuns (e : Nat) : List (Nat × Nat) := (List.range (mvRows e)).map fun r => (mvHbm e + r * mvHbmPitch e, mvRb e)
def mvHsRuns (e : Nat) : List (Nat × Nat) := (List.range (mvHsRows e)).map fun r => (mvHs e + r * mvHsPitch e, mvHsRow e)

/-- Two moves share HBM or HS bytes (R291). -/
def mvOverlap (a b : Nat) : Bool :=
  let any := fun (x y : List (Nat × Nat)) => x.any fun p => y.any fun q => overlap p.1 p.2 q.1 q.2
  any (mvHbmRuns a) (mvHbmRuns b) || (mvHearth a = mvHearth b && any (mvHsRuns a) (mvHsRuns b))

/-- FP32 words added element by element (R288 ADD). -/
def addWords : List Word → List Word → List Word
  | a :: t, b :: u => f32add a b :: addWords t u
  | _, _ => []

/-- Bytes of element e of each row, of width w: one transposed row (R288). -/
def column (rows : List (List Byte)) (w e : Nat) : List Byte := rows.flatMap fun r => (r.drop (e * w)).take w

/-- The effect of a move on HBM and the hearth store (R288), on the mapping of the side committed when it began (R327). -/
def Mod.moveEffect (m : Mod) (side : Bool) (e : Nat) : Mod :=
  let h := mvHearth e
  match mvOp e with
  | 1 => (List.range (mvRows e)).foldl (fun m r =>
      m.hsPut h (mvHs e + r * mvHsPitch e) (m.hbmReadAt side (mvHbm e + r * mvHbmPitch e) (mvRb e))) m
  | 2 | 3 =>
    let rows := (List.range (mvRows e)).map fun r => m.hbmReadAt side (mvHbm e + r * mvHbmPitch e) (mvRb e)
    (List.range (mvHsRows e)).foldl (fun m i => m.hsPut h (mvHs e + i * mvHsPitch e) (column rows (mvW e) i)) m
  | 4 => (List.range (mvRows e)).foldl (fun m r =>
      m.hbmUpdate side (mvHbm e + r * mvHbmPitch e) (m.hsGet h (mvHs e + r * mvHsPitch e) (mvRb e))) m
  | 5 => (List.range (mvRows e)).foldl (fun m r =>
      let a := mvHbm e + r * mvHbmPitch e
      let n := mvRb e / 4
      m.hbmUpdate side a (wsBytes (addWords (bytesWords n (m.hbmReadAt side a (mvRb e)))
        (bytesWords n (m.hsGet h (mvHs e + r * mvHsPitch e) (mvRb e)))))) m
  | _ => m

/-- At most 16 moves of a die are in progress, the oldest first (R289). -/
def goLive (d : Nat) : Nat → List MoveRun → List MoveRun
  | _, [] => []
  | n, x :: t =>
    if x.die = d then (if n = 0 then x :: goLive d 0 t else { x with live := true } :: goLive d (n - 1) t)
    else x :: goLive d n t

/-- The moves that wait begin as places allow, none on a die that does not run (R268, R289). -/
def Mod.goMoves (m : Mod) (l : List MoveRun) : List MoveRun :=
  let n := fun (d : Nat) => if m.dieRuns d then 16 else 0
  goLive 1 (n 1) (goLive 0 (n 0) l)

/-- The moves of a schedule tick start in entry order, each by the fabric of the die that holds its set (R289). -/
def Mod.startMoves (m : Mod) (k : Nat) : Mod :=
  let es := m.hbmmap
  let new := ((indices es).filter fun i => slice (nth 0 es i) 3 0 = 2 && mvTick (nth 0 es i) = k).map fun i =>
    { idx := i, die := m.dieAt (m.view (mvHbm (nth 0 es i))), live := false, side := m.hbm.side : MoveRun }
  { m with hbm := { m.hbm with moves := m.goMoves (m.hbm.moves ++ new) } }

/-- A token that the module itself sends to a tick-staged queue by the gateway, header only: it takes a credit of the queue. -/
def Mod.hubToken (m : Mod) (q : Nat) (tag : BitVec 6) : Mod := m.injectTok prodHub q { tag := tag, gen := m.cord.gen }

/-- A settle that a move has to wait for (R331): it reads unsettled moments or ember bytes, or writes unsettled stage bytes. -/
def Mod.moveWaits (m : Mod) (side : Bool) (e : Nat) : Bool :=
  (mvHbmRuns e).any fun r =>
    m.unsettledDst (m.viewAt side r.1) r.2 || (decide (4 ≤ mvOp e) && m.unsettledSrc (m.viewAt side r.1) r.2)

/-- The wait of a move for the settle is counted once (R331). -/
def Mod.noteMove (m : Mod) (r : MoveRun) : Mod :=
  if r.waited then m
  else { m with hbm := { m.hbm with moves := m.hbm.moves.map (fun x => if x = r then { x with waited := true } else x),
                                    settleWait := m.hbm.settleWait + 1 } }

/-- R289, R291: the oldest run of move entry i ends: its effect, its completion token. It waits for earlier overlapping moves, for
the settle, for a running die and for a credit of its queue. -/
def execMoveComplete (i : Nat) (s : State) : Host.Outcome State Fault Refusal :=
  lift (fun m =>
    let e := nth 0 m.hbmmap i
    let before := m.hbm.moves.takeWhile (·.idx ≠ i)
    match takeFirst (·.idx = i) m.hbm.moves with
    | none => m
    | some (r, left) =>
      if !r.live || before.any (fun b => mvOverlap (nth 0 m.hbmmap b.idx) e) ||
          !m.dieClocks (hDie (mvHearth e)) || !m.dieClocks r.die || (m.inq (mvQueue e)).credit = 0 then m
      else if m.moveWaits r.side e then m.noteMove r
      else
        let m := m.moveEffect r.side e
        let k := r.die * 8 + mvOp e
        let n := mvRows e * mvRb e
        let m := { m with hbm := { m.hbm with moves := m.goMoves left,
                                              moved := tSet 0 m.hbm.moved k (tGet 0 m.hbm.moved k + n) } }
        m.hubToken (mvQueue e) (BitVec.ofNat 6 (mvTag e))) s

/-! ### Refresh -/

/-- Slots of a tick (R285): the least number of equal intervals of at most 3.9 µs. -/
def Mod.refreshSlots (m : Mod) : Nat := ceilDiv (10 * m.tick.us) 39

/-- R285: the next refresh slot of the tick, shared by every channel; the channels of a die whose HBM is in self-refresh, for the
module is Damped or the die is stopped, have none. -/
def execRefreshSlot (s : State) : Host.Outcome State Fault Refusal :=
  lift (fun m =>
    if m.hbm.selfRef || decide (m.refreshSlots ≤ m.hbm.refresh) then m
    else
      let serve := fun (t : Tbl Nat) (d : Nat) => if m.dieClocks d then tSet 0 t d (tGet 0 t d + 1) else t
      { m with hbm := { m.hbm with refresh := m.hbm.refresh + 1, served := serve (serve m.hbm.served 0) 1 } }) s

/-! ### Errors -/

/-- 24 h in ns. -/
def day : Nat := 86400000000000

/-- Times of the last 24 h with the present one. -/
def within24 (now : Nat) (l : List Nat) : List Nat := l.filter (fun t => decide (now < t + day)) ++ [now]

def Mod.chan (m : Mod) (c : Nat) : HbmChan := tGet {} m.hbm.chans c
def Mod.setChan (m : Mod) (c : Nat) (x : HbmChan) : Mod := { m with hbm := { m.hbm with chans := tSet {} m.hbm.chans c x } }

/-- The physical set of a channel (R277): channels 2i and 2i + 1 of each stack of die d form set 16d + i. -/
def psetOf (c : Nat) : Nat := 16 * (c / 32 / 6) + c % 32 / 2

/-- The logical set joined to a physical set. -/
def Mod.lsetOf (m : Mod) (p : Nat) : Nat := m.hbm.setMap.findIdx (· = p)

/-- A logical set holds a region of the installed cord (R298). -/
def Mod.setUsed (m : Mod) (j : Nat) : Bool :=
  m.hbmmap.any fun e => slice e 3 0 = 1 && overlap (slice e 55 16) (slice e 103 64) (24000000000 * j) 24000000000

/-- A free set for L: no region of the cord, no reserved area, not retired; on L's die where there is one, the lowest number
(R298; log entry 32 for the choice among several). -/
def Mod.freeSet (m : Mod) (l : Nat) : Option Nat :=
  let ok := (List.range 32).filter fun j =>
    !m.setUsed j && j != 15 && j != 31 && !m.hbm.retired.contains (nth 0 m.hbm.setMap j) && j != l
  match ok.find? (fun j => j / 16 = l / 16) with
  | some j => some j
  | none => ok.head?

/-- What becomes of the module when no free set exists (R299): HBM_NO_SPARE; after an uncorrectable trigger it is handled as
a lost module, so it departs. -/
def Mod.noSpare (m : Mod) (chan why : Nat) : Mod :=
  let m := m.event 0x8303 chan 0
  if why = 2 then m.loseSelf 0x8303 else m

/-- Retirement of a channel's set starts (R298 step 1), or waits for the one in progress (R299). -/
def Mod.retireChan (m : Mod) (chan why : Nat) : Mod :=
  let p := psetOf chan
  let l := m.lsetOf p
  let known := match m.hbm.ret with
    | some r => r.pset = p
    | none => false
  if m.hbm.retired.contains p || known || m.hbm.retQ.any (·.pset = p) then m
  else match m.freeSet l with
    | none => m.noSpare chan why
    | some f =>
      let e : EvRec := { seq := m.log.next, time := m.time, code := 0x8302, d0 := l + 256 * f, d1 := p }
      let r : RetRun := { l := l, f := f, pset := p, chan := chan, why := why, ev := e.bytes }
      match m.hbm.ret with
      | none => { m with hbm := { m.hbm with ret := some r } }.event 0x8302 (l + 256 * f) p
      | some _ => { m with hbm := { m.hbm with retQ := m.hbm.retQ ++ [r] } }

/-- A corrected burst (R294): counted; 4,096 within 24 h retire the channel's set (R297). -/
def Mod.ceOn (m : Mod) (c : Nat) : Mod :=
  let x := m.chan c
  let ats := within24 m.tick.now x.ceAt
  let m := m.setChan c { x with ce := x.ce + 1, ceAt := ats }
  if 4096 ≤ ats.length then m.retireChan c 1 else m

/-- The entries of PEAT that are TRAINED segments and hold a turf (R306). -/
def Mod.trainedSegs (m : Mod) (t : Nat) : List Nat :=
  (indices m.peatEnts).filter fun i =>
    let e := nth 0 m.peatEnts i
    slice e 3 0 = 2 && bitAt e 16 && decide (slice e 94 64 ≤ t ∧ t < slice e 94 64 + slice e 127 96)

/-- An error met in a turf is noted for the digest of its segment (R414). -/
def Mod.notePeat (m : Mod) (t : Nat) : Mod :=
  { m with clus := { m.clus with errs := (m.clus.errs ++ (m.trainedSegs t).map fun i => (4, i)).eraseDups } }

/-- ECC errors noted for the items of a digest round whose bytes hold the address (R414): 0 owned shard, 1 mirror entry by their
place among them, 2 own TABLE region and 3 table copy by their entry's index, 4 segment of PEAT by its entry's index, in a slot. -/
def Mod.noteErr (m : Mod) (a : Nat) : Mod :=
  let hit := fun (mas mom emb stage c : Nat) =>
    overlap a 64 mas (4 * c) || overlap a 64 (mas + m.sideDelta) (4 * c) || overlap a 64 mom (momBytes c) ||
      overlap a 64 emb (m.embBytes c) || m.unsettledSrc a 64 && overlap a 64 stage (momBytes c + m.embBytes c)
  let own := ((indices m.owned).filter fun i =>
    let e := nth 0 m.owned i
    hit (shMaster e) (shMom e) (shEmb e) (shStage e) (shCount e)).map fun i => (0, i)
  let mir := ((indices m.mirrors).filter fun i =>
    let e := nth 0 m.mirrors i
    slice e 4 4 = 0 && hit (slice e 87 48) (slice e 127 88) (slice e 167 128) (slice e 207 168)
      (shCount (nth 0 m.shards0 (slice e 47 16)))).map fun i => (1, i)
  let tab := ((indices m.hbmmap).filter fun i =>
    let e := nth 0 m.hbmmap i
    slice e 3 0 = 1 && slice e 11 4 = 9 && overlap a 64 (slice e 55 16) (slice e 103 64)).map fun i => (2, i)
  let mtab := ((indices m.fallback).filter fun i =>
    let e := nth 0 m.fallback i
    slice e 3 0 = 3 && slice e 4 4 = 1 && overlap a 64 (slice e 87 48) (slice e 317 278)).map fun i => (3, i)
  let m := { m with clus := { m.clus with errs := (m.clus.errs ++ own ++ mir ++ tab ++ mtab).eraseDups } }
  (m.peat.slots.filter fun p => p.2.landed && overlap a 64 p.2.addr 16384).foldl (fun m p => m.notePeat (p.2.turf.getD 0)) m

/-- A digest round is due, so that the partner's copy replaces the lost bytes (R414, R415). -/
def Mod.wantRound (m : Mod) : Mod := { m with clus := { m.clus with digDue := true } }

/-- The cord trains in pairs and this module's partner holds its mirror. -/
def Mod.paired (m : Mod) : Bool := !cSingle m.img && m.clus.pair == .paired

/-- Committed state lost in HBM (R296): paired, the step is voided and the bytes come from the mirror; else Fault. -/
def Mod.stateUe (m : Mod) (a : Nat) (void : Bool) : Mod :=
  if m.paired then
    let m := (m.noteErr a).wantRound
    if void then m.voidStep true else m
  else m.enterFault 0x1123

/-- The staging slot of a reserved area loses the granule (R296): a slot that holds it is rejected. The slot's image starts
at the area's first byte (log entry 33). -/
def Mod.slotUe (m : Mod) (a : Nat) : Mod :=
  let d := hbmDie a
  let x := m.slot d
  let off := a - (if d = 0 then 383000000000 else 767000000000)
  if decide (off < x.bytes.length) && x.st != .empty then
    let y := { x with st := SlotSt.rejected }
    { m with cord := if d = 0 then { m.cord with slot0 := y } else { m.cord with slot1 := y } }
  else m

/-- A segment of the settle without the granule of an address. -/
def carve (a : Nat) (s : SettleSeg) : List SettleSeg :=
  let g := a / 64 * 64
  if !overlap a 64 s.src s.len then [s]
  else
    let pre := g - s.src
    let post := s.src + s.len - (g + 64)
    (if pre = 0 then [] else [{ s with len := pre }]) ++
      (if post = 0 then [] else [{ s with src := g + 64, dst := s.dst + (g + 64 - s.src), len := post }])

/-- The part of a segment that lies in the granule of an address. -/
def carved (a : Nat) (s : SettleSeg) : List SettleSeg :=
  let lo := Nat.max (a / 64 * 64) s.src
  let hi := Nat.min (a / 64 * 64 + 64) (s.src + s.len)
  if lo < hi then [{ src := lo, dst := s.dst + (lo - s.src), len := hi - lo }] else []

/-- Unsettled stage bytes of an owned shard are lost (R296): the settle goes on without the granule, whose readers wait until the
partner's copy has restored it. -/
def Mod.settleUe (m : Mod) (a : Nat) : Mod :=
  let m := m.stateUe a false
  let h := m.hbm
  { m with hbm := { h with settle := h.settle.flatMap (carve a), restore := h.restore ++ h.settle.flatMap (carved a) } }

/-- Unsettled mirror stage bytes are lost (R296): the mirror settle skips the granule. -/
def Mod.mirrorUe (m : Mod) (a : Nat) : Mod :=
  let m := (m.noteErr a).wantRound
  { m with hbm := { m.hbm with settle := m.hbm.settle.flatMap (carve a) } }

/-- A turf's slot is lost (R324): the step is voided and the turf is staged again from flash. -/
def Mod.stageUe (m : Mod) (a : Nat) : Mod :=
  let hit := fun (x : PeatSlot) => x.turf.isSome && decide (x.addr ≤ a ∧ a < x.addr + 16384)
  let m := m.noteErr a
  let slots := m.peat.slots.map fun p => if hit p.2 then (p.1, { p.2 with landed := false, dirty := false, begun := false }) else p
  ({ m with peat := { m.peat with slots := slots } }).voidStep true

/-- What an uncorrectable error does, by the region that holds the burst (R296). -/
def Mod.ueRegion (m : Mod) (a : Nat) : Mod :=
  if hbmReserved a then m.slotUe a
  else
    match m.regionKind a with
    | 0 => m
    | 1 => if m.hbm.side then m else m.stateUe a true
    | 2 => if m.hbm.side then m.stateUe a true else m
    | 3 => m.stateUe a true
    | 4 => m.stateUe a true
    | 9 => m.stateUe a true
    | 5 => ({ m with train := { m.train with regen := true } }).voidStep true
    | 6 => m.mirrorUe a
    | 0xA => m.stageUe a
    | 13 => if m.unsettledSrc a 64 then m.settleUe a else m.voidStep true
    | _ => m.voidStep true

/-- An uncorrectable burst (R294, R296, R297): never delivered as data, recorded with channel, address and region, handled by its
region; an error that recurs when the collier reads the burst again, or the second on the channel within 24 h, retires the set. -/
def Mod.ueAt (m : Mod) (a : Nat) (recurs : Bool) : Mod :=
  let c := m.hbmChan a
  let x := m.chan c
  let ats := within24 m.tick.now x.ueAt
  let m := m.setChan c { x with ue := x.ue + 1, ueAt := ats, last := some (a, m.regionKind a) }
  let b := a / 64
  let m := { m with hbm := { m.hbm with bad := if m.hbm.bad.contains b then m.hbm.bad else m.hbm.bad ++ [b] } }
  let m := (m.event 0x8301 c a).ueRegion a
  if recurs || decide (2 ≤ ats.length) then m.retireChan c 2 else m

/-- R294, R296, R297: a burst at a module address that a read meets in error: 0 corrected (log entry 98), 1 uncorrectable, 2
uncorrectable and met again when the collier reads it again. -/
def execHbmUe (a : BitVec 40) (found : Fin 3) (s : State) : Host.Outcome State Fault Refusal :=
  lift (fun m =>
    if 768000000000 ≤ a.toNat then m
    else if found.val = 0 then (m.ceOn (m.hbmChan a.toNat)).noteErr a.toNat
    else m.ueAt a.toNat (found.val = 2)) s

/-- The module address of burst n of a channel (R277). -/
def Mod.burstAddr (m : Mod) (c n : Nat) : Nat :=
  let mem := c / 32 % 6 + 6 * (c % 2)
  let off := 64 * n
  24000000000 * m.lsetOf (psetOf c) + 256 * (12 * (off / 256) + mem) + off % 256

/-- Bursts of a channel: 2 * 10^9 B (R277). -/
def chanBursts : Nat := 31250000

/-- R295: a controller scrubs the next burst of a channel; `found`: 0 sound, 1 corrected, 2 uncorrectable, 3 uncorrectable
and met again when read again. Nothing is scrubbed in self-refresh. -/
def execHbmScrubBurst (c : Fin 384) (found : Fin 4) (s : State) : Host.Outcome State Fault Refusal :=
  lift (fun m =>
    if m.hbm.selfRef || !m.dieClocks (c.val / 192) then m
    else
      let n := tGet 0 m.hbm.scrub c.val
      let a := m.burstAddr c.val n
      let m := { m with hbm := { m.hbm with scrub := tSet 0 m.hbm.scrub c.val ((n + 1) % chanBursts) } }
      match found.val with
      | 0 => m
      | 1 => (m.ceOn c.val).noteErr a
      | 2 => m.ueAt a false
      | _ => m.ueAt a true) s

/-! ### Retirement -/

/-- Address a is covered by a region of the cord. -/
def Mod.covered (m : Mod) (a : Nat) : Bool := m.hbmmap.any fun e => regionHolds e a

/-- R298 step 2: the copy of L's region bytes to F's physical set, begun at the boundary after the trigger, has ended. -/
def execHbmRetireCopyDone (s : State) : Host.Outcome State Fault Refusal :=
  lift (fun m => match m.hbm.ret with
    | some r => if r.begun then { m with hbm := { m.hbm with ret := some { r with copied := true } } } else m
    | none => m) s

/-- The contents after the swap of sets l and f (R298 step 3): region bytes of L stay at their addresses, its other bytes and
F's change places. -/
def Mod.swapMem (m : Mod) (l f : Nat) : List Host.Cell :=
  let bl := 24000000000 * l
  let bf := 24000000000 * f
  let inSet := fun (b a : Nat) => decide (b ≤ a ∧ a < b + 24000000000)
  let keep := m.hbm.mem.filter fun c => (!inSet bl c.1 && !inSet bf c.1) || (inSet bl c.1 && m.covered c.1)
  let toF := (m.hbm.mem.filter fun c => inSet bl c.1).map fun c => (bf + (c.1 - bl), c.2)
  let toL := (m.hbm.mem.filter fun c => inSet bf c.1 && !m.covered (bl + (c.1 - bf))).map fun c => (bl + (c.1 - bf), c.2)
  (toF ++ toL).foldl (fun t c => mSet t c.1 c.2) keep

/-- The bursts in error after the swap: those of L go with its physical set, those of F come to L's addresses where no copy has been
written over them. -/
def Mod.swapBad (m : Mod) (l f : Nat) : List Nat :=
  let n := 375000000
  let at' := fun (j b : Nat) => decide (n * j ≤ b ∧ b < n * (j + 1))
  (m.hbm.bad.filter fun b => !at' l b && !at' f b) ++
    (m.hbm.bad.filter fun b => at' l b).map (fun b => n * f + (b - n * l)) ++
    ((m.hbm.bad.filter fun b => at' f b).map (fun b => n * l + (b - n * f))).filter fun b => !m.covered (64 * b)

/-- R298 steps 3 and 4, before a boundary is delivered: the set map swaps, the set is retired, or, with a return pending, comes back
(R300); the event and the new map enter the lifetime journal. A burst of L in error was copied as the zeros that it reads. -/
def Mod.retireSwap (m : Mod) : Mod :=
  match m.hbm.ret with
  | none => m
  | some r =>
    if !r.copied then m
    else
      let pl := nth 0 m.hbm.setMap r.l
      let pf := nth 0 m.hbm.setMap r.f
      let map := setAt (setAt m.hbm.setMap r.l pf) r.f pl
      let gone := if r.back then m.hbm.retired else m.hbm.retired ++ [r.pset]
      let lost := m.hbm.bad.filter fun b => m.covered (64 * b) && hbmSet (64 * b) = r.l
      let m := lost.foldl (fun m b => { m with hbm := { m.hbm with mem := mWrite m.hbm.mem (64 * b) (List.replicate 64 0) } }) m
      let m := { m with hbm := { m.hbm with mem := m.swapMem r.l r.f, bad := m.swapBad r.l r.f, setMap := map, ret := none,
                                            retQ := [], retired := gone } }
      m.journal 2 (r.ev ++ map.flatMap (leBytes 1))

/-- The retirement of a set is in progress or waits for the one in progress (R299). -/
def Mod.retiring (m : Mod) (p : Nat) : Bool := (m.hbm.ret.toList ++ m.hbm.retQ).any fun r => r.pset = p

/-- Whether the set comes back when its retirement completes (R300). -/
def Mod.holdBack (m : Mod) (p : Nat) (b : Bool) : Mod :=
  let f := fun (r : RetRun) => if r.pset = p then { r with back := b } else r
  { m with hbm := { m.hbm with ret := m.hbm.ret.map f, retQ := m.hbm.retQ.map f } }

/-- The retirements that waited for one to end start now (R299). -/
def Mod.retireNext (m : Mod) (q : List RetRun) : Mod :=
  q.foldl (fun m r => (m.retireChan r.chan r.why).holdBack r.pset r.back) m

/-- Swap at a boundary, then the retirements that waited; the copy of a retirement begins at the boundary after its trigger. -/
def Mod.retireBoundary (m : Mod) : Mod :=
  let q := m.hbm.retQ
  match m.hbm.ret with
  | some r =>
    if r.copied then m.retireSwap.retireNext q
    else { m with hbm := { m.hbm with ret := some { r with begun := true } } }
  | none => m

end Sys2Proof.Machine
end

