-- ==== Sys2Proof/Machine/Peat.lean ====
section
/-! DEFINITION. The peat tier (chapter 10): residency, staging, prefetch lists, trained rows, write-back and its governor, flash errors and die retirement. -/

namespace Sys2Proof.Machine

/-! ### Slots -/

def Mod.pslot (m : Mod) (i : Nat) : PeatSlot := tGet {} m.peat.slots i
def Mod.setPslot (m : Mod) (i : Nat) (x : PeatSlot) : Mod := { m with peat := { m.peat with slots := tSet {} m.peat.slots i x } }

/-- The slot of a turf's committed image, landed or in flight, and of its pending image. -/
def Mod.slotOf (m : Mod) (t : Nat) : Option Nat := (m.peat.slots.find? fun p => p.2.turf = some t && !p.2.pending).map Prod.fst
def Mod.pendOf (m : Mod) (t : Nat) : Option Nat := (m.peat.slots.find? fun p => p.2.turf = some t && p.2.pending).map Prod.fst

/-- A turf is resident: its slot has landed (R310). -/
def Mod.resident (m : Mod) (t : Nat) : Bool :=
  match m.slotOf t with
  | some i => (m.pslot i).landed
  | none => false

/-- The segment entry that holds a turf (R306). -/
def Mod.segOf (m : Mod) (t : Nat) : Option Nat :=
  m.segs.find? fun e => decide (slice e 94 64 ≤ t ∧ t < slice e 94 64 + slice e 127 96)

/-- The turf that an engine 3 request reaches (R308): the window's BASE names the directory record of its segment. -/
def Mod.reqTurf (m : Mod) (r : Req) : Nat :=
  let seg := (r.addr - r.idx * r.size - m.stageBase) / 64
  match m.segs.find? (fun e => slice e 11 4 = seg) with
  | some e => slice e 94 64 + r.idx * r.size / 16384
  | none => 0

/-- A gather or scatter to a turf is outstanding (R314). -/
def Mod.turfBusy (m : Mod) (t : Nat) : Bool :=
  m.grid.hearths.any fun p => p.2.reqs.any fun r => decide (r.eng = 3) && m.reqTurf r = t

/-- A pinned slot (R314); a slot in flight is pinned by its staging. -/
def Mod.pinnedSlot (m : Mod) (x : PeatSlot) : Bool :=
  !x.landed || x.dirty || x.wb || x.pending || !x.listed.isEmpty ||
    match x.turf with
    | some t => m.turfBusy t
    | none => false

/-- A slot to take (R314): the first free one, else the unpinned clean slot of oldest last use, the lowest number first. -/
def Mod.takeSlot (m : Mod) : Option Nat :=
  match (List.range m.nslots).find? (fun i => (m.pslot i).turf.isNone) with
  | some i => some i
  | none =>
    let ok := m.peat.slots.filter fun p => !m.pinnedSlot p.2 && decide (p.1 < m.nslots)
    (ok.foldl (fun (b : Option (Nat × Nat)) p => match b with
      | none => some (p.1, p.2.used)
      | some (i, u) => if p.2.used < u then some (p.1, p.2.used) else some (i, u)) none).map Prod.fst

/-- Notes a use of a slot. -/
def Mod.useSlot (m : Mod) (i : Nat) : Mod :=
  let n := m.peat.clock + 1
  ({ m with peat := { m.peat with clock := n } }).setPslot i { m.pslot i with used := n }

/-- A slot taken for a turf: its bytes lie at the slot's address. -/
def Mod.fillSlot (m : Mod) (i : Nat) (x : PeatSlot) : Mod := (m.setPslot i { x with addr := m.slotAddr i }).useSlot i

/-! ### The order of reads (R311) -/

/-- The channel whose flash holds a turf; one that has no place yet has none. -/
def Mod.readChan (m : Mod) (t : Nat) : Nat := match tGet none m.peat.map t with
  | some l => l % 16
  | none => 16

/-- A slot whose turf's read waits, or has begun, on a channel. -/
def Mod.readOn (m : Mod) (c : Nat) (begun : Bool) (x : PeatSlot) : Bool :=
  !x.landed && x.begun == begun && match x.turf with
    | some t => m.readChan t = c
    | none => false

/-- The read that begins next on a channel: a demand fetch before a prefetch, then the one asked for first, which is list order among
prefetches. -/
def Mod.nextRead (m : Mod) (c : Nat) : Option Nat :=
  ((m.peat.slots.filter fun p => m.readOn c false p.2).foldl (fun (b : Option (Nat × PeatSlot)) p => match b with
    | none => some p
    | some q => if (p.2.demand && !q.2.demand) || (p.2.demand == q.2.demand && decide (p.2.used < q.2.used)) then some p else b)
    none).map Prod.fst

/-- A read begins on a channel that may have one more under way (log entry 124). -/
def Mod.beginOn (m : Mod) (c : Nat) : Mod :=
  match m.nextRead c with
  | none => m
  | some i =>
    if (m.peat.slots.filter fun p => m.readOn c true p.2).length < Config.flashReads + 1 then m.setPslot i { m.pslot i with begun := true }
    else m

/-- Reads begin on every channel, in the order of R311. -/
def Mod.beginReads (m : Mod) : Mod :=
  m.peat.slots.foldl (fun m _ => (List.range 17).foldl Mod.beginOn m) m

/-- A turf that waits for a slot takes one: the slot it has got meanwhile, else the one that R314 gives. -/
def Mod.seat (m : Mod) (w : Nat × Bool × List Nat) : Mod :=
  let left := m.peat.waitQ.filter (·.1 ≠ w.1)
  match m.slotOf w.1 with
  | some i =>
    let x := m.pslot i
    { m with peat := { m.peat with waitQ := left } }.setPslot i { x with listed := (x.listed ++ w.2.2).eraseDups }
  | none => match m.takeSlot with
    | some i => { m with peat := { m.peat with waitQ := left } }.fillSlot i { turf := some w.1, demand := w.2.1, listed := w.2.2 }
    | none => m

/-- Turves that wait take slots that have come free: demand fetches first, then in list order (R311, R314). -/
def Mod.pumpSlots (m : Mod) : Mod :=
  if m.peat.waitQ.isEmpty then m
  else ((m.peat.waitQ.filter (·.2.1) ++ m.peat.waitQ.filter (!·.2.1)).foldl Mod.seat m).beginReads

/-- A turf joins those that wait for a slot, or the rank and the lists that ask for it join its wait. -/
def Mod.await (m : Mod) (t : Nat) (demand : Bool) (listed : List Nat) : Mod :=
  let q := m.peat.waitQ
  let q := if q.any (·.1 = t) then q.map fun w => if w.1 = t then (t, w.2.1 || demand, (w.2.2 ++ listed).eraseDups) else w
    else q ++ [(t, demand, listed)]
  { m with peat := { m.peat with waitQ := q } }

/-- Staging of a turf starts in a slot, or waits for one, behind the turves that wait already and rank as high (R313, R314); a demand
fetch of a turf that is staging or waiting takes the rank of one (R311). -/
def Mod.stage (m : Mod) (t : Nat) (demand : Bool) (listed : List Nat) : Mod :=
  match m.slotOf t with
  | some i =>
    let x := m.pslot i
    m.setPslot i { x with listed := (x.listed ++ listed).eraseDups, demand := x.demand || demand && !x.landed }
  | none =>
    let known := m.peat.waitQ.any (·.1 = t)
    let m := (m.await t demand listed).pumpSlots
    if !known && m.peat.waitQ.any (·.1 = t) then { m with peat := { m.peat with noslot := m.peat.noslot + 1 } } else m

/-! ### Flash -/

/-- Place of the parity turf in a stripe: it rotates from stripe to stripe (R303, log entry 101). -/
def parityAt (s : Nat) : Nat := s % 16

def Mod.flashLoc (m : Mod) (l : Nat) : Option FlashLoc := tGet none m.peat.locs l
/-- The location that the turf map joins to a turf (R305). -/
def Mod.turfLoc (m : Mod) (t : Nat) : Option Nat := tGet none m.peat.map t

/-- The bytes of a turf in flash; a lost turf reads zeros (R321). -/
def Mod.turfBytes (m : Mod) (t : Nat) : List Byte :=
  if m.peat.lost.contains t then List.replicate 16384 0
  else match m.turfLoc t with
    | some l => mRead m.peat.flash (16384 * l) 16384
    | none => List.replicate 16384 0

/-- Two turves' bytes, bitwise exclusive or (R303). -/
def xorBytes : List Byte → List Byte → List Byte
  | a :: t, b :: u => (a ^^^ b) :: xorBytes t u
  | _, _ => []

def Mod.fdie (m : Mod) (d : Nat) : FlashDie := tGet {} m.peat.dies d
def Mod.setFdie (m : Mod) (d : Nat) (x : FlashDie) : Mod := { m with peat := { m.peat with dies := tSet {} m.peat.dies d x } }

/-- Turves that 500 GB of a die hold (R303). -/
def dieTurves : Nat := 500000000000 / 16384

/-- Places of a die that hold something. -/
def Mod.heldOn (m : Mod) (d : Nat) : Nat :=
  (m.peat.locs.filter fun p => match p.2 with
    | some x => decide (x.die = d)
    | none => false).length

/-- A die takes writes: it is not retired, not being rebuilt, and has room (R303, R322). -/
def Mod.soundDie (m : Mod) (d : Nat) : Bool :=
  !(m.fdie d).retired && m.peat.rebuild != some d && decide (m.heldOn d < dieTurves)

/-- The next sound die after one, and the die itself where it is sound (log entry 101). -/
def Mod.nextDie (m : Mod) (d : Nat) : Nat :=
  (((List.range 63).map fun i => (d + 1 + i) % 64).find? m.soundDie).getD d
def Mod.pickDie (m : Mod) (d : Nat) : Nat := if m.soundDie d then d else m.nextDie d

/-- The die of a stripe's parity: the first sound one of its channel. -/
def Mod.parityDie (m : Mod) (s : Nat) : Option Nat := ((List.range 4).map (4 * parityAt s + ·)).find? m.soundDie

/-- The fresh stripe that turves on some channels take: the first one that holds nothing and whose parity stands on another channel
(R305, log entry 101). -/
def Mod.freshStripe (m : Mod) (cs : List Nat) : Nat :=
  let n := 16 * (m.peat.locs.length + 1)
  ((List.range n).find? fun s => !cs.contains (parityAt s) && (m.parityDie s).isSome &&
    (List.range 16).all fun c => (m.flashLoc (16 * s + c)).isNone).getD (n + (cs.headD 0 + 1) % 16)

/-- Bytes written on a channel (R320). -/
def Mod.countWrite (m : Mod) (c : Nat) : Mod :=
  { m with peat := { m.peat with written := tSet 0 m.peat.written c (tGet 0 m.peat.written c + 16384) } }

/-- A turf is written at its place in a stripe, with its metadata (R304), and the map joins it to that place; the location that the map
left is no longer valid. -/
def Mod.putTurf (m : Mod) (s t die : Nat) (b : List Byte) : Mod :=
  let l := 16 * s + die / 4
  let n := m.peat.wcnt + 1
  let tag := m.openVal
  let m := tag.2
  let q := m.peat
  let rec' : FlashLoc := { die := die, turf := some t, wcnt := n, nonce := t + 2 ^ 32 * n, tag := tag.1 % 2 ^ 128 }
  ({ m with peat := { q with flash := mWrite q.flash (16384 * l) b, wcnt := n, locs := tSet none q.locs l (some rec'),
                             map := tSet none q.map t (some l), lost := q.lost.filter (· ≠ t) } }).countWrite (die / 4)

/-- The parity of a stripe is written (R303). -/
def Mod.putParity (m : Mod) (s : Nat) (b : List Byte) : Mod :=
  let p := 16 * s + parityAt s
  let rec' : FlashLoc := { die := (m.parityDie s).getD (4 * parityAt s), turf := none, wcnt := m.peat.wcnt, nonce := 0, tag := 0 }
  ({ m with peat := { m.peat with flash := mWrite m.peat.flash (16384 * p) b,
                                  locs := tSet none m.peat.locs p (some rec') } }).countWrite (parityAt s)

/-- Turves on dies of different channels written to a fresh stripe with its parity; nothing is overwritten in place (R303, R305). -/
def Mod.placeRow (m : Mod) (row : List (Nat × Nat × List Byte)) : Mod :=
  let s := m.freshStripe (row.map fun x => x.2.1 / 4)
  let par := row.foldl (fun p x => xorBytes p x.2.2) (List.replicate 16384 0)
  (row.foldl (fun m x => m.putTurf s x.1 x.2.1 x.2.2) m).putParity s par

/-- A turf written to a fresh stripe, on a die where that is sound (R304, R305, R322). -/
def Mod.placeTurf (m : Mod) (t die : Nat) (b : List Byte) : Mod := m.placeRow [(t, m.pickDie die, b)]

/-- A location is valid: the map joins a turf to it. -/
def Mod.validLoc (m : Mod) (l : Nat) : Option Nat :=
  match m.flashLoc l with
  | some x => match x.turf with
    | some t => if m.turfLoc t = some l then some t else none
    | none => none
  | none => none

/-- A turf moved to a fresh stripe: a rebuild or garbage-collection write, which counts for no budget (R319, R321). -/
def Mod.moveTurf (m : Mod) (t die : Nat) : Mod := m.placeTurf t die (m.turfBytes t)

/-- Turves, with their dies, that one stripe takes: at most 15, on different channels, in order; and those that are left. -/
def takeRow : List Nat → List (Nat × Nat) → List (Nat × Nat) × List (Nat × Nat)
  | _, [] => ([], [])
  | cs, x :: t =>
    if decide (cs.length < 15) && !cs.contains (x.2 / 4) then
      let r := takeRow (x.2 / 4 :: cs) t
      (x :: r.1, r.2)
    else
      let r := takeRow cs t
      (r.1, x :: r.2)

def rowsOf : Nat → List (Nat × Nat) → List (List (Nat × Nat))
  | 0, _ => []
  | _, [] => []
  | n + 1, l => let r := takeRow [] l; r.1 :: rowsOf n r.2

/-- Stripes are reclaimed (R305, R322): their valid turves move to fresh stripes, full ones as far as their dies allow; their places are
empty and the blocks of those are erased (R320). -/
def Mod.reclaim (m : Mod) (ss : List Nat) : Mod :=
  let ls := ss.flatMap fun s => (List.range 16).map (16 * s + ·)
  let vs := ls.filterMap fun l => match m.validLoc l, m.flashLoc l with
    | some t, some x => some (t, m.pickDie x.die)
    | _, _ => none
  let keys := (ls.filterMap fun l => (m.flashLoc l).map fun x => 2 ^ 32 * x.die + Config.blockOf l).eraseDups
  let m := (rowsOf vs.length vs).foldl (fun m row => m.placeRow (row.map fun p => (p.1, p.2, m.turfBytes p.1))) m
  { m with peat := { m.peat with flash := m.peat.flash.filter (fun c => !ls.contains (c.1 / 16384)),
                                 locs := ls.foldl (fun t l => tSet none t l none) m.peat.locs,
                                 erases := keys.foldl (fun e k => tSet 0 e k (tGet 0 e k + 1)) m.peat.erases } }

/-- The stripes in use. -/
def Mod.stripes (m : Mod) : List Nat := (m.peat.locs.map fun p => p.1 / 16).eraseDups

/-- Turves of over-provisioning: 2 TB (R303). -/
def spareTurves : Nat := 2000000000000 / 16384

/-- The stripes that garbage collection reclaims after a write: those that a free value names, and every one that is not full of valid
turves where the places lost would pass the over-provisioning (R305, log entry 101). -/
def Mod.toReclaim (m : Mod) (v : Nat) : List Nat :=
  if m.peat.map.length + spareTurves < 15 * m.stripes.length then
    m.stripes.filter fun s => decide (((List.range 16).filter fun c => (m.validLoc (16 * s + c)).isSome).length < 15)
  else m.stripes.filter fun s => decide (v / 2 ^ s % 2 = 1)

/-- Erases counted on a die, over all its blocks (R320). -/
def Mod.erasesOf (m : Mod) (d : Nat) : Nat := ((m.peat.erases.filter fun p => p.1 / 2 ^ 32 = d).map Prod.snd).sum
/-- Erases counted over all blocks of the module. -/
def Mod.allErases (m : Mod) : Nat := (m.peat.erases.map Prod.snd).sum
/-- Mean erase count of a die's blocks. -/
def Mod.meanErases (m : Mod) (d : Nat) : Nat := m.erasesOf d / Config.flashBlocks

/-- R310, R311: a staged or demand-fetched turf whose read has begun lands in its slot; the peat key opens it (R304). The tier must be
on. The next read of its channel begins. -/
def execTurfLanded (t : BitVec 31) (s : State) : Host.Outcome State Fault Refusal :=
  lift (fun m => match m.slotOf t.toNat with
    | some i =>
      let x := m.pslot i
      if x.landed || !x.begun || m.peat.state == .off then m
      else (((m.hbmPut x.addr (m.turfBytes t.toNat)).setPslot i { x with landed := true, demand := false, begun := false }).pumpSlots).beginReads
    | none => m) s

/-- Budget of one turf, bucket capacity, and how far a drain may take the bucket down (R319). -/
def turfB : Int := 16384
def govCap : Int := 5600000000000

/-- The bucket lets a turf be written: it holds one, or the module drains or turns the tier off (R319). -/
def Mod.govOk (m : Mod) : Bool :=
  decide (turfB ≤ m.peat.gov) ||
    ((m.pow.state == .draining || m.peat.state == .shutting) && decide (-govCap + turfB ≤ m.peat.gov))

/-- Budget accrued in t us of powered time: 64,814,815 B per second, to the millionth of a byte, at most the capacity (R319). -/
def Mod.accrue (m : Mod) (us : Nat) : Mod :=
  let n := 64814815 * us + m.peat.govFrac
  let g := m.peat.gov + (n / 1000000 : Nat)
  let full := decide (govCap ≤ g)
  let g := if full then govCap else g
  { m with peat := { m.peat with gov := g, govFrac := if full then 0 else n % 1000000,
                                 governed := m.peat.governed && decide (g < turfB) } }

/-- PEAT_GOVERNED once while the bucket is empty. -/
def Mod.noteGoverned (m : Mod) : Mod :=
  if m.peat.governed || decide (turfB ≤ m.peat.gov) then m
  else ({ m with peat := { m.peat with governed := true } }).event 0x8311 0 0

/-- A turf written to flash on behalf of a job (R305, R319, R517): it costs budget. Garbage collection
follows. -/
def Mod.writeTurf (m : Mod) (t die : Nat) (b : List Byte) : Mod :=
  let m := m.placeTurf t die b
  let m := ({ m with peat := { m.peat with gov := m.peat.gov - turfB } }).noteGoverned
  let v := m.openVal
  v.2.reclaim (v.2.toReclaim v.1)

/-- R317, R319: the write-back of a dirty turf ends, on the flash die the turf map gave it; the committed image is what is
written. While the bucket is empty no write-back ends and PEAT_GOVERNED is raised. -/
def execTurfWritebackDone (t : BitVec 31) (die : Fin 64) (s : State) : Host.Outcome State Fault Refusal :=
  lift (fun m => match m.slotOf t.toNat with
    | some i =>
      let x := m.pslot i
      if !x.dirty || m.peat.state == .off then m
      else if !m.govOk then m.noteGoverned
      else
        let m := m.writeTurf t.toNat die.val (m.hbmRaw x.addr 16384)
        (m.setPslot i { x with dirty := false, wb := false }).pumpSlots.beginReads
    | none => m) s

/-! ### Die retirement -/

/-- Usable turves with k retired dies (R322). -/
def usable (k : Nat) : Nat := Nat.min 28000000000000 (29875000000000 - 468750000000 * k) / 16384

def Mod.retiredDies (m : Mod) : Nat := (m.peat.dies.filter fun p => p.2.retired).length

/-- Retirement of a flash die begins (R322 step 1): the event names it, and is kept for the journal. -/
def Mod.startRebuild (m : Mod) (d : Nat) : Mod :=
  let e : EvRec := { seq := m.log.next, time := m.time, code := 0x8314, d0 := d, d1 := 0 }
  (({ m with peat := { m.peat with rebuild := some d } }).setFdie d { m.fdie d with ev := e.bytes }).event 0x8314 d 0

/-- The stripes with a place on a die are rebuilt into fresh stripes on the other dies (R322 step 2): its valid turves, and with them
those that share their parity; what the die held is gone. -/
def Mod.rebuildDie (m : Mod) (d : Nat) : Mod :=
  m.reclaim (((m.peat.locs.filter fun p => match p.2 with
    | some x => decide (x.die = d)
    | none => false).map fun p => p.1 / 16).eraseDups)

/-- Retirement of a flash die begins, waits for the one in progress, or finds too little capacity (R322). `lost`: the trigger
is a lost turf. -/
def Mod.retireFlash (m : Mod) (d : Nat) (lost : Bool) : Mod :=
  if (m.fdie d).retired || m.peat.rebuild = some d || m.peat.rebuildQ.contains d then m
  else if usable (m.retiredDies + m.peat.rebuild.toList.length + m.peat.rebuildQ.length + 1) < m.declTurves then
    let m := m.event 0x8315 d 0
    if lost then m.loseSelf 0x8315 else m
  else
    match m.peat.rebuild with
    | none => m.startRebuild d
    | some _ => { m with peat := { m.peat with rebuildQ := m.peat.rebuildQ ++ [d] } }

/-- R322 step 3: the last turf of the retiring die is rebuilt; the die is powered down and a waiting retirement begins. -/
def execFlashRebuildDone (s : State) : Host.Outcome State Fault Refusal :=
  lift (fun m => match m.peat.rebuild with
    | none => m
    | some d =>
      let ev := (m.fdie d).ev
      let m := (m.rebuildDie d).setFdie d { m.fdie d with retired := true, ev := [] }
      let m := m.journal 2 (ev ++ leBytes 8 (usable m.retiredDies))
      match m.peat.rebuildQ with
      | [] => { m with peat := { m.peat with rebuild := none } }
      | n :: rest => ({ m with peat := { m.peat with rebuildQ := rest } }).startRebuild n) s

/-- R322: a program or erase failure on a flash die; the 64th retires it. -/
def execFlashProgramFail (d : Fin 64) (s : State) : Host.Outcome State Fault Refusal :=
  lift (fun m =>
    let x := m.fdie d.val
    let m := m.setFdie d.val { x with progs := x.progs + 1, fails := x.fails + 1 }
    if 64 ≤ x.progs + 1 then m.retireFlash d.val false else m) s

/-- What a lost turf does, by its segment (R321). -/
def Mod.turfLost (m : Mod) (t : Nat) : Mod :=
  let m := { m with peat := { m.peat with lost := (m.peat.lost ++ [t]).eraseDups } }
  match m.segOf t with
  | none => m
  | some e =>
    if bitAt e 17 then m.wantRound
    else if bitAt e 16 then (if m.paired then m.wantRound.voidStep true else m.enterFault 0x1124)
    else ((m.event 0x8313 (slice e 11 4) t).voidStep true).stopAtEnd 0x8313 false

/-- R321, R322: a turf read on a flash die fails. Rebuilt from its stripe it is served and written to a fresh location, else
it is lost. Three failed reads within 24 h, or a lost turf, retire the die. -/
def execTurfReadFail (t : BitVec 31) (d : Fin 64) (rebuilt : Bool) (s : State) : Host.Outcome State Fault Refusal :=
  lift (fun m =>
    let x := m.fdie d.val
    let ats := within24 m.tick.now x.reads
    let m := m.setFdie d.val { x with reads := ats, fails := x.fails + 1 }
    let m := m.notePeat t.toNat
    let m := if rebuilt then m.moveTurf t.toNat (m.nextDie d.val) else m.turfLost t.toNat
    if !rebuilt then m.retireFlash d.val true
    else if 3 ≤ ats.length then m.retireFlash d.val false else m) s

/-! ### Prefetch lists -/

/-- R313: at the boundary of tick u - 1 the list for use tick u is read whole: null, stale and bad entries are passed over
and counted, resident turves pinned, the rest staged in ring order; then every entry is written null. -/
def Mod.readList (m : Mod) (u : Nat) : Mod :=
  let q := u % 4
  let n := m.listEnts
  let ents := (List.range n).map fun j => leNat (m.hbmRaw (m.ringAddr q j) 8)
  let live := ents.filter fun e => slice e 30 0 ≠ 0x7FFFFFFF
  let fresh := live.filter fun e => slice e 47 32 = u % 65536
  let good := fresh.filter fun e => (m.segOf (slice e 30 0)).isSome
  let m := { m with peat := { m.peat with stale := m.peat.stale + (live.length - fresh.length),
                                          bad := m.peat.bad + (fresh.length - good.length) } }
  let m := ((good.map fun e => slice e 30 0).eraseDups).foldl (fun m t => m.stage t false [u]) m
  (List.range n).foldl (fun m j => m.hbmPut (m.ringAddr q j) (leBytes 8 0x7FFFFFFF)) m

/-- R313, R314: at the boundary of tick u, turves listed for u that are not resident, in a slot or waiting for one, are late; lists of
tick u - 1 have ended. -/
def Mod.lateList (m : Mod) (u : Nat) : Mod :=
  let late := (m.peat.slots.filter fun p => p.2.listed.contains u && !p.2.landed).length +
    (m.peat.waitQ.filter fun w => w.2.2.contains u && (m.slotOf w.1).isNone).length
  let slots := (m.peat.slots.map fun p => (p.1, { p.2 with listed := p.2.listed.filter (fun v => decide (u ≤ v)) }))
  ({ m with peat := { m.peat with late := m.peat.late + late, waitQ := m.peat.waitQ.map fun (w : Nat × Bool × List Nat) => (w.1, w.2.1, w.2.2.filter fun v => decide (u ≤ v)), slots := slots.filter (fun (p : Nat × PeatSlot) => decide (p.2 ≠ ({} : PeatSlot))) } }).pumpSlots

/-- The work of the flash engine at a tick boundary (R313). -/
def Mod.peatBoundary (m : Mod) (cnt : Nat) : Mod :=
  if cPeat m.img && m.peat.state == .on then (m.lateList cnt).readList (cnt + 1) else m

/-! ### Trained rows -/

/-- Pending images and dirty turves (R318). -/
def Mod.dirtyCount (m : Mod) : Nat := (m.peat.slots.filter fun p => p.2.pending || p.2.dirty).length

/-- Marks the oldest request of a core at an engine as one whose wait has been counted. -/
def Mod.markWait (m : Mod) (h core eng : Nat) : Mod :=
  let x := m.hearth h
  let rec go : List Req → List Req
    | [] => []
    | r :: t => if r.eng = eng ∧ r.core = core then { r with waited := true } :: t else r :: go t
  m.setHearth h { x with reqs := go x.reqs }

/-- R315, R318: one element scattered to a trained turf; none while it has to wait. The first scatter of the step to a turf
takes a free slot and copies the committed image. -/
def Mod.scatterTurf (m : Mod) (t off : Nat) (b : List Byte) : Option Mod :=
  match m.pendOf t with
  | some i => some ((m.useSlot i).hbmPut ((m.pslot i).addr + off) b)
  | none =>
    match m.slotOf t with
    | none => none
    | some c =>
      if !(m.pslot c).landed || decide (m.dirtyMax ≤ m.dirtyCount) then none
      else match m.takeSlot with
        | none => none
        | some i =>
          let img := m.hbmRaw (m.pslot c).addr 16384
          let m := m.fillSlot i { turf := some t, landed := true, pending := true }
          some ((m.hbmPut (m.slotAddr i) img).hbmPut (m.slotAddr i + off) b)

/-- R318: no write-back can free a slot, for every one holds a pending image: the step is abandoned with
PEAT_PENDING_FULL. -/
def Mod.pendingFull (m : Mod) : Mod :=
  let pend := (m.peat.slots.filter fun p => p.2.pending).length
  if m.dirtyMax ≤ pend && !m.train.abort then (m.event 0x8312 0 m.train.step).abandon 0x8312 else m

/-- R316: at the flip every pending image becomes its turf's committed image, dirty; the former slot is freed, and the lists that named
it pin the new one (R314). -/
def Mod.commitTurves (m : Mod) : Mod :=
  let pend := (m.peat.slots.filter fun p => p.2.pending).filterMap fun p => p.2.turf
  let was := fun (x : PeatSlot) => match x.turf with
    | some t => pend.contains t
    | none => false
  let left := m.peat.slots.filter fun p => p.2.pending || !was p.2
  let lists := fun (x : PeatSlot) =>
    ((m.peat.slots.filter fun p => !p.2.pending && p.2.turf = x.turf).flatMap fun p => p.2.listed)
  { m with peat := { m.peat with slots := left.map fun p =>
      if p.2.pending then (p.1, { p.2 with pending := false, dirty := true, listed := lists p.2 }) else p } }

end Sys2Proof.Machine
end

