-- ==== Sys2Proof/Machine/Engine.lean ====
section
/-! DEFINITION. The request engines' side of gathers, scatters and atomics (R35 to R45, R71, R308 to R318, R331): one command takes the oldest request of a core at an engine through to its effect. -/

namespace Sys2Proof.Machine

/-- The oldest outstanding request of a core at an engine (R37, R38). -/
def Hearth.oldest (x : Hearth) (eng core : Nat) : Option Req := x.reqs.find? fun r => decide (r.eng = eng ∧ r.core = core)

/-- The request leaves its slot. -/
def Mod.dropReq (m : Mod) (h eng core : Nat) : Mod :=
  let x := m.hearth h
  match takeFirst (fun r => decide (r.eng = eng ∧ r.core = core)) x.reqs with
  | none => m
  | some (_, t) => m.setHearth h { x with reqs := t }

/-- The words of an atomic add (R44). -/
def atomAdd (fp : Bool) : List Word → List Word → List Word
  | a :: t, b :: u => (if fp then f32add a b else a + b) :: atomAdd fp t u
  | _, _ => []

/-- The die that holds what a request reaches: its target hearth's, that of the bytes through the views (R283), or that of the slot of
its turf (R310). A turf without a slot waits for the flash engine alone. -/
def Mod.reqDie (m : Mod) (r : Req) : Option Nat :=
  if r.eng ≤ 1 then some (hDie r.th)
  else if r.eng = 2 then some (m.dieAt (m.viewAt r.side r.addr))
  else
    let pend := if r.op.posted then m.pendOf (m.reqTurf r) else none
    (pend.orElse fun _ => m.slotOf (m.reqTurf r)).map fun i => m.dieAt (m.pslot i).addr

/-- The request of an engine other than the hearth's own goes to its target on the remote-in channel, by a MESH route (R251,
R252). -/
def Mod.reach (m : Mod) (h : Nat) (r : Req) : Mod :=
  if r.eng = 0 then m
  else if r.eng = 1 then m.travel 3 9 (meshHops h r.th ++ [(r.th, 9)])
  else match m.reqDie r with
    | some d => m.travel 3 9 (toHbm h d)
    | none => m

/-- A gather's token is delivered when its queue has room (R71): header per R67 and R170, payload one element. One of 1 or
2 bytes fills the low bytes of its word (log entry 95). -/
def Mod.deliver (m : Mod) (h : Nat) (r : Req) (b : List Byte) : Mod :=
  match r.op with
  | .gather d tag =>
    let x := m.inq d
    let t : Token := { seq := BitVec.ofNat 20 r.idx, tag := tag, gen := (m.hearth h).gen,
                       words := bytesWords (ceilDiv b.length 4) b }
    -- the request is outstanding toward the queue until its token has entered (R236)
    let m := ((m.setInq d { x with credit := x.credit - 1 }).arrive d { tok := t, prod := prodEng h r.eng }).dropReq h r.eng r.core
    if r.eng = 0 then m
    else match m.reqDie r with
      | some die => (m.travel 2 (if r.eng = 1 then 9 else 3) (if r.eng = 1 then branchHops r.th d false else fromHbm die d)).count h 9 b.length
      | none => m.count h 9 b.length
  | _ => m

/-- The destination queue of a gather has room; other requests need none. -/
def Mod.hasRoom (m : Mod) (r : Req) : Bool :=
  match r.op with
  | .gather d _ => decide (0 < (m.inq d).credit)
  | _ => true

/-- Engines 0 and 1: the access to a hearth store, own or another's. Engine 0 counts as a class-3 requester of the bank
(R41); engine 1 enters over the remote-in channel. -/
def Mod.hsRequest (m : Mod) (h : Nat) (r : Req) : Mod :=
  let m := m.reach h r
  let t := r.th
  let x := m.hearth t
  let x := if r.eng = 0 then x.grants r.addr r.size 0 else x
  let x := x.count 11 r.size
  let x := if r.eng = 1 && r.op.posted then x.count 10 r.size else x
  let m := m.setHearth t x
  match r.op with
  | .gather _ _ => m.deliver h r (m.hsGet t r.addr r.size)
  | .scatter b => (m.hsPut t r.addr b).dropReq h r.eng r.core
  | .atomic fp b =>
    let n := r.size / 4
    (m.hsPut t r.addr (wsBytes (atomAdd fp (bytesWords n (m.hsGet t r.addr r.size)) (bytesWords n b)))).dropReq h r.eng r.core
  | .cas rd expect new =>
    let old := mWord (m.hearth t).hs r.addr
    let m := if old = expect then m.hsPut t r.addr (wBytes new) else m
    let c := cid h r.core
    let m := (m.setSc c ((m.sc c).put rd old)).dropReq h r.eng r.core
    m.setCtl c { m.ctl c with wait := .none }

/-- A wait of the request is noted once; `f` counts it. -/
def Mod.waitOnce (m : Mod) (h : Nat) (r : Req) (f : Mod → Mod) : Mod :=
  if r.waited then m else f (m.markWait h r.core r.eng)

/-- The settle wait is counted (R331). -/
def Mod.noteSettle (m : Mod) : Mod := { m with hbm := { m.hbm with settleWait := m.hbm.settleWait + 1 } }

/-- Engine 2: the access to HBM through the views, on the mapping in force when the request reached the fabric (R327); it waits for
the settle (R331), a gather also for bytes being rewritten (R416). -/
def Mod.hbmRequest (m : Mod) (h : Nat) (r : Req) : Mod :=
  let a := m.viewAt r.side r.addr
  match r.op with
  | .gather _ _ =>
    if m.clus.rewrite.any (fun g => overlap a r.size g.1 g.2) then m.markWait h r.core r.eng
    else if m.unsettledDst a r.size then m.waitOnce h r Mod.noteSettle else (m.reach h r).deliver h r (m.hbmReadAt r.side r.addr r.size)
  | .scatter b =>
    if m.unsettledSrc a r.size then m.waitOnce h r Mod.noteSettle
    else ((m.reach h r).hbmUpdate r.side r.addr b).dropReq h r.eng r.core
  | _ => m.dropReq h r.eng r.core

/-- A demand fetch (R310): counted once for the request. -/
def Mod.demand (m : Mod) (h : Nat) (r : Req) (t : Nat) : Mod :=
  (m.waitOnce h r fun m => { m with peat := { m.peat with miss := m.peat.miss + 1 } }).stage t true []

/-- Engine 3: the element of a turf (R308, R310, R315). A gather reads the committed image in its slot; a scatter goes to the
pending image and waits as R318 says. -/
def Mod.peatRequest (m : Mod) (h : Nat) (r : Req) : Mod :=
  let t := m.reqTurf r
  let off := r.idx * r.size % 16384
  match r.op with
  | .gather _ _ =>
    match m.slotOf t with
    | some i =>
      if (m.pslot i).landed then ((m.useSlot i).reach h r).deliver h r (m.hbmRaw ((m.pslot i).addr + off) r.size) else m.markWait h r.core r.eng
    | none => m.demand h r t
  | .scatter b =>
    match m.scatterTurf t off b with
    | some m => (m.reach h r).dropReq h r.eng r.core
    | none => if (m.slotOf t).isNone && (m.pendOf t).isNone then m.demand h r t else m.pendingFull
  | _ => m.dropReq h r.eng r.core

/-- A die serves a request: it runs, or drains and the request was under way when the drain began (R268, R271). -/
def Mod.dieTakes (m : Mod) (r : Req) (d : Nat) : Bool := m.dieRuns d || (r.old && m.dieClocks d)
def Mod.homeRuns (m : Mod) (r : Req) : Bool := (m.reqDie r).all (m.dieTakes r)

/-- A drain begins: the requests outstanding are those under way (R271). -/
def Mod.markOld (m : Mod) : Mod :=
  { m with grid := { m.grid with hearths := m.grid.hearths.map fun p =>
      (p.1, { p.2 with reqs := p.2.reqs.map fun r => { r with old := true } }) } }

/-- Something under way still concerns a die (R271): a request, a token, a move. -/
def Mod.underWay (m : Mod) (d : Nat) : Bool :=
  m.grid.hearths.any (fun p => p.2.reqs.any fun r => r.old && (hDie p.1 = d || m.reqDie r = some d)) ||
    m.grid.flights.any (fun f => f.hops.any fun h => hDie h.1 = d) || m.hbm.moves.any (fun r => r.live && r.die = d)

/-- R35 to R38, R40, R44, R71: an engine serves the oldest request of a core: a gather's token enters its queue when there is
room, a scatter or atomic takes effect, a compare and swap answers its core. A request of engine 1 outside the regions of
the target hearth is an HS address fault on the issuing core. -/
def execEngineResponse (h : BitVec 13) (eng : Fin 4) (core : BitVec 7) (s : State) : Host.Outcome State Fault Refusal :=
  lift (fun m =>
    let h := h.toNat
    match (m.hearth h).oldest eng.val core.toNat with
    | none => m
    | some r =>
      if !m.coresRun || (m.hearth h).stopped || !m.dieTakes r (hDie h) then m
      else if r.eng ≤ 1 then
        if !m.homeRuns r || (m.hearth r.th).stopped then m
        else if !(m.hearth r.th).inRegion r.addr r.size then (m.dropReq h r.eng r.core).raiseAt h r.core 1 9 r.pc
        else if m.hasRoom r then m.hsRequest h r else m
      else if !m.homeRuns r || !m.hasRoom r then m
      else if r.eng = 2 then m.hbmRequest h r else m.peatRequest h r) s

end Sys2Proof.Machine
end

