-- ==== Sys2Proof/Machine/Faults.lean ====
section
/-! DEFINITION. The stall watchdog and its dump (R192 to R194), the collier's answer to core faults (R195 to R199, R594), hearth faults and the column map (R53 to R61), patrol scrub (R48). -/

namespace Sys2Proof.Machine

/-! ### The stall watchdog -/

/-- Replication buffers at the router of a hearth: tree and node. -/
def Mod.repsAt (m : Mod) (h : Nat) : List (Nat × Nat) :=
  m.grid.trees.flatMap fun t => ((indices t.2.nodes).filter fun i => (nth {} t.2.nodes i).router = h).map fun i => (t.1, i)

/-- A core of the hearth is inside a block, or waits there. -/
def Mod.inside (m : Mod) (h core : Nat) : Bool := (m.ctl (cid h core)).phase != .idle

/-- The queues on which block b of a core lacks tokens (R177). -/
def Mod.lacks (m : Mod) (h core b : Nat) : List Nat :=
  let l := (m.counts h core b).1
  (List.range l.length).filter fun q => decide ((m.inq (qid (cid h core) q)).ready (m.hearth h).gen < nth 0 l q)

/-- The queue on which an instruction of a core waits for a token inside its block (R97, R118). -/
def Mod.waitQ (m : Mod) (h core : Nat) : Option Nat :=
  if core = 0 then ((m.mc (cid h 0)).pend.find? fun p => p.unit < 2 && (loadF p.unit p.desc.toNat p.off).src = 2).map
    fun p => (loadF p.unit p.desc.toNat p.off).q
  else match (m.ctl (cid h core)).wait with
    | .segr rows _ => if 0 < rows then some (slice (nth 0 (m.vc (cid h core)).prog (m.ctl (cid h core)).pc).toNat 18 17) else none
    | _ => none

/-- A core lacks a token, and only on tick-staged queues (R192 condition 4): a block outside which it stands, or the instruction
that waits. -/
def Mod.lacksStaged (m : Mod) (h core : Nat) : Bool :=
  let staged := fun (q : Nat) => (m.inq (qid (cid h core) q)).staged
  if (m.ctl (cid h core)).phase = .idle then
    (indices (m.blocks h core)).any fun b => let l := m.lacks h core b; !l.isEmpty && l.all staged
  else match m.waitQ h core with
    | some q => staged q && ((m.inq (qid (cid h core) q)).ready (m.hearth h).gen = 0)
    | none => false

/-- A token in a queue or replication buffer of the hearth, or a core that waits inside a block (R192 condition 1). -/
def Mod.stallTokens (m : Mod) (h : Nat) : Bool :=
  m.grid.inqs.any (fun p => qHearth p.1 = h && (!p.2.router.isEmpty || !p.2.spill.isEmpty)) ||
    (m.repsAt h).any (fun p => !(nth {} (m.tree p.1).nodes p.2).entries.isEmpty) ||
    (m.coresOf h).any (fun k => (m.ctl (cid h k)).wait != .none) || !(m.mc (cid h 0)).pend.isEmpty

/-- One dump record (R194). -/
def dumpRec (h core kind queue rocc socc credit : Nat) (inside : Bool) (head : Option QTok) : BitVec 64 :=
  let g := match head with
    | some t => 2 ^ 49 * t.tok.gen.toNat + 2 ^ 51 * t.tok.tag.toNat
    | none => 0
  BitVec.ofNat 64 (h + 2 ^ 13 * core + 2 ^ 20 * kind + 2 ^ 22 * queue + 2 ^ 25 * rocc + 2 ^ 30 * socc + 2 ^ 39 * credit +
    2 ^ 48 * b2n inside + g)

/-- Credit that an output queue holds; the 9-bit field of R194 keeps at most 511 of a remote window's (log entry 35). -/
def Mod.creditOf (m : Mod) (q : Nat) : Nat :=
  Nat.min 511 (match (m.outq q).bind with
  | .unicast t _ => (m.inq t).credit
  | .tree t => (m.tree t).credit
  | .remote w => (tGet {} m.rem.out w).credit
  | .none => 0)

/-- The dump of one hearth: input queues, output queues, replication buffers (log entry 35 for the order). -/
def Mod.dumpHearth (m : Mod) (h : Nat) : List (BitVec 64) :=
  let ks := m.coresOf h
  (ks.flatMap fun k => (List.range (inQueues k)).map fun q =>
    let x := m.inq (qid (cid h k) q)
    dumpRec h k 0 q x.router.length x.spill.length 0 (m.inside h k) x.router.head?) ++
  (ks.flatMap fun k => (List.range (outQueues k)).map fun q =>
    dumpRec h k 1 q 0 0 (m.creditOf (qid (cid h k) q)) (m.inside h k) none) ++
  ((indices (m.repsAt h)).map fun i =>
    let p := nth (0, 0) (m.repsAt h) i
    let es := (nth {} (m.tree p.1).nodes p.2).entries
    dumpRec h 0 2 i es.length 0 0 false (es.head?.map fun e => { tok := e.1 }))

/-- The stall counter of a hearth may stand above 0 (R192): its die is clocked, conditions 1, 3 and 4 hold. -/
def Mod.stalls (m : Mod) (h : Nat) : Bool :=
  m.dieRuns (hDie h) && m.stallTokens h && (m.hearth h).reqs.isEmpty && !(m.coresOf h).any fun k => m.lacksStaged h k

/-- R192 to R194: the stall counter of a hearth reaches 65,536. `levels` gives the other hearths' counters in that cycle (log entry
100: the cycles are counted outside the model); the counters are frozen, and hearths at 32,768 or more are dumped with the
faulting hearth. One fault is raised for the event: while the counters are frozen there is no further one. -/
def execStallFault (h : BitVec 13) (levels : List (BitVec 13 × BitVec 17)) (s : State) : Host.Outcome State Fault Refusal :=
  lift (fun m =>
    let h := h.toNat
    if !m.coresRun || m.flt.frozen || !m.stalls h then m
    else
      let levels := levels.filter fun p => p.1.toNat ≠ h && p.2.toNat ≤ 65536 && m.stalls p.1.toNat
      let m := levels.foldl (fun m p => m.setHearth p.1.toNat { m.hearth p.1.toNat with stall := p.2 }) m
      let m := m.setHearth h { m.hearth h with stall := 65536, urgent := true }
      let region := (h :: (levels.filter fun p => decide (32768 ≤ p.2.toNat)).map fun p => p.1.toNat).eraseDups
      let m := { m with cord := { m.cord with dumps := m.cord.dumps ++ region.flatMap m.dumpHearth }
                        flt := { m.flt with frozen := true } }
      m.keepFault { cls := 4, code := 1, hearth := h, core := 0, hlevel := true, rerun := m.flt.rerun && !m.train.voted, pc := 0,
                    tick := m.tick.cnt.toNat % 2 ^ 32, mb := faultMb (m.imgOf h) h m.tick.k,
                    mbs := region.filterMap fun x => faultMb (m.imgOf x) x m.tick.k }) s

/-! ### Core faults -/

/-- R196 to R198: the collier acts on the core faults of the step: events, void, return to the last commit, rerun with the
faulting microbatches voided. During a rerun the cord stops and the module enters Fault (R197). After the commit vote the
fault waits for the flip. -/
def execCoreFault (s : State) : Host.Outcome State Fault Refusal :=
  lift (fun m =>
    if (m.flt.recs.isEmpty && !m.flt.hit) || m.train.voted || m.pow.state != .running then m else m.voidStep true) s

/-! ### Hearth faults -/

def Mod.die (m : Mod) (d : Nat) : DieSt := if d = 0 then m.dieN else m.dieS
def Mod.setDie (m : Mod) (d : Nat) (x : DieSt) : Mod := if d = 0 then { m with dieN := x } else { m with dieS := x }

/-- The setting of a die under its protections. -/
def DieSt.limit (x : DieSt) (k : Nat) : Nat := Nat.min k (Nat.min (x.prot.getD 16) (x.powK.getD 16))

/-- The settings in force: what was asked for, under the protections; under a static cord both dies in use run at the slower one
(R269, R270; log entry 104). -/
def Mod.settleK (m : Mod) : Mod :=
  let n := m.dieN.limit m.dieN.base
  let s := m.dieS.limit m.dieS.base
  let one := m.cord.inst.isSome && cStatic m.img && cDies m.img = 0 && m.dieClocks 0 && m.dieClocks 1
  { m with dieN := { m.dieN with k := if one then Nat.min n s else n }, dieS := { m.dieS with k := if one then Nat.min n s else s } }

/-- Physical column of a logical hearth (R53). -/
def Mod.physCol (m : Mod) (h : Nat) : Nat := if hCol h < (m.die (hDie h)).f then hCol h else hCol h + 1

/-- One hearth stops (R58): status word, urgent condition, event. -/
def Mod.stopHearth (m : Mod) (h cause : Nat) : Mod :=
  (m.setHearth h { m.hearth h with stopped := true, cause := cause, urgent := true }).event 0x8202
    (h + 2 ^ 24 * cause) (m.physCol h)

/-- What a physical hearth holds (R53): the unused spare column is kept by row, a retired column holds nothing. -/
def Mod.physHearth (m : Mod) (d row col : Nat) : Hearth :=
  let x := m.die d
  if col = x.f then (if x.f = 64 then tGet {} x.spares row else {})
  else m.hearth (hPack d row (if col < x.f then col else col - 1))

/-- The logical hearths of a die whose physical hearth changes with the column map: those at column f and behind it. -/
def Mod.movers (m : Mod) (d f : Nat) : List Nat :=
  let near := (m.grid.hearths.map Prod.fst).flatMap fun h => [h, h + 1, h - 1]
  ((near ++ (m.die d).spares.map fun p => hPack d p.1 63).eraseDups).filter fun h =>
    decide (h < 8192 ∧ hDie h = d ∧ f ≤ hCol h)

/-- A logical hearth on another physical hearth: its memories start empty (R60); what the status word and the scrub have of
the physical hearth is that hearth's own (R48, R62). The frozen record of the last tick is the logical hearth's (R244). -/
def Mod.settleOn (m : Mod) (h : Nat) (p : Hearth) : Mod :=
  m.setHearth h { gen := (m.hearth h).gen, repPrev := (m.hearth h).repPrev, scrub := p.scrub, passes := p.passes, ce := p.ce, cause := p.cause, addrFlt := p.addrFlt }

/-- The column map of a die takes physical column f (R53, R56); causes are kept by row for the retired column (R63). -/
def Mod.remap (m : Mod) (d f : Nat) (fs : List (Nat × Nat)) : Mod :=
  let x := m.die d
  let moved := (m.movers d f).map fun h => (h, m.physHearth d (hRow h) (hCol h + 1))
  let m := m.setDie d { x with f := f, cause := fs.foldl (fun t p => tSet 0 t (hRow p.1) p.2) [], spares := [], words := [] }
  let m := { m with pow := { m.pow with remaps := m.pow.remaps + 1 } }
  let m := fs.foldl (fun m p => m.journal 2 (leBytes 4 (hPack d (hRow p.1) 0 + 2 ^ 16 * f) ++ leBytes 4 p.2)) m
  let m := m.event 0x8203 d f
  moved.foldl (fun m p => m.settleOn p.1 p.2) m

/-- What faults on one die ask for (R59): none, a column to retire, or the loss of the module. -/
inductive DieFault where
  | none
  | column (f : Nat)
  | loss
deriving DecidableEq, Repr

/-- On a draining die faults are recorded and nothing more (R273). -/
def Mod.judgeDie (m : Mod) (d : Nat) (fs : List (Nat × Nat)) : DieFault :=
  let fs := if m.dieRuns d then fs else []
  let cols := ((fs.filter fun p => hDie p.1 = d).map fun p => m.physCol p.1).eraseDups
  let x := m.die d
  match cols with
  | [] => .none
  | [c] => if x.f = 64 && x.sound then .column c else .loss
  | _ => .loss

def Mod.remapDie (m : Mod) (d : Nat) (fs : List (Nat × Nat)) (j : DieFault) : Mod :=
  match j with
  | .column c => m.remap d c (fs.filter fun p => hDie p.1 = d)
  | _ => m

/-- The recovery of the cord after a remap: the step is voided and rerun. After the commit vote the step still commits, only the
hearths are reset, and core faults wait for the step that they belong to (R198). With no attempt to void, in Damped or Draining,
the moved hearths are installed afresh (R59, R60); a switch in progress is settled with them (R241). -/
def Mod.hearthRecover (m : Mod) (moved : Nat → Bool) : Mod :=
  if m.cord.inst.isNone then m
  else if m.pow.state != .running then
    let late := m.cord.succ.isSome && m.lastDone m.img
    let sw := m.cord.switched
    let m := m.settleSwitch
    m.installOn m.img m.cord.gen fun h => moved h || (if late then !sw.contains h else sw.contains h)
  else
    let m := { m with clus := { m.clus with recov := true } }
    if m.train.voted then
      let m := m.settleSwitch
      m.installOn m.img m.cord.gen (fun _ => true)
    else m.voidRerun true

/-- Hearth faults found in one cycle (R58, R59): the hearths stop, and each die's state decides the outcome. -/
def Mod.hearthFaults (m : Mod) (fs : List (Nat × Nat)) : Mod :=
  let jn := m.judgeDie 0 fs
  let js := m.judgeDie 1 fs
  let m := fs.foldl (fun m p => m.stopHearth p.1 p.2) m
  if jn = .loss || js = .loss then m.loseSelf 0x8202
  else if jn = .none && js = .none then m
  else
    let was := fun (h : Nat) => (m.die (hDie h)).f
    let m := (m.remapDie 0 fs jn).remapDie 1 fs js
    m.hearthRecover fun h => decide ((m.die (hDie h)).f < was h ∧ (m.die (hDie h)).f ≤ hCol h)

/-- A read of some array of a hearth corrects a single-bit error (R31). -/
def Hearth.corrected (x : Hearth) : Hearth := { x with ce := satAdd 255 x.ce 1 }

/-- R31, R57 to R61: what the error checks of hearths find in one cycle, each with its code: 1 to 8 the causes of a hearth fault, 0 no
fault, a single-bit error that a read has corrected (log entry 98). -/
def execHearthFault (fs : List (BitVec 13 × Fin 9)) (s : State) : Host.Outcome State Fault Refusal :=
  lift (fun m =>
    let l := (fs.map fun p => (p.1.toNat, p.2.val)).filter fun p => m.dieClocks (hDie p.1)
    let bad := l.filter fun p => p.2 ≠ 0
    if m.pow.state = .off then m
    else
      let m := (l.filter fun p => p.2 = 0).foldl (fun m p => m.setHearth p.1 (m.hearth p.1).corrected) m
      if bad.isEmpty then m else m.hearthFaults bad) s

/-- A hearth after the scrub of its next granule (R48): the pointer wraps after 2,048 granules, a pass. -/
def Hearth.scrubbed (x : Hearth) (corrected : Bool) : Hearth :=
  let n := x.scrub + 1
  let y := if corrected then x.corrected else x
  { y with scrub := n, passes := if n = 0 then satAdd 255 x.passes 1 else x.passes }

/-- R31, R48: patrol scrub of the next granule of a hearth store; `spare`: of the unused spare column's hearth in the row of h;
`found`: 0 sound, 1 a corrected word, 2 an uncorrectable one, which is the hearth fault HS_UE and marks an unused spare unsound
(log entry 83). -/
def execPatrolScrubGranule (h : BitVec 13) (spare : Bool) (found : Fin 3) (s : State) : Host.Outcome State Fault Refusal :=
  lift (fun m =>
    let h := h.toNat
    let d := hDie h
    if m.pow.state = .off || m.pow.state = .kindling || !m.dieClocks d then m
    else if spare then
      let x := m.die d
      if x.f ≠ 64 then m
      else
        let y := { x with spares := tSet {} x.spares (hRow h) ((tGet {} x.spares (hRow h)).scrubbed (found.val = 1)) }
        if found.val = 2 && x.sound then (m.setDie d { y with sound := false }).event 0x8204 d 0 else m.setDie d y
    else
      let m := m.setHearth h ((m.hearth h).scrubbed (found.val = 1))
      if found.val = 2 then m.hearthFaults [(h, 1)] else m) s

end Sys2Proof.Machine
end

