-- ==== Sys2Proof/Machine/Train.lean ====
section
/-! DEFINITION. The shared decision and the step parameter entries (R337 to R343, R366, R409), working copies and the drift audit (R349, R350). -/

namespace Sys2Proof.Machine

/-! ### Buckets and pieces (R358) -/

def pcBucket (e : Nat) : Nat := slice e 19 4
def pcPiece (e : Nat) : Nat := slice e 35 20
def pcOwner (e : Nat) : Nat := slice e 47 36
def pcTensor (e : Nat) : Nat := slice e 63 48
def pcFirst (e : Nat) : Nat := slice e 103 64
def pcCount (e : Nat) : Nat := slice e 143 104
def pcHs (e : Nat) : Bool := bitAt e 144
def pcHearth (e : Nat) : Nat := slice e 157 145
def pcAddr (e : Nat) : Nat := slice e 199 160
def bkGroup (e : Nat) : Nat := slice e 31 20
def bkTick (e : Nat) : Nat := slice e 47 32

/-- Piece entries, in section order. -/
def Mod.pieces (m : Mod) : List Nat := m.buckets.filter fun e => slice e 3 0 = 5
def Mod.bucket? (m : Mod) (b : Nat) : Option Nat := m.buckets.find? fun e => slice e 3 0 = 4 && slice e 19 4 = b
def Mod.piece? (m : Mod) (b p : Nat) : Option Nat := m.pieces.find? fun e => pcBucket e = b && pcPiece e = p
/-- Ranks of a group, by position. -/
def Mod.members (m : Mod) (g : Nat) : List Nat :=
  (m.buckets.filter fun e => slice e 3 0 = 3 && slice e 15 4 = g).map fun e => slice e 39 28

/-- Pieces of a tensor in ascending (bucket, piece) order. -/
def insPiece (x : Nat) : List Nat → List Nat
  | [] => [x]
  | y :: t => if pcBucket x < pcBucket y ∨ (pcBucket x = pcBucket y ∧ pcPiece x ≤ pcPiece y) then x :: y :: t
              else y :: insPiece x t

def Mod.piecesOf (m : Mod) (tensor : Nat) : List Nat := (m.pieces.filter fun e => pcTensor e = tensor).foldr insPiece []

/-! ### The shared decision (R341, R366) -/

/-- The record of a piece in a set of summaries. -/
def recOf (sums : List SumHeld) (b p : Nat) : Option PartRec :=
  (sums.filter fun s => s.bucket = b).findSome? fun s => s.recs.find? fun r => r.piece = p

/-- Every summary of every bucket that holds the tensor is held: every piece of those buckets has its record. -/
def Mod.sumsOf (m : Mod) (sums : List SumHeld) (tensor : Nat) : Bool :=
  let bs := ((m.piecesOf tensor).map pcBucket).eraseDups
  !bs.isEmpty && (m.pieces.filter fun e => bs.contains (pcBucket e)).all fun e => (recOf sums (pcBucket e) (pcPiece e)).isSome

/-- Linear interpolation between the learning-rate knots (R341). -/
def schedLr (n : Nat) : List (Nat × Word) → Word
  | [] => 0
  | [k] => k.2
  | k :: l :: t =>
    if n ≤ k.1 then k.2
    else if n < l.1 then
      f32add k.2 (f32div (f32mul (f32sub l.2 k.2) (f32ofNat (n - k.1))) (f32ofNat (l.1 - k.1)))
    else schedLr n (l :: t)

def Mod.knots (m : Mod) : List (Nat × Word) :=
  (m.params.filter fun e => slice e 3 0 = 2).map fun e => (slice e 95 32, BitVec.ofNat 32 (slice e 127 96))

/-- A word field of a PARAMS entry. -/
def wf (e hi lo : Nat) : Word := BitVec.ofNat 32 (slice e hi lo)
def Mod.parHdr (m : Mod) : Nat := m.params.headD 0

def Mod.tensor (m : Mod) (t : Nat) : TensorSt := tGet {} m.train.tensors t
def Mod.setTensor (m : Mod) (t : Nat) (x : TensorSt) : Mod :=
  { m with train := { m.train with tensors := tSet {} m.train.tensors t x } }

/-- R341 for one tensor, from the flag, S and CNT. -/
def Mod.decideFrom (m : Mod) (tensor : Nat) (flag : Bool) (s : Word) (cnt : Nat) : Decision :=
  let rec' := m.tensorRec tensor
  let a := f32div f32one (f32mul m.train.ls (f32ofNat cnt))
  let nrm := f32mul a (f32sqrt s)
  let cmode := slice rec' 33 32
  let cmax := wf rec' 127 96
  let c := if (cmode = 1 && f32lt cmax nrm) || (cmode = 2 && f32lt 0 nrm) then f32div cmax nrm else f32one
  let x := m.tensor tensor
  let b1 := wf rec' 159 128
  let b2 := wf rec' 191 160
  let bp1 := f32mul x.bp1 b1
  let bp2 := f32mul b2 x.bp2
  { skip := flag || decide (cnt = 0), nonfin := flag, nrm := nrm, gscale := f32mul a c,
    lr := f32mul (wf rec' 95 64) (schedLr m.train.step m.knots), bp1 := bp1, bp2 := bp2,
    bc1 := f32div f32one (f32sub f32one bp1), bc2 := f32div f32one (f32sub f32one bp2),
    omd := if m.train.step < slice m.parHdr 319 256 then f32one else f32sub f32one (wf m.parHdr 255 224) }

/-- R366 for one tensor, from the summaries held. -/
def Mod.judge (m : Mod) (sums : List SumHeld) (tensor : Nat) : Decision :=
  let ps := m.piecesOf tensor
  let bs := (ps.map pcBucket).eraseDups
  let flag := sums.any fun s => bs.contains s.bucket && s.nonfin
  let recs := ps.filterMap fun e => recOf sums (pcBucket e) (pcPiece e)
  let s := f64to32 (recs.foldl (fun a r => f64add a r.sumsq) 0)
  let cnt := match recs with
    | r :: _ => r.samples
    | [] => 0
  m.decideFrom tensor (flag || f32nonfin s) s cnt

/-- The decision for a tensor, taken once in the attempt; a skip is counted (R342). -/
def Mod.decided (m : Mod) (sums : List SumHeld) (tensor : Nat) : Decision × Mod :=
  match m.train.decided.find? (·.1 = tensor) with
  | some p => (p.2, m)
  | none =>
    let d := m.judge sums tensor
    let m := if d.skip then m.setTensor tensor { m.tensor tensor with skips := (m.tensor tensor).skips + 1 } else m
    (d, { m with train := { m.train with decided := m.train.decided ++ [(tensor, d)],
                                         nfSkip := m.train.nfSkip || (d.skip && d.nonfin) } })

/-- The decisions of every tensor of the step whose summaries are held, entries here or not: every module takes them alike
(R341, R342). -/
def Mod.decideAll (m : Mod) : Mod :=
  ((m.params.filter fun e => slice e 3 0 = 3).map fun e => slice e 31 16).foldl
    (fun m t => if m.sumsOf m.exch.sums t then (m.decided m.exch.sums t).2 else m) m

/-! ### Step parameter entries (R337, R338) -/

/-- The collier's fields of an entry. -/
def entryCollier (step : Nat) (d : Decision) : Nat :=
  2 ^ 16 * b2n d.skip + 2 ^ 64 * (step % 2 ^ 32) + 2 ^ 96 * d.gscale.toNat + 2 ^ 128 * d.lr.toNat +
    2 ^ 352 * d.bc1.toNat + 2 ^ 384 * d.bc2.toNat + 2 ^ 416 * d.omd.toNat

/-- VALID of the entry at a place. -/
def Mod.entryValid (m : Mod) (p : Nat × Nat × Nat × Nat) : Bool := ((m.hsGet p.1 p.2.1 3).getD 2 0).getLsbD 3

/-- Writes an entry, VALID with it. -/
def Mod.writeEntry (m : Mod) (p : Nat × Nat × Nat × Nat) (d : Decision) : Mod :=
  let l := entryLoader p.2.2.1 (m.tensorRec p.2.2.1) (m.keyOf p.2.2.2)
  m.hsPut p.1 p.2.1 (leBytes 64 (l + entryCollier m.train.step d + 2 ^ 19))

/-- Chunks of a run of n bytes (R360). -/
def chunks (n : Nat) : Nat := ceilDiv n 65536

/-- The part of chunk c of a piece that lies in a shard: first element and one past the last, none where they do not meet (R408). -/
def gradPart (e c sh : Nat) : Option (Nat × Nat) :=
  let lo := Nat.max (pcFirst e + 16384 * c) (shFirst sh)
  let hi := Nat.min (Nat.min (pcFirst e + 16384 * (c + 1)) (pcFirst e + pcCount e)) (shFirst sh + shCount sh)
  if lo < hi then some (lo, hi) else none

/-- Every MGRAD chunk of a partner's shard has landed (R409). -/
def Mod.gradHere (m : Mod) (sh : Nat) : Bool :=
  let got := (m.clus.mgrad.filter fun g => g.1 = shTensor sh && g.2.1 = shFirst sh).map fun g => g.2.2
  (m.piecesOf (shTensor sh)).all fun e => (List.range (chunks (4 * pcCount e))).all fun c =>
    match gradPart e c sh with
    | some p => got.contains (4 * (p.1 - shFirst sh))
    | none => true

/-- One entry written if it may be: its summaries are held, its tensor's VALID is not held at 0 (R415), and for a replay entry
the gradient has landed. -/
def Mod.entryStep (m : Mod) (p : Nat × Nat × Nat × Nat) : Mod :=
  let own := shOwner p.2.2.2 = m.self
  let sums := if own then m.exch.sums else m.clus.msums
  let t := p.2.2.1
  if m.entryValid p || m.clus.holdV.contains t || !m.sumsOf sums t || (!own && !m.gradHere p.2.2.2) then m
  else
    let r := m.decided sums t
    r.2.writeEntry p r.1

/-- R338, R341, R366, R409: the collier takes the decisions that the summaries held allow and writes the step parameter entries
that it can, VALID last. -/
def execStepParamWrite (s : State) : Host.Outcome State Fault Refusal :=
  lift (fun m => if !m.train.running then m else (m.entryPlaces.foldl Mod.entryStep m).decideAll) s

/-! ### Working copies (R349) -/

/-- The tensor entry of SHARDS (R335). -/
def Mod.tensorEnt (m : Mod) (t : Nat) : Nat :=
  (m.shards.find? fun e => slice e 3 0 = 4 && slice e 31 16 = t).getD 0

def Mod.workFmt (m : Mod) (t : Nat) : Fmt := (Fmt.ofCode (slice (m.tensorEnt t) 37 34)).getD .bf16

/-- Rounding of element j of a working copy: to nearest even, or stochastic with the keys of the latch; the step key is that
of the last committed step (log entry 37). -/
def Mod.workRnd (m : Mod) (sh flat : Nat) : Rnd :=
  if slice (m.tensorEnt (shTensor sh)) 39 38 = 2 then
    .sto (srBits (BitVec.ofNat 32 (m.keyOf sh)) (BitVec.ofNat 32 m.train.last) (BitVec.ofNat 32 flat) 0)
  else .rne

/-- Block b of 32 elements of a shard's working copy: element bytes and scale byte, from the committed master. -/
def Mod.workBlock (m : Mod) (sh b : Nat) : List Byte × Nat :=
  let f := m.workFmt (shTensor sh)
  let ws := bytesWords 32 (m.hbmRaw (m.cSide (shMaster sh) + 128 * b) 128)
  let ps := (List.zip ws (List.range 32)).map fun p => (f32 p.1, m.workRnd sh (shFirst sh + 32 * b + p.2))
  if f.isFp8 then
    let g := encGroup f ps
    (g.2.flatMap fun e => leBytes 1 e.1, g.1)
  else (ps.flatMap fun p => leBytes (f.width / 8) (Fmt.enc f p.2 p.1).1, 0)

/-- Where block b of a working copy lies: elements first, the scales of a scaled format after all of them (log entry 38). -/
def Mod.workPlace (m : Mod) (sh b : Nat) : Nat × Nat :=
  let f := m.workFmt (shTensor sh)
  (shWork sh + 4 * f.width * b, shWork sh + shCount sh * f.width / 8 + b)

/-- A shard's working copy regenerated (R421). -/
def Mod.regen (m : Mod) (sh : Nat) : Mod :=
  (List.range (shCount sh / 32)).foldl (fun m b =>
    let w := m.workBlock sh b
    let p := m.workPlace sh b
    let m := m.hbmPut p.1 w.1
    if (m.workFmt (shTensor sh)).isFp8 then m.hbmPut p.2 (leBytes 1 w.2) else m) m

def Mod.regenAll (m : Mod) : Mod := m.owned.foldl Mod.regen m

/-! ### The drift audit (R350) -/

/-- Owned blocks in shard entry order: block n as (shard, block). -/
def nthBlock : List Nat → Nat → Option (Nat × Nat)
  | [], _ => none
  | sh :: t, n => if n < shCount sh / 32 then some (sh, n) else nthBlock t (n - shCount sh / 32)

/-- The working copy of a block equals its committed master's conversion. -/
def Mod.blockSame (m : Mod) (sh b : Nat) : Bool :=
  let w := m.workBlock sh b
  let p := m.workPlace sh b
  m.hbmRaw p.1 w.1.length == w.1 &&
    (!(m.workFmt (shTensor sh)).isFp8 || m.hbmRaw p.2 1 == leBytes 1 w.2)

/-- R350: the drift audit of a step, once, after REGEN_TICK of a step whose number is a multiple of AUDIT_PERIOD. -/
def execDriftAudit (s : State) : Host.Outcome State Fault Refusal :=
  lift (fun m =>
    let per := slice m.parHdr 335 320
    let n := slice m.parHdr 351 336
    let total := (m.owned.map fun e => shCount e / 32).sum
    if per = 0 || m.train.audited = some m.train.step || !m.train.running || m.train.step % per ≠ 0 || m.tick.k ≤ slice m.parHdr 367 352 || total = 0 then m
    else
      let bs := (List.range n).filterMap fun i =>
        nthBlock m.owned ((m.train.step * 0x2C1B3C6D + i) % 2 ^ 32 % total)
      let bad := bs.filter fun p => !m.blockSame p.1 p.2
      let m := { m with train := { m.train with audits := m.train.audits + bs.length,
                                                auditBad := m.train.auditBad + bad.length,
                                                audited := some m.train.step } }
      match bad with
      | p :: _ => m.event 0x8402 (shTensor p.1) p.2
      | [] => m) s

end Sys2Proof.Machine
end

