-- ==== Sys2Proof/Machine/Session.lean ====
section
/-! DEFINITION. Sessions with peer modules (R507, R508), attestation reports (R511), address lists (R442). Keys are handles; signatures and certificates are free values (log entry 40). -/

namespace Sys2Proof.Machine

/-! ### Addresses -/

/-- The address of an interface: its IPv6 address, or its IPv4 address where it has none (log entry 41). -/
def IfSt.addr (x : IfSt) : BitVec 128 := if x.ip6 ≠ 0 then x.ip6 else mapped4 x.ip4

/-- The address list of R442: records of 17 B for the up interfaces, at most 32. -/
def Mod.addrList (m : Mod) : List Byte :=
  ((m.eth.ifs.filter fun p => p.2.up).take 32).flatMap fun p => beBytes 1 p.1 ++ beBytes 16 p.2.addr.toNat

def Mod.addrCount (m : Mod) : Nat := Nat.min 32 (m.eth.ifs.filter fun p => p.2.up).length

/-- The n address records of a list. -/
def addrsOf : Nat → List Byte → List (Nat × BitVec 128)
  | 0, _ => []
  | n + 1, l => (beNat (l.take 1), BitVec.ofNat 128 (beNat ((l.drop 1).take 16))) :: addrsOf n (l.drop 17)

/-- The SHARDS module entry of a rank (R335). -/
def Mod.modEnt (m : Mod) (r : Nat) : Nat := (m.shards.find? fun e => slice e 3 0 = 2 && slice e 15 4 = r).getD 0

/-- MODULE_ID of a rank, as REPLACE has updated it (R424). -/
def Mod.idOf (m : Mod) (r : Nat) : Nat :=
  match m.clus.ids.find? (·.1 = r) with
  | some p => p.2
  | none => slice (m.modEnt r) 127 64

/-- Contact address of a rank (R442). -/
def Mod.contact (m : Mod) (r : Nat) : BitVec 128 :=
  let a := tGet 0 m.eth.peers r
  if a ≠ 0 then a else BitVec.ofNat 128 (beNat (leBytes 16 (slice (m.modEnt r) 255 128)))

/-! ### Attestation -/

/-- The 256 B of a report over a nonce (R511). -/
def Mod.report (m : Mod) (nonce : List Byte) : List Byte :=
  leBytes 256 (0x54535441 + 2 ^ 32 + 2 ^ 48 * m.sec.state + 2 ^ 56 * b2n (!m.sec.owner.isEmpty) +
    2 ^ 57 * b2n m.clus.shared + 2 ^ 58 * b2n (m.clus.pair == .widowed) + 2 ^ 59 * b2n (!m.dieN.sound) +
    2 ^ 60 * b2n (!m.dieS.sound) + 2 ^ 61 * b2n m.sec.dbgBind + 2 ^ 64 * m.sec.id + 2 ^ 128 * m.sec.fwVer +
    2 ^ 160 * m.sec.roll + 2 ^ 192 * cId m.img + 2 ^ 256 * m.train.last + 2 ^ 320 * m.time +
    2 ^ 384 * leNat (m.sec.ownerId.take 64) + 2 ^ 896 * leNat (m.sec.fwHash.take 64) + 2 ^ 1408 * leNat (nonce.take 64) +
    2 ^ 1920 * m.sec.jobId)

/-- The 133 B of an uncompressed point of the curve (R495), with free coordinates. -/
def pointBytes (x : Nat) : List Byte := 0x04#8 :: leBytes 132 x

/-- A signature of 132 B, r then s (a free value). -/
def Mod.sign (m : Mod) : List Byte × Mod :=
  let d := m.openVal
  (leBytes 132 d.1, d.2)

/-- The identity certificate, of at most 1,024 B (R497). -/
def Mod.cert (m : Mod) : List Byte := (Config.certOf m.sec.ik m.sec.ak m.sec.id "IL4800-M768" Config.serial).take 1024

/-- A signed report. -/
def Mod.signedReport (m : Mod) (nonce : List Byte) : List Byte × Mod :=
  let r := m.report nonce
  let g := m.sign
  (r ++ g.1, g.2)

/-! ### KEX -/

/-- Ranks with which a session is needed (R507). -/
def Mod.needs (m : Mod) : List Nat :=
  let groups := ((m.buckets.filter fun e => slice e 3 0 = 4).map bkGroup) ++
    ((m.sched.filter fun e => slice e 3 0 = 5).map fun e => slice e 47 36)
  let l := m.partner.toList ++ m.neighbours ++ groups.eraseDups.flatMap m.members ++ m.remotes.map fun e => slice e 32 21
  l.eraseDups.filter fun r => r ≠ m.self && !m.clus.lost.contains r

/-- The rate of an interface in Mb/s, by its port's layout (R432). -/
def Mod.ifRate (m : Mod) (i : Nat) : Nat :=
  match (tGet {} m.eth.ports (i / 4)).layout with
  | 0 => 400000
  | 1 => 200000
  | _ => 100000

/-- The lowest free context from `lo` up to and not with `hi`. -/
def Mod.freeCtx (m : Mod) (lo hi : Nat) : Option Nat :=
  let used := m.eth.qps.map Prod.fst
  ((List.range (Nat.min (used.length + 1) (hi - lo))).map (lo + ·)).find? fun c => !used.contains c

/-- The address that a KEX goes to (R442): the contact address, and after a failure the addresses of the peer's last list in turn. -/
def Mod.kexAddr (m : Mod) (r : Nat) : BitVec 128 :=
  let l := tGet [] m.eth.addrs r
  let n := (m.msess r).tryNo
  if n = 0 || l.isEmpty then m.contact r else (nth (0, 0) l ((n - 1) % l.length)).2

/-- The interface that a packet for an address takes (R442): one whose prefix holds it, or a gateway when none does. -/
def Mod.ifTo (m : Mod) (a : BitVec 128) : Option Nat :=
  match m.eth.ifs.find? fun p => m.eth.nextHop p.1 a = some a with
  | some p => some p.1
  | none => (m.eth.ifs.find? fun p => m.reaches p.1 a).map Prod.fst

/-- The module-pool context of a KEX (R448, R508). -/
def Mod.kexCtx (m : Mod) (r : Nat) : Option Nat := (m.qpOf r kexQp).orElse fun _ => m.freeCtx 0 1024

/-- A KEX message leaves, unsealed, over a module-pool context toward the address in turn (R442, R508); none free, it does not. -/
def Mod.sendKex (m : Mod) (r : Nat) (msg : List Byte) : Mod :=
  match m.kexCtx r with
  | none => m
  | some c =>
    let a := m.kexAddr r
    let paths := (m.ifTo a).toList.map fun i => ({ loc := i, rate := m.ifRate i } : PathSt)
    (m.setQp c { m.qp c with run := .ready, rank := some r, qpn := kexQp, gid := a, paths := paths }).request c
      (psnsOf msg.length) (.kex r msg)

/-- The context of a KEX is released (R508). -/
def Mod.dropKex (m : Mod) (r : Nat) : Mod :=
  { m with eth := { m.eth with qps := m.eth.qps.filter fun p => !(p.2.rank = some r && p.2.qpn = kexQp) } }

/-- KEX1 from the lower rank (R508): type, MODULE_ID, RANK, CORD_ID, EPH, NONCE, address list (log entry 42 for the layout); its fields
are in network byte order (R5). -/
def Mod.startKex (m : Mod) (r : Nat) : Mod :=
  if m.self < r then
    let e := m.draw 1056
    let n := e.2.draw 256
    let m := n.2
    let msg := leBytes 1 1 ++ beBytes 8 m.sec.id ++ beBytes 2 m.self ++ beBytes 8 (cId m.img) ++ pointBytes e.1 ++
      leBytes 32 n.1 ++ leBytes 1 m.addrCount ++ m.addrList
    (m.setMsess r { m.msess r with kex := .sent1, kexAt := m.tick.now, trans := msg }).sendKex r msg
  else m.setMsess r { m.msess r with kexAt := m.tick.now }

/-! ### Queue pairs between modules (R441, R442, R448) -/

/-- The paths between this module and a rank: up interfaces and listed remote interfaces that reach each other (R441, R442). -/
def Mod.pathsTo (m : Mod) (r : Nat) : List PathSt :=
  (m.eth.ifs.filter fun p => p.2.up).flatMap fun p =>
    ((tGet [] m.eth.addrs r).filter fun a => m.reaches p.1 a.2).map fun a =>
      { loc := p.1, rem := a.1, rate := m.ifRate p.1 }

/-- A context's paths brought up to date: those that stay keep their state. -/
def Mod.renewPaths (m : Mod) (c : Nat) : Mod :=
  let x := m.qp c
  match x.rank with
  | none => m
  | some r =>
    if x.qpn = kexQp then m
    else m.setQp c { x with paths := (m.pathsTo r).map fun p =>
      (x.paths.find? fun q => q.loc = p.loc && q.rem = p.rem).getD p }

/-- Contexts of every queue pair to a rank. -/
def Mod.qpsOf (m : Mod) (r : Nat) : List Nat := (m.eth.qps.filter fun p => p.2.rank = some r).map Prod.fst

/-- A spread queue pair to a rank is made, in the module pool for the partner's and tree neighbours' queue pair 0, which the context of
their KEX becomes, else in
the cord pool (R448, R508); the context is the lowest free one, PSNs begin at 0 (log entry 57). -/
def Mod.openQp (m : Mod) (r qp : Nat) : Mod :=
  if (m.qpOf r qp).isSome then m
  else
    let near := qp = 0 && m.watchers.contains r
    match (if near then m.kexCtx r else m.freeCtx 2048 65536) with
    | none => m
    | some c =>
      let x := if near then m.qp c else {}
      (m.setQp c { x with run := .ready, rank := some r, qpn := qp, gid := 0 }).renewPaths c

/-- The queue pairs to a rank: exchange and cluster messages, and each remote window with it. -/
def Mod.openQps (m : Mod) (r : Nat) : Mod :=
  ((m.remotes.filter fun e => slice e 3 0 = 1 && slice e 32 21 = r).map fun e => slice e 20 5).foldl
    (fun m w => m.openQp r (1 + w)) ((m.openQp r 0).dropKex r)

/-- Contexts to a rank are freed. -/
def Mod.closeQps (m : Mod) (r : Nat) : Mod := { m with eth := { m.eth with qps := m.eth.qps.filter fun p => p.2.rank ≠ some r } }

/-- Sessions that are needed and neither open nor being opened begin (R507). -/
def Mod.openSessions (m : Mod) : Mod :=
  m.needs.foldl (fun m r =>
    if (m.msess r).open' then m.openQps r else if (m.msess r).kex != .none then m else m.startKex r) m

/-- The session is open: a new key, counters from 1, its queue pairs, and what has waited goes out, shards of a gather in the next
exchange slot (R381, R508, R510, R512). -/
def Mod.sessionOpen (m : Mod) (r : Nat) : Mod :=
  let d := m.openVal
  let x := d.2.msess r
  let later := x.out.filter fun p => p.2.1.isSome
  let m := (d.2.setMsess r { x with open' := true, key := d.1, tx := [], rx := [], kex := .none, trans := [], tryNo := 0, out := later }).openQps r
  (x.out.filter fun p => p.2.1.isNone).foldl (fun m p => m.sendOut r p) m

/-- A session ends (R507). -/
def Mod.sessionEnd (m : Mod) (r : Nat) : Mod := (m.setMsess r {}).closeQps r

end Sys2Proof.Machine
end

