-- ==== Sys2Proof/Machine/Kop.lean ====
section
/-! DEFINITION. KOP (R465 to R481): datagrams as they are judged, sessions, responses, the invocation of a command and its outcome. A request that is accepted waits in its session; the row of its operation executes it. -/

namespace Sys2Proof.Machine

/-! ### Answers -/

/-- A response to a request of a session: it is kept for 64 SEQs, and the request no longer waits (R470). -/
def Mod.respond (m : Mod) (ses : Nat) (p : Pdu) (status detail : Nat) (value : List Byte) : Mod :=
  let b := Pdu.bytes { p with version := 1, signed := false, resp := true, status := status, detail := detail,
                              len := value.length, value := value }
  let x := m.ksess ses
  let cache := (x.cache ++ [(p.seq, b)]).filter fun c => decide (x.hi < c.1 + 64)
  if x.live then (m.setKsess ses { x with cache := cache, reqs := x.reqs.filter fun q => q.seq ≠ p.seq }).put (.kop ses b)
  else m.put (.kop ses b)

/-- An answer outside any session. -/
def Mod.answer (m : Mod) (p : Pdu) (status : Nat) (value : List Byte) : Mod :=
  m.put (.kop p.session (Pdu.bytes { p with version := 1, signed := false, resp := true, status := status, detail := 0,
                                            len := value.length, value := value }))

/-- Test-Logic-Reset (R556, R559): IDCODE is in the instruction register, the output-enable cells of the boundary register
are 0, the functional logic drives the pins. -/
def tapReset (t : TstSt) : TstSt :=
  let en := (List.range 147).filter fun b => (64 < b && b < 128 && b % 2 = 1) || b = 132 || b = 134 || b = 137
  { t with ir := 1, takes := false, bsr := t.bsr &&& ~~~(BitVec.ofNat 147 (en.map fun b => 2 ^ b).sum) }

/-- Scan closes (R557). -/
def Mod.closeScan (m : Mod) : Mod :=
  match m.tst.scan with
  | none => m
  | some ses => ({ m with tst := { tapReset m.tst with scan := none } }).event 0x8C01 0 ses

/-- A session is closed; nothing of it is kept; scan that it opened closes (R557). -/
def Mod.closeKop (m : Mod) (ses : Nat) : Mod :=
  let m := m.setKsess ses {}
  if m.tst.scan = some ses then m.closeScan else m

/-- Every session closes, at UNBIND (R469, R504), and with its session open scan (R557). -/
def Mod.closeAllKop (m : Mod) : Mod :=
  let m := m.closeScan
  { m with kop := { m.kop with sess := [] } }

/-! ### Datagrams -/

/-- The collier answers KOP: it has started and the module is not Off (R486). -/
def Mod.answers (m : Mod) : Bool := m.pow.collier && m.pow.state != .off

/-- A PDU whose tag fails (R468): dropped, counted, raised at most once per second with the failures since. -/
def Mod.kopTagFail (m : Mod) : Mod :=
  let n := m.kop.tagSec + 1
  let m := { m with kop := { m.kop with tagFail := m.kop.tagFail + 1, tagSec := n } }
  let due := match m.kop.tagAt with
    | none => true
    | some t => decide (t + 1000000000 ≤ m.tick.now)
  if due then ({ m with kop := { m.kop with tagAt := some m.tick.now, tagSec := 0 } }).event 0x8005 n 0 else m

/-- An ACK releases the PDU of that module sequence; it is never answered (R467). -/
def Mod.ackSeq (m : Mod) (ses seq : Nat) : Mod :=
  let x := m.ksess ses
  m.setKsess ses { x with unacked := x.unacked.filter fun u => u.seq ≠ seq }

/-- A request of a session whose tag verifies, judged by SEQ (R470). -/
def Mod.judgeSeq (m : Mod) (p : Pdu) (pdu : List Byte) (sig : Bool) : Mod :=
  let x := m.ksess p.session
  if p.seq = 0 || decide (p.seq + 64 ≤ x.hi) then { m with kop := { m.kop with seqOld := m.kop.seqOld + 1 } }
  else match x.cache.find? (fun c => c.1 = p.seq) with
    | some c => m.put (.kop p.session c.2)
    | none =>
      if x.reqs.any (fun q => q.seq = p.seq) then m
      else
        let x := { x with hi := Nat.max x.hi p.seq, recvd := (x.recvd ++ [p.seq]).filter fun q => decide (Nat.max x.hi p.seq < q + 64) }
        let m := m.setKsess p.session x
        if 16 ≤ x.reqs.length then m.respond p.session p 0x1A 0 []
        else if p.op = 0 || p.op = 7 || p.op = 8 || decide (10 < p.op) || p.version ≠ 1 then m.respond p.session p 0x10 0 []
        else m.setKsess p.session { x with reqs := x.reqs ++ [{ seq := p.seq, pdu := pdu, sig := sig && p.signed }] }

/-- The owner signature of a PDU verifies: over MODULE_ID, in network byte order (R5), and header and value with STATUS 0 (R468). -/
def Mod.pduSigned (m : Mod) (p : Pdu) (pdu : List Byte) : Bool :=
  let n := 32 + p.len
  !m.sec.owner.isEmpty &&
    ecdsaOk m.sec.owner (beBytes 8 m.sec.id ++ pdu.take 2 ++ [0, 0] ++ (pdu.drop 4).take (n - 4)) ((pdu.drop n).take 132)

/-- A datagram is KOP's where it comes by an up interface to UDP port 51480 (R465); its sender is noted. -/
def Mod.kopFrom (m : Mod) (u : UdpIn) : Option Mod :=
  if m.answers && (m.iface u.iface.val).up && u.dport.toNat = 51480 then
    some { m with kop := { m.kop with src := (u.iface.val, u.addr, u.sport.toNat) } }
  else none

/-- Fragmented, over 1,440 B or under 48 B (R465). -/
def kopSize (pdu : List Byte) (frag : Bool) : Bool := frag || decide (1440 < pdu.length) || decide (pdu.length < 48)

/-- A datagram is dropped and counted (R465). -/
def Mod.kopDrop (m : Mod) : Mod := { m with kop := { m.kop with drops := m.kop.drops + 1 } }

/-- R465 to R470: a datagram arrives (`u`: by which interface, from where, to which port). `pdu` is its bytes, the tag included;
`frag`: it is fragmented; `tagOk`: its tag verifies. An owner signature is verified here, from the bytes (R468). An OPEN takes its own
row; an accepted request waits for the row of its operation. -/
def execKopDatagramReceive (u : UdpIn) (pdu : List Byte) (frag tagOk : Bool) (s : State) :
    Host.Outcome State Fault Refusal :=
  lift (fun m =>
    match m.kopFrom u with
    | none => m
    | some m =>
      let p := Pdu.ofBytes pdu
      if kopSize pdu frag then m.kopDrop
      else if p.op = 1 then m
      else if !(m.ksess p.session).live then m.answer p 0x11 []
      else if !tagOk then m.kopTagFail
      else
        let m := m.setKsess p.session { m.ksess p.session with heard := m.tick.now, src := m.kop.src }
        if p.op = 9 then m.ackSeq p.session p.seq
        else if pdu.length < 48 + p.len + (if p.signed then 132 else 0) then
          m.judgeSeq { p with version := 0 } pdu false
        else m.judgeSeq p pdu (m.pduSigned p pdu)) s

/-! ### Sessions -/

/-- Sessions of a role. -/
def Mod.roleCount (m : Mod) (r : Nat) : Nat := (m.kop.sess.filter fun p => p.2.live && p.2.role = r).length

/-- A session identifier that is not 0 and not in use, from a draw (log entry 54). -/
def Mod.freeSession (m : Mod) (d : Nat) : Nat :=
  (((List.range 66).map fun i => (d + i) % 2 ^ 32).find? fun n => n ≠ 0 && !(m.ksess n).live).getD 1

/-- The role that the value of an OPEN asks for is granted (R503, R505): the credential's signature is over MODULE_ID, ROLE, CLIENT_EPH and
CLIENT_NONCE; `svcOk`: a Service certificate's chain and the signature under its key verify. -/
def Mod.grants (m : Mod) (value : List Byte) (svcOk : Bool) : Bool :=
  let cred := value.drop 168
  let msg := beBytes 8 m.sec.id ++ value.take 166
  match beNat (value.take 1) with
  | 0 => true
  | 1 => !m.sec.owner.isEmpty && cred.length = 265 && m.sec.opList.contains (sha512 (cred.take 133)) &&
      ecdsaOk (cred.take 133) msg (cred.drop 133)
  | 2 => !m.sec.owner.isEmpty && cred.length = 132 && ecdsaOk m.sec.owner msg cred
  | 3 => svcOk
  | _ => false

/-- R465, R466, R469, R505: an OPEN arrives, with no tag. `pdu` is the datagram, whole: a fragmented
one is the row of datagrams. `svcOk`: the credential of a Service session verifies. -/
def execOpen (u : UdpIn) (pdu : List Byte) (svcOk : Bool) (s : State) :
    Host.Outcome State Fault Refusal :=
  lift (fun m =>
    match m.kopFrom u with
    | none => m
    | some m =>
    let p := Pdu.ofBytes pdu
    let value := p.value
    if kopSize pdu false then m.kopDrop
    else if p.op ≠ 1 then m
    else if p.version ≠ 1 || pdu.length < 32 + p.len then m.answer p 0x10 []
    else
      let role := beNat (value.take 1)
      let cred := value.drop 168
      if value.length < 168 || beNat ((value.drop 166).take 2) ≠ cred.length then m.answer p 0x15 []
      else if 3 < role then m.answer p 0x16 []
      else if !m.grants value svcOk || !ecOn ((value.drop 1).take 133) then m.answer p 0x12 []
      else if decide (64 ≤ (m.kop.sess.filter fun q => q.2.live).length) || (role = 2 && decide (4 ≤ m.roleCount 2)) ||
          (role = 3 && decide (2 ≤ m.roleCount 3)) then m.answer p 0x1E []
      else
        let d := m.draw 32
        let e := d.2.draw 1056
        let n := e.2.draw 256
        let k := n.2.openVal
        let g := k.2.sign
        let m := g.2
        let id := m.freeSession d.1
        let x : KSess := { live := true, role := role, key := k.1, heard := m.tick.now, src := m.kop.src,
                           cred := if role = 1 then sha512 (cred.take 133) else [] }
        let m := (m.setKsess id x).event 0x8002 id role
        m.answer { p with session := id } 0
          (beBytes 1 role ++ beBytes 8 m.sec.id ++ pointBytes e.1 ++ leBytes 32 n.1 ++ g.1)) s

/-- The request of a session that waits under a SEQ. -/
def Mod.req? (m : Mod) (ses seq : Nat) : Option KReq := ((m.ksess ses).reqs.find? fun q => q.seq = seq)

/-- Executes a waiting request of one operation. -/
def Mod.withReq (m : Mod) (ses seq op : Nat) (f : Mod → Pdu → Bool → Mod) : Mod :=
  if !m.answers then m
  else match m.req? ses seq with
    | none => m
    | some q =>
      let p := Pdu.ofBytes q.pdu
      if p.op = op then f m p q.sig else m

/-- R467: CLOSE. The module answers, then forgets the session. -/
def execClose (ses seq : BitVec 32) (s : State) : Host.Outcome State Fault Refusal :=
  lift (fun m => m.withReq ses.toNat seq.toNat 2 fun m p _ =>
    ((m.respond ses.toNat p 0 0 []).closeKop ses.toNat).event 0x8003 ses.toNat 0) s

/-- R467: KEEPALIVE, answered with STATUS 0. -/
def execKeepalive (ses seq : BitVec 32) (s : State) : Host.Outcome State Fault Refusal :=
  lift (fun m => m.withReq ses.toNat seq.toNat 10 fun m p _ => m.respond ses.toNat p 0 0 []) s

/-- R467, R471: an ACK whose tag verifies, for a module sequence of a session. -/
def execAck (ses seq : BitVec 32) (s : State) : Host.Outcome State Fault Refusal :=
  lift (fun m =>
    if !m.answers || !(m.ksess ses.toNat).live then m
    else (m.setKsess ses.toNat { m.ksess ses.toNat with heard := m.tick.now }).ackSeq ses.toNat seq.toNat) s

/-- R469: a session that has received no verified PDU for 60 s is closed. -/
def execSessionTimeout (ses : BitVec 32) (s : State) : Host.Outcome State Fault Refusal :=
  lift (fun m =>
    let x := m.ksess ses.toNat
    if x.live && decide (x.heard + 60000000000 ≤ m.tick.now) then (m.closeKop ses.toNat).event 0x8004 ses.toNat 0 else m) s

/-- R471: 20 ms after a send without its ACK the PDU goes out again, at most 3 times; then a subscription's GAP is set. -/
def execNotifyRetransmit (ses seq : BitVec 32) (s : State) : Host.Outcome State Fault Refusal :=
  lift (fun m =>
    let x := m.ksess ses.toNat
    match x.unacked.find? (fun u => u.seq = seq.toNat) with
    | none => m
    | some u =>
      if u.sends < 4 then
        (m.setKsess ses.toNat { x with unacked := x.unacked.map fun v =>
          if v.seq = u.seq then { v with sends := v.sends + 1 } else v }).put (.kop ses.toNat u.pdu)
      else
        let subs := x.subs.map fun v => if some v.no = u.sub then { v with gap := true } else v
        m.setKsess ses.toNat { x with unacked := x.unacked.filter (fun v => v.seq ≠ u.seq), subs := subs }) s

/-- R467: UNSUBSCRIBE ends the subscription that SUB and ELEM[15:0] name: SUB above the 16 bits of the number (log entry 54). -/
def execUnsubscribe (ses seq : BitVec 32) (s : State) : Host.Outcome State Fault Refusal :=
  lift (fun m => m.withReq ses.toNat seq.toNat 6 fun m p _ =>
    if m.pow.state = .kindling then m.respond ses.toNat p 0x1B 0 []
    else
      let x := m.ksess ses.toNat
      let n := 65536 * p.sub + p.elem % 65536
      if x.subs.any (fun v => v.no = n) then
        (m.setKsess ses.toNat { x with subs := x.subs.filter fun v => v.no ≠ n }).respond ses.toNat p 0 0 []
      else m.respond ses.toNat p 0x14 0 []) s

/-! ### Commands (R478, R479) -/

/-- What a command's own rule makes of an invocation: STATUS (2: accepted, the outcome follows), DETAIL, result bytes, and the
state after. -/
structure CmdOut where
  status : Nat
  detail : Nat := 0
  result : List Byte := []
  m      : Mod

/-- Done at once. -/
def CmdOut.ok (m : Mod) : CmdOut := { status := 0, m := m }
/-- Refused: nothing changes. -/
def CmdOut.no (m : Mod) (status detail : Nat) : CmdOut := { status := status, detail := detail, m := m }
/-- Accepted: a RESULT follows. -/
def CmdOut.go (m : Mod) : CmdOut := { status := 2, m := m }

def Mod.cmd (m : Mod) (i : Nat) : KCmd := tGet {} m.kop.cmds i
def Mod.setCmd (m : Mod) (i : Nat) (x : KCmd) : Mod := { m with kop := { m.kop with cmds := tSet {} m.kop.cmds i x } }

/-- The commands of Trust and Keys share one busy flag (R523). -/
def Mod.cmdBusy (m : Mod) (i : Nat) : Bool :=
  if 0x1413 ≤ i ∧ i ≤ 0x141C then (List.range 10).any fun k => (m.cmd (0x1413 + k)).busy else (m.cmd i).busy

/-- Every role. -/
def anyRole : List Nat := [0, 1, 2, 3]

/-- An invocation of command i by a waiting SET of its ARG: state (R486), role, signature, busy and length are judged in this
order, then the command's own rule. `inFault`: the command's rule accepts or judges it in Fault; `len`: the argument has its
length. -/
def Mod.invoke (m : Mod) (ses seq i : Nat) (roles : List Nat) (inFault : Bool) (len : List Byte → Bool)
    (body : Mod → List Byte → CmdOut) : Mod :=
  m.withReq ses seq 4 fun m p sig =>
    let role := (m.ksess ses).role
    if p.index ≠ i || p.sub ≠ 1 then m
    else if p.count ≠ 1 then m.respond ses p 0x10 0 []
    else if m.pow.state = .kindling || (m.pow.state = .fault && !inFault) then m.respond ses p 0x1B 0 []
    else if !roles.contains role then m.respond ses p 0x13 0 []
    else if role = 2 && roles ≠ anyRole && !sig then m.respond ses p 0x12 0 []
    else if m.cmdBusy i then m.respond ses p 0x1A 0 []
    else if !len p.value then m.respond ses p 0x15 0 []
    else
      let o := body m p.value
      let c : KCmd := { busy := o.status = 2, status := o.status, detail := o.detail, result := o.result, ses := ses, arg := p.value }
      let c := if o.status = 2 then { c with status := (m.cmd i).status, detail := (m.cmd i).detail, result := (m.cmd i).result }
        else { c with arg := [] }
      (o.m.setCmd i c).respond ses p o.status o.detail o.result

/-- The final outcome of an accepted command: LAST_STATUS and the rest, and a RESULT while its session is open (R478, R494). -/
def Mod.finish (m : Mod) (i status detail : Nat) (result : List Byte) : Mod :=
  let c := m.cmd i
  if !c.busy then m
  else
    let m := m.setCmd i { busy := false, status := status, detail := detail, result := result, ses := c.ses, arg := [] }
    if (m.ksess c.ses).live then m.originate c.ses 8 status detail none result i else m

end Sys2Proof.Machine
end

