-- ==== Sys2Proof/Machine/Exchange.lean ====
section
/-! DEFINITION. The gradient exchange (chapter 12): buckets at their exchange tick, chunks and summaries in the exchange slots, credits, the owner's addition, judgement of messages, mirror traffic of the owner (R408). -/

namespace Sys2Proof.Machine

/-! ### LOC -/

/-- n bytes of a piece's LOC from an offset (R355). -/
def Mod.locRead (m : Mod) (e off n : Nat) : List Byte :=
  if pcHs e then m.hsGet (pcHearth e) (pcAddr e + off) n else m.hbmRead (pcAddr e + off) n

def Mod.locWrite (m : Mod) (e off : Nat) (b : List Byte) : Mod :=
  if pcHs e then (m.hsPut (pcHearth e) (pcAddr e + off) b).count (pcHearth e) 10 b.length else m.hbmWrite (pcAddr e + off) b

/-- The die that holds a piece's LOC runs (R267, R268). -/
def Mod.locRuns (m : Mod) (e : Nat) : Bool :=
  if pcHs e then m.dieRuns (hDie (pcHearth e)) else m.dieRuns (m.dieAt (m.view (pcAddr e)))

/-- The elements of a piece. -/
def Mod.locWords (m : Mod) (e : Nat) : List Word := bytesWords (pcCount e) (m.locRead e 0 (4 * pcCount e))

/-- A contribution added into LOC, element by element (R364). -/
def Mod.locAdd (m : Mod) (e off : Nat) (b : List Byte) : Mod :=
  let n := b.length / 4
  m.locWrite e off (wsBytes (addWords (bytesWords n (m.locRead e off b.length)) (bytesWords n b)))

/-- Bytes of chunk c of a run of n (R360). -/
def chunkLen (n c : Nat) : Nat := Nat.min 65536 (n - 65536 * c)

/-! ### Sending -/

/-- Messages that wait go out as credits allow, in order for each rank. -/
def Mod.flushEx (m : Mod) : Mod :=
  let w := m.exch.waiting
  w.foldl (fun m p => m.sendEx p.1 p.2) { m with exch := { m.exch with waiting := [] } }

/-- A CONTRIB chunk, read from LOC (R360, R362). -/
def Mod.chunkMsg (m : Mod) (e c : Nat) : ExMsg :=
  let n := chunkLen (4 * pcCount e) c
  { kind := 1, nonfin := (m.locWords e).any f32nonfin, bucket := pcBucket e, sender := m.self, attempt := m.train.attempt,
    piece := pcPiece e, step := m.train.step, chunk := c, len := n,
    samples := ((m.exch.words.find? (·.1 = pcBucket e)).map Prod.snd).getD 0, tensor := pcTensor e,
    first := pcFirst e + 16384 * c, body := m.locRead e (65536 * c) n }

/-- The chunks that are due go out in order; one whose LOC cannot be read or whose owner has no credit waits, and with it those of its
bucket behind it (R360). `held`: buckets of which a chunk waits. -/
def sendChunks : List (Nat × Nat × Nat) → List Nat → Mod → Mod
  | [], _, m => m
  | q :: l, held, m =>
    match m.piece? q.1 q.2.1 with
    | none => sendChunks l held m
    | some e =>
      if held.contains q.1 || !m.locRuns e || !m.mayEx (pcOwner e) then
        sendChunks l (q.1 :: held) { m with exch := { m.exch with toSend := m.exch.toSend ++ [q] } }
      else sendChunks l held (m.sendEx (pcOwner e) (m.chunkMsg e q.2.2))

/-- Shards of a gather whose session was not open when they were written go out (R381, R508). -/
def Mod.flushGathers (m : Mod) : Mod :=
  (m.sec.sess.filter fun p => p.2.open').foldl (fun (m : Mod) p =>
    p.2.out.foldl (fun (m : Mod) x => m.sendOut p.1 x) (m.setMsess p.1 { m.msess p.1 with out := [] })) m

/-- A summary's messages may go out: tick x + 1 has come (R365). -/
def Mod.sumReady (m : Mod) (x : ExMsg) : Bool := (m.bucket? x.bucket).any fun e => decide (bkTick e < m.tick.k)

/-- An exchange slot: the messages that wait, the summaries that are ready, the chunks in order (R360, R365, R381). What a slot's
length lets through is not counted (log entry 44). -/
def Mod.runSlot (m : Mod) : Mod :=
  let m := m.flushGathers.flushEx
  let out := m.exch.sumsOut.filter fun p => m.sumReady p.2
  let m := out.foldl (fun m p => m.sendEx p.1 p.2)
    { m with exch := { m.exch with sumsOut := m.exch.sumsOut.filter fun p => !m.sumReady p.2 } }
  sendChunks m.exch.toSend [] { m with exch := { m.exch with toSend := [] } }

/-- A bucket reaches its exchange tick (R360): the sample word is read, the chunks of the pieces that others own are due,
in ascending order of piece. -/
def Mod.startBucket (m : Mod) (e : Nat) : Mod :=
  let b := slice e 19 4
  let w := (mWord (m.hearth (slice e 76 64)).hs (slice e 93 77)).toNat
  let ps := (m.pieces.filter fun p => pcBucket p = b && pcOwner p != m.self).foldr insPiece []
  let cs := ps.flatMap fun p => (List.range (chunks (4 * pcCount p))).map fun c => (b, pcPiece p, c)
  { m with exch := { m.exch with open' := m.exch.open' ++ [b], words := m.exch.words ++ [(b, w)],
                                 toSend := m.exch.toSend ++ cs } }

/-- Buckets whose exchange tick is k. -/
def Mod.startBuckets (m : Mod) (k : Nat) : Mod :=
  (m.buckets.filter fun e => slice e 3 0 = 4 && bkTick e = k).foldl Mod.startBucket m

/-! ### Receiving -/

/-- A receive slot of a sender is free again (R361). -/
def Mod.freeSlot (m : Mod) (r : Nat) : Mod :=
  { m with exch := { m.exch with freed := tSet 0 m.exch.freed r (tGet 0 m.exch.freed r + 1) } }

/-- Where a message's STEP and ATTEMPT stand against the receiver's (R368). -/
inductive Age where
  | old | now | newAttempt | newStep
deriving DecidableEq, Repr

/-- Attempts count modulo 16: the eight that follow are newer (log entry 45). -/
def Mod.age (m : Mod) (step attempt : Nat) : Age :=
  if step < m.train.step then .old
  else if m.train.step < step then .newStep
  else
    let d := (attempt + 16 - m.train.attempt) % 16
    if d = 0 then .now else if d ≤ 8 then .newAttempt else .old

/-- The step is voided because another module has voided it (R371). -/
def Mod.voidByPeer (m : Mod) : Mod := if m.train.running || m.train.voted then m.voidStep false else m

def Mod.hold (m : Mod) (x : ExMsg) : Mod := { m with exch := { m.exch with held := m.exch.held ++ [x] } }
def Mod.exStale (m : Mod) : Mod := { m with exch := { m.exch with stale := m.exch.stale + 1 } }

/-- A CONTRIB of the current attempt (R364, R368, R370). -/
def Mod.takeContrib (m : Mod) (x : ExMsg) : Mod :=
  match m.piece? x.bucket x.piece with
  | none => (((m.event 0x8404 (x.bucket + 2 ^ 16 * x.sender) x.piece).freeSlot x.sender)).abandon 0x8404
  | some e =>
    if pcOwner e ≠ m.self || x.tensor ≠ pcTensor e || x.first ≠ pcFirst e + 16384 * x.chunk ||
        x.len ≠ chunkLen (4 * pcCount e) x.chunk || x.body.length ≠ x.len then
      ((m.event 0x8404 (x.bucket + 2 ^ 16 * x.sender) x.piece).freeSlot x.sender).abandon 0x8404
    else if !m.exch.open'.contains x.bucket || !m.locRuns e then m.hold x
    else if m.exch.got.contains (x.bucket, x.piece, x.sender, x.chunk) then
      ({ m with exch := { m.exch with dup := m.exch.dup + 1 } }).freeSlot x.sender
    else
      let m := m.locAdd e (65536 * x.chunk) x.body
      let s := m.exch.samples
      let known := s.any fun q => q.1 = x.bucket && q.2.1 = x.piece && q.2.2.1 = x.sender
      ({ m with exch := { m.exch with
          rx := m.exch.rx + 1, got := m.exch.got ++ [(x.bucket, x.piece, x.sender, x.chunk)],
          flags := if x.nonfin then (m.exch.flags ++ [(x.bucket, x.piece)]).eraseDups else m.exch.flags,
          samples := if known then s else s ++ [(x.bucket, x.piece, x.sender, x.samples)] } }).freeSlot x.sender

/-- Records of one more SUMMARY of an owner join those held. -/
def joinSum (l : List SumHeld) (b o : Nat) (nf : Bool) (rs : List PartRec) : List SumHeld :=
  if l.any (fun s => s.bucket = b && s.owner = o) then
    l.map fun s => if s.bucket = b ∧ s.owner = o then
      { s with nonfin := s.nonfin || nf, recs := s.recs ++ rs.filter fun r => !s.recs.any fun q => q.piece = r.piece } else s
  else l ++ [{ bucket := b, owner := o, nonfin := nf, recs := rs }]

/-- Pieces of 16 records. -/
def recRuns : Nat → List PartRec → List (List PartRec)
  | 0, _ => []
  | n + 1, l => if l.isEmpty then [] else l.take 16 :: recRuns n (l.drop 16)

/-- The SUMMARY messages of a summary (R365). -/
def Mod.sumMsgs (m : Mod) (s : SumHeld) : List ExMsg :=
  (recRuns s.recs.length s.recs).map fun rs =>
    { kind := 2, nonfin := s.nonfin, npart := rs.length, bucket := s.bucket, sender := s.owner,
      attempt := m.train.attempt, step := m.train.step, body := rs.flatMap PartRec.bytes }

/-- The partner, while it takes part. -/
def Mod.mate (m : Mod) : Option Nat :=
  match m.partner with
  | some p => if m.ranks.contains p && !cSingle m.img && m.clus.pair != .widowed then some p else none
  | none => none

/-- A bucket holds a tensor of the owned shards. -/
def Mod.bucketOwned (m : Mod) (b : Nat) : Bool :=
  m.pieces.any fun e => pcBucket e = b && m.owned.any fun sh => shTensor sh = pcTensor e

/-- Records held and not yet forwarded go to the partner as MSUM, each SUMMARY on its arrival, once this module has made one of its
own (R408). -/
def Mod.forwardSums (m : Mod) : Mod :=
  match m.mate with
  | none => m
  | some p =>
    if m.exch.made.isEmpty then m
    else
      let old := m.exch.fwd
      let new := (m.exch.sums.filter fun s => m.bucketOwned s.bucket).map fun s =>
        { s with recs := s.recs.filter fun q => !old.contains (s.bucket, s.owner, q.piece) }
      let m := new.foldl (fun m s => (m.sumMsgs s).foldl (fun m x =>
        m.sendCl p { m.clMsg 8 with len := x.bytes.length, body := x.bytes }) m) m
      { m with exch := { m.exch with fwd := m.exch.fwd ++ new.flatMap fun s => s.recs.map fun q => (s.bucket, s.owner, q.piece) } }

/-- A SUMMARY of the current attempt. -/
def Mod.takeSummary (m : Mod) (x : ExMsg) : Mod :=
  let rs := partRecs x.npart x.body
  let m := { m with exch := { m.exch with sums := joinSum m.exch.sums x.bucket x.sender x.nonfin rs } }
  (m.forwardSums).freeSlot x.sender

/-! ### Summaries (R365) -/

/-- Every other member's contribution to every own piece of the bucket has been added. -/
def Mod.allGot (m : Mod) (e : Nat) : Bool :=
  let b := slice e 19 4
  (m.pieces.filter fun p => pcBucket p = b && pcOwner p = m.self).all fun p =>
    ((m.members (bkGroup e)).filter (· ≠ m.self)).all fun r =>
      (List.range (chunks (4 * pcCount p))).all fun c => m.exch.got.contains (b, pcPiece p, r, c)

/-- The partial record of an own piece. -/
def Mod.partOf (m : Mod) (p : Nat) : PartRec :=
  let own := ((m.exch.words.find? (·.1 = pcBucket p)).map Prod.snd).getD 0
  let others := (m.exch.samples.filter fun q => q.1 = pcBucket p && q.2.1 = pcPiece p).map fun q => q.2.2.2
  { piece := pcPiece p, tensor := pcTensor p, samples := (own + others.sum) % 2 ^ 32,
    sumsq := (m.locWords p).foldl f64addSq 0 }

/-- MGRAD chunks of an own piece to the partner, each the part of a chunk that lies in one shard (R408). -/
def Mod.sendGrad (m : Mod) (r p : Nat) : Mod :=
  (List.range (chunks (4 * pcCount p))).foldl (fun m c =>
    (m.owned.filter fun sh => shTensor sh = pcTensor p).foldl (fun m sh =>
      match gradPart p c sh with
      | none => m
      | some q =>
        let n := 4 * (q.2 - q.1)
        m.sendCl r { m.clMsg 7 with tensor := pcTensor p, first := shFirst sh, len := n, offset := 4 * (q.1 - shFirst sh),
                                    body := m.locRead p (4 * (q.1 - pcFirst p)) n }) m) m

/-! ### Judgement -/

/-- A cluster message named by its KIND is sent again (R403; log entry 71): mirror traffic of the step as it was first made, of any other
kind the last message. -/
def Mod.resendCl (m : Mod) (r kind : Nat) : Mod :=
  if kind = 7 then
    if m.mate = some r then (m.pieces.filter fun p => m.exch.made.contains (pcBucket p) && pcOwner p = m.self).foldl
      (fun (m : Mod) p => m.sendGrad r p) m
    else m
  else if kind = 8 then (if m.mate = some r then ({ m with exch := { m.exch with fwd := [] } }).forwardSums else m)
  else match m.clus.sent.find? (fun p => p.1 = 16 * r + kind) with
    | some p => m.sendCl r p.2
    | none => m

/-- RESEND (R369): the chunk is sent again to the owner of its piece, the summary to a member of its group, in the next exchange
slot (R381); a cluster message at once. -/
def Mod.takeResend (m : Mod) (x : ExMsg) : Mod :=
  let m := { m with exch := { m.exch with resend := m.exch.resend + 1 } }
  let m := if 0xFFFFFF00 ≤ x.chunk ∧ x.chunk < 0xFFFFFF10 then m.resendCl x.sender (x.chunk - 0xFFFFFF00)
    else if x.chunk = 0xFFFFFFFF then
      match m.exch.sums.find? (fun s => s.bucket = x.bucket && s.owner = m.self), m.bucket? x.bucket with
      | some s, some e => if (m.members (bkGroup e)).contains x.sender then (m.sumMsgs s).foldl (fun m y => m.queueEx x.sender y) m else m
      | _, _ => m
    else match m.piece? x.bucket x.piece with
      | some e => if pcOwner e = x.sender && m.exch.open'.contains x.bucket && decide (x.chunk < chunks (4 * pcCount e)) then
          { m with exch := { m.exch with toSend := m.exch.toSend ++ [(x.bucket, x.piece, x.chunk)] } } else m
      | none => m
  m.freeSlot x.sender

/-- One exchange message judged by STEP and ATTEMPT and acted on (R368, R371). A VOID of an attempt that has not begun here is held
until it has. -/
def Mod.takeEx (m : Mod) (x : ExMsg) : Mod :=
  match m.age x.step x.attempt with
  | .old => m.exStale.freeSlot x.sender
  | .newStep => m.hold x
  | .newAttempt => (m.voidByPeer).hold x
  | .now =>
    match x.kind with
    | 1 => m.takeContrib x
    | 2 => m.takeSummary x
    | 3 => m.takeResend x
    | _ => if m.train.running || m.train.voted then (m.voidByPeer).freeSlot x.sender else m.hold x

/-- Held messages judged again. -/
def Mod.rejudge (m : Mod) : Mod :=
  let h := m.exch.held
  h.foldl Mod.takeEx { m with exch := { m.exch with held := [] } }

/-- R365, R373, R408: the owner makes its summary of a bucket: a partial record for each of its pieces, the flag, messages
to the other members for the exchange slots from tick x + 1 on, and the mirror traffic. -/
def execSummaryMake (bucket : BitVec 16) (s : State) : Host.Outcome State Fault Refusal :=
  lift (fun m =>
    let b := bucket.toNat
    match m.bucket? b with
    | none => m
    | some e =>
      let own := (m.pieces.filter fun p => pcBucket p = b && pcOwner p = m.self).foldr insPiece []
      let others := (m.members (bkGroup e)).filter (· ≠ m.self)
      if !m.train.running || !m.exch.open'.contains b || m.exch.made.contains b || own.isEmpty || !m.allGot e ||
          !own.all m.locRuns || (others.isEmpty && decide (m.tick.k ≤ bkTick e)) then m
      else
        let nf := (own.any fun p => (m.locWords p).any f32nonfin) || m.exch.flags.any (·.1 = b)
        let h : SumHeld := { bucket := b, owner := m.self, nonfin := nf, recs := own.map m.partOf }
        let out := others.flatMap fun r => (m.sumMsgs h).map fun x => (r, x)
        let m := { m with exch := { m.exch with made := m.exch.made ++ [b], sums := joinSum m.exch.sums b m.self nf h.recs,
                                                sumsOut := m.exch.sumsOut ++ out } }
        let m := match m.mate with
          | some r => own.foldl (fun (a : Mod) p => a.sendGrad r p) m
          | none => m
        m.forwardSums) s

/-- R360, R381: an exchange slot of the tick after its first begins. -/
def execExchangeSlotStart (s : State) : Host.Outcome State Fault Refusal :=
  lift (fun m =>
    if m.cord.inst.isNone || m.pow.state != .running || decide (cNxs m.img ≤ m.exch.slot + 1) then m
    else ({ m with exch := { m.exch with slot := m.exch.slot + 1 } }).runSlot) s

end Sys2Proof.Machine
end

