-- ==== Sys2Proof/Machine/Export.lean ====
section
/-! DEFINITION. Owned state as it leaves and enters the module: the payload layout of a shard record (R332, R352), envelopes (R514), checkpoints' records and manifest (R427, R428), the state of shards and mirrors sent between modules (R415, R421). -/

namespace Sys2Proof.Machine

/-! ### The payload layout (R352) -/

/-- Address of the moment byte of element i: part 0 the first moment's element, 1 the second's, 2 and 3 their scales
(R332). -/
def momAddr (c : Copy) (part i : Nat) : Nat :=
  let g := i / 2048
  let j := i % 2048
  let n := Nat.min 2048 (c.cnt - 2048 * g)
  let b := c.mom + 4224 * g
  match part with
  | 0 => b + j
  | 1 => b + n + j
  | 2 => b + 2 * n + j / 32
  | _ => b + 2 * n + n / 32 + j / 32

/-- Address of byte `off` of the payload of n elements from element i, with masters, moments and ember. -/
def payAddr (c : Copy) (i n off : Nat) : Nat :=
  if off < 4 * n then c.mas + 4 * i + off
  else
    let o := off - 4 * n
    if o < n then momAddr c 0 (i + o)
    else if o < 2 * n then momAddr c 1 (i + (o - n))
    else if o < 2 * n + n / 32 then momAddr c 2 (i + 32 * (o - 2 * n))
    else if o < 2 * n + 2 * (n / 32) then momAddr c 3 (i + 32 * (o - 2 * n - n / 32))
    else c.emb + c.ew * i + (o - 2 * n - 2 * (n / 32))

/-- Bytes of the whole payload of n elements. -/
def payLen (c : Copy) (n : Nat) : Nat := 4 * n + 2 * n + 2 * (n / 32) + c.ew * n

def Mod.payRead (m : Mod) (c : Copy) (i n off len : Nat) : List Byte :=
  (List.range len).flatMap fun k => m.hbmRaw (payAddr c i n (off + k)) 1

def Mod.payWrite (m : Mod) (c : Copy) (i n off : Nat) (b : List Byte) : Mod :=
  (List.zip (List.range b.length) b).foldl (fun m p => m.hbmPut (payAddr c i n (off + p.1)) [p.2]) m

def Mod.ew (m : Mod) : Nat := if m.emberBf16 then 2 else 4

/-- The copy of an owned shard, and of a mirror entry's shard, with the masters' address in C-view. -/
def Mod.ownBase (m : Mod) (sh : Nat) : Copy :=
  { mas := shMaster sh, mom := shMom sh, emb := shEmb sh, cnt := shCount sh, ew := m.ew }

def Mod.mirShard (m : Mod) (e : Nat) : Nat := nth 0 m.shards0 (slice e 47 16)
def Mod.mirBase (m : Mod) (e : Nat) : Copy :=
  { mas := slice e 87 48, mom := slice e 127 88, emb := slice e 167 128, cnt := shCount (m.mirShard e), ew := m.ew }

/-- The committed side of a copy. -/
def Mod.sideOf (m : Mod) (c : Copy) : Copy := { c with mas := m.cSide c.mas }
def Mod.ownCopy (m : Mod) (sh : Nat) : Copy := m.sideOf (m.ownBase sh)
def Mod.mirCopy (m : Mod) (e : Nat) : Copy := m.sideOf (m.mirBase e)

/-- Every byte of a copy lies on dies that run (R267). -/
def Mod.copyOn (m : Mod) (c : Copy) : Bool :=
  m.onDies c.mas (4 * c.cnt) && m.onDies c.mom (momBytes c.cnt) && m.onDies c.emb (c.ew * c.cnt)

/-- A copy's moments and ember bytes are settled (R331). -/
def Mod.copySettled (m : Mod) (c : Copy) : Bool :=
  !m.unsettledDst c.mom (momBytes c.cnt) && !m.unsettledDst c.emb (c.ew * c.cnt)

/-- A wait for the settle is counted (R331). -/
def Mod.countWait (m : Mod) : Mod := { m with hbm := { m.hbm with settleWait := m.hbm.settleWait + 1 } }

/-- Mirror entries of shards. -/
def Mod.mirShards (m : Mod) : List Nat := m.mirrors.filter fun e => slice e 4 4 = 0

/-! ### Shard records -/

/-- The 128 B header of a shard record (R352). CONTENT: bit 0 masters, 1 moments, 2 ember. -/
def Mod.recHdr (m : Mod) (sh content len : Nat) : List Byte :=
  let t := m.tensorEnt (shTensor sh)
  let x := m.tensor (shTensor sh)
  leBytes 128 (0x44524853 + 2 ^ 32 + 2 ^ 48 * content + 2 ^ 52 * b2n m.emberBf16 + 2 ^ 53 * b2n m.hbm.side +
    2 ^ 54 * slice t 33 32 + 2 ^ 64 * shTensor sh + 2 ^ 96 * m.train.last + 2 ^ 160 * x.upd + 2 ^ 192 * (x.skips % 2 ^ 32) +
    2 ^ 256 * slice t 191 64 + 2 ^ 384 * shFirst sh + 2 ^ 424 * shCount sh + 2 ^ 512 * cId m.img + 2 ^ 576 * m.sec.id +
    2 ^ 640 * len)

/-- The payload of an owned shard for a CONTENT. -/
def Mod.recBody (m : Mod) (sh content : Nat) : List Byte :=
  let c := m.ownCopy sh
  let n := shCount sh
  let mid := 2 * n + 2 * (n / 32)
  (if bitAt content 0 then m.payRead c 0 n 0 (4 * n) else []) ++
    (if bitAt content 1 then m.payRead c 0 n (4 * n) mid else []) ++
    (if bitAt content 2 then m.payRead c 0 n (4 * n + mid) (c.ew * n) else [])

/-- An envelope (R514). Its body stands as plaintext; tag and signature are free values. -/
def Mod.envelope (m : Mod) (kind : Nat) (body : List Byte) : List Byte × Mod :=
  let man := kind = 2
  let d := m.draw 96
  let m := if man then m else d.2
  let h := leBytes 128 (0x4C414553 + 2 ^ 32 * kind + 2 ^ 40 + (if man then 0 else 2 ^ 64 * m.sec.jobId + 2 ^ 128 * d.1) +
    (if kind = 3 then 0 else 2 ^ 256 * m.sec.id) + 2 ^ 320 * body.length + 2 ^ 384 * leNat (m.sec.ownerId.take 64))
  let t := m.openVal
  let m := if man then m else { t.2 with sec := { t.2.sec with sealed := t.2.sec.sealed + 1 } }
  let tag := if man then [] else leBytes 16 t.1
  if kind = 3 then (h ++ body ++ tag, m)
  else
    let g := m.sign
    (h ++ body ++ tag ++ g.1 ++ leBytes 2 m.cert.length ++ m.cert, g.2)

/-- Sealing is possible: a job key is held and not worn (R514). -/
def Mod.canSeal (m : Mod) : Bool := m.sec.job.isSome && decide (m.sec.sealed < 2 ^ 32)

/-- Messages of a transfer of n bytes: at most 2^31 B each, at least one (R438). -/
def msgRuns (n : Nat) : List (Nat × Nat) :=
  (List.range (Nat.max 1 (ceilDiv n (2 ^ 31)))).map fun i => (2 ^ 31 * i, Nat.min (2 ^ 31) (n - 2 ^ 31 * i))

/-- RDMA WRITE of bytes to remote memory; it waits for its acknowledgement (R438, R440, R459). -/
def Mod.rdmaOut (m : Mod) (ctx rkey addr : Nat) (b : List Byte) : Mod :=
  (msgRuns b.length).foldl (fun (m : Mod) r =>
    let p := (b.drop r.1).take r.2
    m.request ctx (psnsOf p.length) (.rdma ctx rkey (addr + r.1) p)) m

/-- RDMA READ of n bytes of remote memory (R438). -/
def Mod.rdmaIn (m : Mod) (ctx rkey addr n : Nat) : Mod :=
  (msgRuns n).foldl (fun (m : Mod) r => m.askRead ctx (psnsOf r.2) (.read ctx rkey (addr + r.1) r.2)) m

/-- One shard exported to an address: record, envelope, write; its manifest entry of 128 B (R428). The HASH covers
ciphertext, so it is a free value. -/
def Mod.exportShard (m : Mod) (ctx rkey addr sh content : Nat) : (List Byte × Nat) × Mod :=
  let b := m.recBody sh content
  let e := m.envelope 1 (m.recHdr sh content b.length ++ b)
  let h := e.2.openVal
  let n := e.1.length
  let ent := leBytes 128 (m.self + 2 ^ 16 * shTensor sh + 2 ^ 32 * content + 2 ^ 64 * shFirst sh + 2 ^ 104 * shCount sh +
    2 ^ 192 * addr + 2 ^ 256 * n + 2 ^ 512 * (h.1 % 2 ^ 512))
  ((ent, n), h.2.rdmaOut ctx rkey addr e.1)

/-- Sealed bytes of a shard record (R514, R352). -/
def Mod.sealedLen (m : Mod) (sh content : Nat) : Nat :=
  128 + 128 + (m.recBody sh content).length + 16 + 132 + 2 + m.cert.length

/-- The records of an export, one after another from an address upward (R351). -/
def Mod.expReqs (m : Mod) (ctx rkey addr content : Nat) (ck : Bool) : List Nat → List ExpReq
  | [] => []
  | sh :: t => { ctx := ctx, rkey := rkey, addr := addr, sh := sh, content := content, ck := ck } ::
      m.expReqs ctx rkey (addr + m.sealedLen sh content) content ck t

/-- A record is read and sent; a checkpoint keeps its manifest entry. -/
def Mod.exportOne (m : Mod) (q : ExpReq) : Mod :=
  let r := m.exportShard q.ctx q.rkey q.addr q.sh q.content
  if q.ck then { r.2 with clus := { r.2.clus with ckptOwn := r.2.clus.ckptOwn.map (· ++ r.1.1) } } else r.2

/-- Every record whose bytes can be read is sent, in order; one on a stopped die waits (R267), and one whose moments or ember bytes are
not settled waits and is counted (R331). -/
def Mod.exportPump (m : Mod) : Mod :=
  m.train.exports.foldl (fun (m : Mod) q =>
    let c := m.ownCopy q.sh
    let wait := q.content ≠ 1 && !m.copySettled c
    if m.copyOn c && !wait then m.exportOne q
    else
      let m := if wait && !q.waited then m.countWait else m
      { m with train := { m.train with exports := m.train.exports ++ [{ q with waited := q.waited || wait }] } })
    { m with train := { m.train with exports := [] } }

/-! ### STATE (R402, R415, R421) -/

/-- STATE chunks of n elements of a copy from element i, for the shard (tensor, first). -/
def Mod.sendState (m : Mod) (r tensor first : Nat) (c : Copy) (i n : Nat) : Mod :=
  let len := payLen c n
  (List.range (chunks len)).foldl (fun m k =>
    let l := chunkLen len k
    m.sendCl r { m.clMsg 0xB with tensor := tensor, first := first, offset := 65536 * k, len := l,
                                  body := m.payRead c i n (65536 * k) l }) m

end Sys2Proof.Machine
end

