-- ==== Sys2Proof/Machine/Cluster.lean ====
section
/-! DEFINITION. Pairs, votes, losses, recovery (chapter 14): digest rounds, checkpoints, the flip of the side pointers (R327), outcomes, losses and redistribution, pairing. -/

namespace Sys2Proof.Machine

/-! ### Digest items (R414 to R416)

An item is named by a number: kind + 8 * index. Kinds: 0 owned shard and 1 mirror shard, 2 own table and 3 mirror table,
4 own trained peat segment and 5 mirror segment, 6 replica region; the index is that of the entry in SHARDS, FALLBACK,
HBMMAP or PEAT. -/

def itKind (k : Nat) : Nat := k % 8
def itIdx (k : Nat) : Nat := k / 8

def Mod.itEnt (m : Mod) (k : Nat) : Nat :=
  match itKind k with
  | 0 => nth 0 m.shards (itIdx k)
  | 2 => nth 0 m.hbmmap (itIdx k)
  | 4 => nth 0 m.peatEnts (itIdx k)
  | 5 => nth 0 m.peatEnts (itIdx k)
  | _ => nth 0 m.fallback (itIdx k)

/-- TENSOR_ID and FIRST under which an item stands in DIGEST and STATE; what R414 leaves open, log entry 46. -/
def Mod.itKey (m : Mod) (k : Nat) : Nat × Nat :=
  let e := m.itEnt k
  match itKind k with
  | 0 => (shTensor e, shFirst e)
  | 1 => (shTensor (m.mirShard e), shFirst (m.mirShard e))
  | 2 => (0, itIdx k)
  | 3 => (0, slice e 47 16)
  | 6 => (0, 2 ^ 33 + slice e 15 4)
  | _ => (0, 2 ^ 32 + slice e 11 4)

def Mod.itCopy (m : Mod) (k : Nat) : Copy := if itKind k = 0 then m.ownCopy (m.itEnt k) else m.mirCopy (m.itEnt k)

/-- Base and bytes of a table, a table copy or a replica region. -/
def Mod.itRegion (m : Mod) (k : Nat) : Nat × Nat :=
  let e := m.itEnt k
  match itKind k with
  | 3 => (slice e 87 48, slice e 317 278)
  | 6 => let g := nth 0 m.hbmmap (slice e 43 28); (slice g 55 16, slice g 103 64)
  | _ => (slice e 55 16, slice e 103 64)

/-- The turves of a segment's present window (R414): 4,096 from its start, wrapping. -/
def Mod.itTurves (m : Mod) (k : Nat) : List Nat :=
  let e := m.itEnt k
  let n := slice e 127 96
  let s := tGet 0 m.clus.peatWin (slice e 11 4) - 1
  (List.range (Nat.min 4096 n)).map fun i => slice e 94 64 + (s + i) % n

/-- The committed image of a turf. -/
def Mod.turfImage (m : Mod) (t : Nat) : List Byte :=
  match m.slotOf t with
  | some i => if (m.pslot i).landed then m.hbmRaw (m.pslot i).addr 16384 else m.turfBytes t
  | none => m.turfBytes t

/-- The bytes that an item's digest covers. -/
def Mod.itBytes (m : Mod) (k : Nat) : List Byte :=
  match itKind k with
  | 4 => (m.itTurves k).flatMap m.turfImage
  | 5 => (m.itTurves k).flatMap m.turfImage
  | 0 | 1 =>
    let c := m.itCopy k
    m.hbmRaw c.mas (4 * c.cnt) ++ m.hbmRaw c.mom (momBytes c.cnt) ++ m.hbmRaw c.emb (c.ew * c.cnt)
  | _ => m.hbmRead (m.itRegion k).1 (m.itRegion k).2

/-- Errors noted for an item since it last matched (R414). -/
def Mod.itEcc (m : Mod) (k : Nat) : Bool :=
  match itKind k with
  | 0 => match m.owned.findIdx? (· = m.itEnt k) with
    | some i => m.clus.errs.contains (0, i)
    | none => false
  | 1 => match m.mirrors.findIdx? (· = m.itEnt k) with
    | some i => m.clus.errs.contains (1, i)
    | none => false
  | 2 => m.clus.errs.contains (2, itIdx k)
  | 3 => m.clus.errs.contains (3, itIdx k)
  | 4 => m.clus.errs.contains (4, itIdx k) || (m.itTurves k).any m.peat.lost.contains
  | 5 => m.clus.errs.contains (4, itIdx k) || (m.itTurves k).any m.peat.lost.contains
  | 6 => m.clus.errs.contains (2, slice (m.itEnt k) 43 28)
  | _ => false

/-- An item's bytes are sound again (R296, R416): readers of its settled bytes, or of a region that was being rewritten, wait no
longer. -/
def Mod.restored (m : Mod) (k : Nat) : Mod :=
  let c := m.itCopy k
  if 1 < itKind k then
    { m with clus := { m.clus with rewrite := m.clus.rewrite.filter (· ≠ m.itRegion k) } }
  else { m with hbm := { m.hbm with restore := m.hbm.restore.filter fun s =>
    !(overlap s.dst s.len c.mom (momBytes c.cnt) || overlap s.dst s.len c.emb (c.ew * c.cnt)) } }

/-- The errors noted for an item are forgotten: it has matched (R414). -/
def Mod.dropEcc (m : Mod) (k : Nat) : Mod :=
  let drop := match itKind k with
    | 0 => (m.owned.findIdx? (· = m.itEnt k)).map fun i => (0, i)
    | 1 => (m.mirrors.findIdx? (· = m.itEnt k)).map fun i => (1, i)
    | 2 => some (2, itIdx k)
    | 3 => some (3, itIdx k)
    | 6 => some (2, slice (m.itEnt k) 43 28)
    | _ => some (4, itIdx k)
  { m with clus := { m.clus with errs := m.clus.errs.filter fun p => some p ≠ drop } }

def Mod.clearEcc (m : Mod) (k : Nat) : Mod := (m.dropEcc k).restored k

/-- The items of a round: shards in SHARDS order, then tables, trained segments. -/
def Mod.items (m : Mod) : List Nat :=
  let sh := ((indices m.shards).filter fun i => let e := nth 0 m.shards i; isShard e && shOwner e = m.self).map (8 * ·)
  let fb := indices m.fallback
  let mir := (fb.filter fun i => let e := nth 0 m.fallback i; slice e 3 0 = 3 && slice e 4 4 = 0).map (1 + 8 * ·)
  let tab := ((indices m.hbmmap).filter fun i => let e := nth 0 m.hbmmap i; slice e 3 0 = 1 && slice e 11 4 = 9).map (2 + 8 * ·)
  let mtab := (fb.filter fun i => let e := nth 0 m.fallback i; slice e 3 0 = 3 && slice e 4 4 = 1).map (3 + 8 * ·)
  let seg := fun (mi : Bool) => (indices m.peatEnts).filter fun i =>
    let e := nth 0 m.peatEnts i; slice e 3 0 = 2 && bitAt e 16 && bitAt e 17 = mi
  sh ++ mir ++ tab ++ mtab ++ (seg false).map (4 + 8 * ·) ++ (seg true).map (5 + 8 * ·)

def itMirror (k : Nat) : Bool := itKind k = 1 || itKind k = 3 || itKind k = 5

def Mod.itRec (m : Mod) (k : Nat) : DigRec :=
  let p := m.itKey k
  { tensor := p.1, first := p.2, dig := shardDigest p.1 p.2 m.train.last (m.itBytes k), ecc := m.itEcc k, mirror := itMirror k }

/-- A 32 B digest record (R414; its layout is log entry 46). -/
def DigRec.bytes (r : DigRec) : List Byte :=
  netHdr 32 [(15, 0, r.tensor), (16, 16, b2n r.ecc), (17, 17, b2n r.mirror), (103, 64, r.first), (255, 128, r.dig.toNat)]

def DigRec.ofBytes (l : List Byte) : DigRec :=
  { tensor := netGet l 15 0, ecc := netGet l 16 16 = 1, mirror := netGet l 17 17 = 1, first := netGet l 103 64,
    dig := BitVec.ofNat 128 (netGet l 255 128) }

def digRecs : Nat → List Byte → List DigRec
  | 0, _ => []
  | n + 1, l => DigRec.ofBytes (l.take 32) :: digRecs n (l.drop 32)

/-- An item's bytes lie on dies that run (R267). -/
def Mod.itemOn (m : Mod) (k : Nat) : Bool :=
  match itKind k with
  | 0 | 1 => m.copyOn (m.itCopy k)
  | 4 | 5 => (m.itTurves k).all fun t => match m.slotOf t with
    | some i => m.onDies (m.pslot i).addr 16384
    | none => true
  | _ => m.onDies (m.view (m.itRegion k).1) (m.itRegion k).2

/-- STATE chunks of an item's committed bytes to a rank (R415). -/
def Mod.sendItem (m : Mod) (r k : Nat) : Mod :=
  let p := m.itKey k
  let m := { m with clus := { m.clus with shardRes := m.clus.shardRes + 1 } }
  match itKind k with
  | 0 | 1 => let c := m.itCopy k; m.sendState r p.1 p.2 c 0 c.cnt
  | 4 | 5 => (m.itTurves k).foldl (fun m t =>
      m.sendCl r { m.clMsg 0xB with tensor := p.1, first := p.2, offset := 16384 * (t - slice (m.itEnt k) 94 64), len := 16384,
                                    body := m.turfImage t }) m
  | _ =>
    let g := m.itRegion k
    (List.range (chunks g.2)).foldl (fun m c =>
      m.sendCl r { m.clMsg 0xB with tensor := p.1, first := p.2, offset := 65536 * c, len := chunkLen g.2 c,
                                    body := m.hbmRead (g.1 + 65536 * c) (chunkLen g.2 c) }) m

/-- STATE that is due now leaves where its bytes can be read; one on a stopped die waits (R267), and one whose moments and ember bytes are
not settled waits, counted where `count` (R331). -/
def Mod.sendDue (m : Mod) (count : Bool) : Mod :=
  m.clus.stateNow.foldl (fun (m : Mod) p =>
    let wait := decide (itKind p.1 ≤ 1) && !m.copySettled (m.itCopy p.1)
    if m.itemOn p.1 && !wait then m.sendItem p.2 p.1
    else
      let m := if wait && count then m.countWait else m
      { m with clus := { m.clus with stateNow := m.clus.stateNow ++ [p] } }) { m with clus := { m.clus with stateNow := [] } }

/-- Bytes that a STATE of an item carries. -/
def Mod.itLen (m : Mod) (k : Nat) : Nat :=
  match itKind k with
  | 0 | 1 => let c := m.itCopy k; payLen c c.cnt
  | 4 | 5 => 16384 * (m.itTurves k).length
  | _ => (m.itRegion k).2

/-- An item's STATE is awaited from a rank (R415). -/
def Mod.awaitItem (m : Mod) (k r : Nat) : Mod :=
  { m with clus := { m.clus with stateIn := m.clus.stateIn ++ [(k, r, m.itLen k)] } }

/-- At a flip VALID of each tensor whose shard's STATE is awaited is held at 0 till its write ends (R415; log entry 112). -/
def Mod.holdAwaited (m : Mod) : Mod :=
  { m with clus := { m.clus with
      holdV := ((m.clus.stateIn.filter fun p => decide (itKind p.1 ≤ 1)).map fun p => (m.itKey p.1).1).eraseDups } }

/-- STATE of an item for a rank: at once, or at the next flip (R415). -/
def Mod.dueState (m : Mod) (k r : Nat) (now : Bool) : Mod :=
  if now then ({ m with clus := { m.clus with stateNow := m.clus.stateNow ++ [(k, r)] } }).sendDue true
  else { m with clus := { m.clus with stateDue := m.clus.stateDue ++ [(k, r)] } }

/-- One record of the partner against this module's item (R415). At pairing the owner is always authoritative (R405) and
sends at once; at the pairing of a repair the survivor's copies are, both ways (R424). In a round that the partner began for owned bytes
of its own in error, which its readers wait for, the bytes go at once too (R296; log entry 121). -/
def Mod.compareRec (m : Mod) (r : Nat) (mine : List (Nat × DigRec)) (x : DigRec) : Mod :=
  match mine.find? (fun q => q.2.tensor = x.tensor && q.2.first = x.first && q.2.mirror != x.mirror) with
  | none => m
  | some q =>
    if q.2.dig = x.dig then m.clearEcc q.1
    else
      let iOwn := !q.2.mirror
      let ownEcc := if iOwn then q.2.ecc else x.ecc
      let parEcc := if iOwn then x.ecc else q.2.ecc
      let pairing := m.clus.pair == .pairing
      let partners := !pairing && ownEcc && !parEcc
      let mineTaken := if pairing && m.clus.repair then true else if pairing && m.clus.repl then false else partners != iOwn
      let m := { m with clus := { m.clus with shardDiff := m.clus.shardDiff + 1 } }
      let m := m.event 0x850A x.tensor (b2n partners)
      if mineTaken then
        m.dueState q.1 r (pairing || (m.clus.digNow && x.ecc && !x.mirror))
      else m.awaitItem q.1 r

/-- Pairing is complete: nothing of the fill is awaited (R405 step 5). After a repair the job resumes by a restart vote
(R424), unless another rank is lost still. -/
def Mod.pairDone (m : Mod) : Mod :=
  if m.clus.pair == .pairing && m.clus.stateIn.isEmpty then
    let waits := !m.clus.lost.isEmpty
    let again := (m.clus.repair || m.clus.repl) && !waits
    let m := { m with clus := { m.clus with pair := .paired, pairFail := none, repair := m.clus.repair && waits, repl := false } }
    let m := if m.clus.shared then m.event 0x8502 m.pow.feedCode (m.partner.getD 0) else m
    if again then m.restartVote else m
  else m

/-- Both digest lists are held: they are compared (R415). -/
def Mod.compareRound (m : Mod) : Mod :=
  if m.clus.digOwn.isEmpty || m.clus.digPeer.isEmpty then m
  else
    let mine := List.zip m.items m.clus.digOwn
    let peer := m.clus.digPeer
    -- a lost turf of a trained segment outside the window is restored in a later round (R321, R414)
    let more := m.peat.lost.any fun t => match m.segOf t with
      | some e => bitAt e 16 && !(m.items.any fun k => decide (itKind k = 4 ∨ itKind k = 5) && (m.itTurves k).contains t)
      | none => false
    let m := { m with clus := { m.clus with digOwn := [], digPeer := [], digDue := m.clus.digDue || more } }
    let m := peer.foldl (fun m x => m.compareRec (m.partner.getD 0) mine x) m
    ({ m with clus := { m.clus with digNow := false } }).pairDone

/-- The next window of every trained segment (R414). -/
def Mod.nextWindows (m : Mod) : Mod :=
  let segs := m.segs.filter fun e => bitAt e 16
  segs.foldl (fun m e =>
    let o := tGet 0 m.clus.peatWin (slice e 11 4)
    let n := if o = 0 then 1 else (o - 1 + 4096) % Nat.max 1 (slice e 127 96) + 1
    { m with clus := { m.clus with peatWin := tSet 0 m.clus.peatWin (slice e 11 4) n } }) m

/-- DIGEST messages of records to a rank, 2,048 to a message. -/
def Mod.sendDigest (m : Mod) (r : Nat) (l : List DigRec) : Mod :=
  (List.range (ceilDiv l.length 2048)).foldl (fun m i =>
    let part := (l.drop (2048 * i)).take 2048
    m.sendCl r { m.clMsg 0xA with nrec := part.length, len := 32 * part.length, body := part.flatMap DigRec.bytes }) m

/-- Replica entries of this module (R399, R416). -/
def Mod.replicas (m : Mod) : List Nat := (indices m.fallback).filter fun i => slice (nth 0 m.fallback i) 3 0 = 4

/-- Every item of a round can be read (R267). -/
def Mod.roundOn (m : Mod) : Bool := (m.items ++ m.replicas.map (6 + 8 * ·)).all m.itemOn

/-- A round (R414, R416): digests of every item to the partner, of replica regions to their reference rank. What the round makes of a
region leaves its copies equal, so a member's errors noted so far count no more. -/
def Mod.digestRound (m : Mod) : Mod :=
  let m := m.nextWindows
  let recs := m.items.map m.itRec
  let m := { m with clus := { m.clus with digOwn := recs, digDue := false } }
  let m := match m.partner with
    | some r => if m.ranks.contains r && !recs.isEmpty then m.sendDigest r recs else m
    | none => m
  let m := m.replicas.foldl (fun m i =>
    let r := slice (nth 0 m.fallback i) 27 16
    if r = m.self || !m.ranks.contains r then m else (m.sendDigest r [m.itRec (6 + 8 * i)]).dropEcc (6 + 8 * i)) m
  m.compareRound

/-- The partner has begun a round: this module joins it with digests of its own (R296, R321, R414), after its settle and where it can
read them; it does so anyway where a round of its own is due. -/
def Mod.joinRound (m : Mod) : Mod :=
  if !m.clus.digOwn.isEmpty then m.compareRound
  else if m.clus.digDue || m.clus.pair == .pairing then m
  else
    let m := { m with clus := { m.clus with digNow := true } }
    if m.hbm.settle.isEmpty && m.roundOn then m.digestRound else m.wantRound

/-- A replica's digest (R416), decided under R415 with the reference rank's copy in the owner's column. The reference rank counts
the difference; where the member's copy is the sound one it answers with its own record, on which the member sends its bytes (log
entry 108). -/
def Mod.compareReplica (m : Mod) (r : Nat) (x : DigRec) : Mod :=
  match m.replicas.find? (fun i => m.itKey (6 + 8 * i) = (x.tensor, x.first)) with
  | none => m
  | some i =>
    let k := 6 + 8 * i
    let mine := m.itRec k
    let ref := slice (nth 0 m.fallback i) 27 16 = m.self
    if mine.dig = x.dig then m.dropEcc k
    else if !ref then
      if x.ecc && !mine.ecc then { m with clus := { m.clus with stateDue := m.clus.stateDue ++ [(k, r)] } } else m
    else
      let m := { m with clus := { m.clus with repDiff := m.clus.repDiff + 1 } }
      if mine.ecc && !x.ecc then (m.sendDigest r [mine]).awaitItem k r
      else { m with clus := { m.clus with stateDue := m.clus.stateDue ++ [(k, r)] } }

/-- A digest record of a replica region (log entry 46). -/
def DigRec.ofReplica (x : DigRec) : Bool := x.tensor = 0 && decide (2 ^ 33 ≤ x.first)

/-! ### Checkpoints (R427 to R429) -/

/-- The root of the vote tree. -/
def Mod.root (m : Mod) : Nat := m.ranks.headD 0

/-- A checkpoint is given up: CKPT_ABANDON. `again`: the next commit triggers a new one. -/
def Mod.ckptAbandon (m : Mod) (again : Bool) : Mod :=
  let m := { m with train := { m.train with exports := m.train.exports.filter fun q => !q.ck } }
  ({ m with clus := { m.clus with ckpt := none, ckptEnts := [], ckptFrom := [], ckptOwn := none, ckptNow := again } }).event 0x850C 0 m.train.last

/-- The interval I of R429 in ns: E of the last checkpoint, M from the last losses (log entry 47). -/
def Mod.ckptInterval (m : Mod) : Nat :=
  let l := (m.clus.lossLog.map Prod.snd).filter fun t => decide (m.clus.startNs ≤ t)
  match m.clus.ckptE with
  | none => 3600000000000
  | some e =>
    if l.length < 4 then 3600000000000
    else
      let k := Nat.min 16 l.length
      let since := if l.length ≤ 16 then m.clus.startNs else nth 0 l (l.length - 17)
      let i := isqrt (2 * e * (((l.getLast?.getD 0) - since) / k))
      Nat.max 600000000000 (Nat.min 14400000000000 i)

/-- The root's CKPT bit for a commit (R427). -/
def Mod.ckptWanted (m : Mod) : Bool :=
  m.clus.ckpt.isNone &&
    (m.clus.ckptNow || decide ((m.clus.ckptAt.getD m.clus.startNs) + m.ckptInterval ≤ m.tick.now))

/-- The manifest (R428), sealed as an envelope of KIND 2: step, loss scale and clean count are those of the triggering flip. -/
def Mod.manifest (m : Mod) (ents : List Byte) : List Byte :=
  let a := m.clus.ckptAs
  leBytes 128 (0x54504B43 + 2 ^ 32 + 2 ^ 48 * m.clus.part + 2 ^ 64 * cId m.img + 2 ^ 128 * a.1 +
    2 ^ 192 * m.ranks.length + 2 ^ 224 * (ents.length / 128) + 2 ^ 256 * a.2.1.toNat + 2 ^ 288 * a.2.2) ++ ents

/-- Manifest entries of one CKDONE: as many as its payload holds (R402). -/
def ckMessage : Nat := 512

/-- The entries of every owned shard of a rank are held (R427). -/
def Mod.ckHas (m : Mod) (r : Nat) : Bool :=
  let n := (m.shards.filter fun e => isShard e && shOwner e = r).length
  let got := ((List.range (m.clus.ckptEnts.length / 128)).filter fun i =>
    slice (leNat ((m.clus.ckptEnts.drop (128 * i)).take 128)) 11 0 = r).length
  m.clus.ckptFrom.contains r && decide (n ≤ got)

/-- Every participating module's entries are held: the root writes the manifest, the checkpoint is complete. -/
def Mod.ckptFinish (m : Mod) : Mod :=
  match m.clus.ckpt with
  | none => m
  | some t =>
    if m.self ≠ m.root || !m.ranks.all m.ckHas then m
    else
      let n := m.clus.ckptEnts.length / 128
      let e := m.envelope 2 (m.manifest m.clus.ckptEnts)
      let m := e.2.rdmaOut m.kop.ckCtx m.kop.ckRkey m.kop.manAddr e.1
      let c := m.clus
      ({ m with clus := { c with ckpt := none, ckptE := some (m.tick.now - t), ckptCnt := c.ckptCnt + 1, ckptEnts := [],
                                 ckptFrom := [] } }).event 0x850B n m.train.last

/-- Every owned shard of a checkpoint has been exported: CKDONE carries the entries to the root, which keeps its own (R427). Elsewhere
the checkpoint stands until the next, or the loss of the root (log entry 47). -/
def Mod.ckptReport (m : Mod) : Mod :=
  match m.clus.ckptOwn with
  | none => m
  | some ents =>
    if m.train.exports.any fun q => q.ck then m
    else
      let m := { m with clus := { m.clus with ckptOwn := none } }
      if m.self = m.root then
        ({ m with clus := { m.clus with ckptEnts := m.clus.ckptEnts ++ ents, ckptFrom := m.clus.ckptFrom ++ [m.self] } }).ckptFinish
      else
        (List.range (Nat.max 1 (ceilDiv (ents.length / 128) ckMessage))).foldl (fun (m : Mod) i =>
          let b := (ents.drop (128 * ckMessage * i)).take (128 * ckMessage)
          m.sendCl m.root { m.clMsg 0xC with nrec := b.length / 128, len := b.length, body := b }) m

/-- At a CKPT flip (R427): every owned shard is exported to the storage window. -/
def Mod.ckptExport (m : Mod) : Mod :=
  let m := { m with clus := { m.clus with ckpt := some m.tick.now, ckptAt := some m.tick.now, ckptNow := false,
                                          ckptEnts := [], ckptFrom := [], ckptOwn := some [],
                                          ckptAs := (m.train.last, m.train.ls, m.train.clean) } }
  let need := (m.owned.map fun sh => m.sealedLen sh 7).sum
  if !m.canSeal || decide (m.kop.ckLen < need) then m.ckptAbandon false
  else
    let q := m.expReqs m.kop.ckCtx m.kop.ckRkey m.kop.ckBase 7 true m.owned
    (({ m with train := { m.train with exports := m.train.exports ++ q } }).exportPump).ckptReport

/-! ### The flip (R327) -/

/-- The new loss scale and clean count (R343); `nf`: some tensor of the step was skipped for a non-finite flag. -/
def Mod.newScale (m : Mod) (nf : Bool) : Word × Nat :=
  let h := m.parHdr
  let ls := m.train.ls
  if nf then (f32max (f32mul ls (wf h 95 64)) (wf h 159 128), 0)
  else
    let g := slice h 223 192
    if g ≠ 0 ∧ m.train.clean + 1 = g then (f32min (f32mul ls (wf h 127 96)) (wf h 191 160), 0)
    else (ls, if g = 0 then m.train.clean else m.train.clean + 1)

/-- Update counts and bias products of the tensors that the step did not skip (R341). -/
def Mod.bumpTensor (m : Mod) (p : Nat × Decision) : Mod :=
  let x := m.tensor p.1
  let x := { x with norm := p.2.nrm, gscale := p.2.gscale }
  m.setTensor p.1 (if p.2.skip then x else { x with upd := x.upd + 1, bp1 := p.2.bp1, bp2 := p.2.bp2 })

/-- STEP_NONFIN for each vector core that held a block in the step (R345); its word is read and so cleared. -/
def Mod.readHeld (m : Mod) (c : Nat) : Mod :=
  let x := m.vc c
  if x.held = 0 then m
  else (m.setVc c { x with held := 0 }).event 0x8401 (packLoc (c / 128) (c % 128) 0) m.train.step

/-- The step's report totals and idle sums join those of the last 16 steps (R247, R395). -/
def Mod.closeTotals (m : Mod) : Mod :=
  { m with hbm := { m.hbm with totals := (m.hbm.totNow :: m.hbm.totals).take 16, totNow := [] },
           train := { m.train with idleSteps := (m.train.idleNow :: m.train.idleSteps).take 16, idleNow := [] } }

/-- What the STOP pending or LAST_STEP asks for after the commit of step n (R384, R480). -/
def Mod.stopAfter (m : Mod) (n : Nat) : Mod :=
  let last := cLastStep m.img
  if m.train.stopAt ≠ 0 && decide (m.train.stopAt ≤ n) then
    ({ m with train := { m.train with stopAt := 0 } }).stopAtEnd 0 false
  else if last ≠ 0 && decide (last ≤ n) && m.cord.succ.isNone then m.stopAtEnd 0 false
  else m

/-- The flip: the written side becomes the committed side of every tensor at once; step, loss scale, counts, peat images; the
settle starts; VALID is cleared. `nf` and `ck` come with the OUTCOME. -/
def Mod.flip (m : Mod) (nf ck : Bool) : Mod :=
  let n := m.train.step
  let sc := m.newScale nf
  let m := m.decideAll
  let m := m.train.decided.foldl Mod.bumpTensor m
  let m := (m.train.stepVcs.foldl Mod.readHeld m).closeTotals
  let m := m.commitTurves.pumpSlots
  let m := { m with hbm := { m.hbm with side := !m.hbm.side }, pow := { m.pow with flips := m.pow.flips + 1 } }
  let m := ({ m with hbm := { m.hbm with settle := m.settleSegs } }).runSettle
  let m := m.clearValid
  let t := m.train
  let m := { m with
    train := { t with step := n + 1, last := n, haveState := true, ls := sc.1, clean := sc.2, attempt := 0, running := false,
                      voided := [], voidTen := none, voidCnt := 0, rerun := false, voted := false, owed := none, nfSkip := false,
                      andOk := false, andDue := false, decided := [], stepVcs := [], flipDue := none },
    flt := { m.flt with rerun := false, kept := m.flt.keptNext, keptNext := 0 },
    hbm := { m.hbm with wrote := [] }, cord := { m.cord with holdOff := none }, rem := { m.rem with gathers := [] },
    exch := m.exch.forget, clus := m.clus.forget }
  let m := if n % 64 = 0 then m.wantRound else m
  let m := ({ m with clus := { m.clus with stateDue := [], stateNow := m.clus.stateNow ++ m.clus.stateDue } }).sendDue true
  let m := if ck then m.ckptExport else m
  (m.holdAwaited.stopAfter n).rejudge

/-! ### Outcomes (R412, R413, R226) -/

/-- Moves of a redistribution that can be read go on: a shard of another owner is sent as STATE, one of this module's own is copied
(R421 step 2); readers of unsettled bytes wait (R331). -/
def Mod.handPump (m : Mod) : Mod :=
  m.clus.hands.foldl (fun (m : Mod) p =>
    let c := m.sideOf p.src
    if p.done || !m.copyOn c || !m.copySettled c then { m with clus := { m.clus with hands := m.clus.hands ++ [p] } }
    else
      let e := p.ent
      let m := if p.dest = m.self then
          let d := m.ownCopy e
          m.payWrite d 0 (shCount e) 0 (m.payRead c p.at' (shCount e) 0 (payLen d (shCount e)))
        else m.sendState p.dest (shTensor e) (shFirst e) c p.at' (shCount e)
      { m with clus := { m.clus with hands := m.clus.hands ++ [{ p with done := true }] } })
    { m with clus := { m.clus with hands := [] } }

/-- After the flip that a restart OUTCOME asks for, what a redistribution has moved follows (R423): shards that this module moved go
again, of the step committed now; what came with another step's STATE is awaited again, VALID at 0 until then (log entry 122). -/
def Mod.followFlip (m : Mod) (flipped : Bool) (last : Nat) : Mod :=
  if !m.clus.fresh then m
  else
    let old := m.clus.gain.filter fun g => g.2.2 ≠ last + 1 && !m.clus.stateIn.any fun q => q.1 = g.1
    let m := old.foldl (fun (m : Mod) g => m.awaitItem g.1 g.2.1) m
    let m := (if old.isEmpty then m else m.holdAwaited)
    if flipped then
      ({ m with clus := { m.clus with hands := m.clus.hands.map (fun (p : Hand) => { p with done := false }) } }).handPump
    else m

/-- A module acts on an OUTCOME: commit leads to the flip at the next boundary, abort to the stop at the tick's end, restart to
the next attempt, after the flip where another module has flipped already. -/
def Mod.actOutcome (m : Mod) (o : ClMsg) : Mod :=
  let m := { m with clus := { m.clus with outcome := some o } }
  match o.vkind with
  | 1 =>
    if m.train.owed = some m.train.step then
      ({ m with train := { m.train with flipDue := some m.train.step, nfSkip := o.nfSkip, ckptDue := o.ckpt } }).startFrom o.tick
    else m
  | 2 => ({ m with train := { m.train with abort := true } }).stopAtEnd 0x8103 false
  | _ =>
    let go := m.train.owed.isSome && decide (m.train.last < o.last)
    let m := if go then m.flip (o.nfSkip || m.train.nfSkip) false
      else if m.train.owed.isSome then
        let m := m.dropPending
        { m with train := { m.train with owed := none, decided := [], nfSkip := false } }
      else m
    (m.followFlip go o.last).startFrom o.tick

/-- An OUTCOME forwarded to the children, then acted on (R412). -/
def Mod.passOutcome (m : Mod) (o : ClMsg) : Mod :=
  let m := m.children.foldl (fun m r => m.sendCl r { o with sender := m.self }) m
  m.actOutcome o

/-- Own and children's votes are put together; at the root the OUTCOME follows, with the CKPT bit (R412, R427). -/
def Mod.runVotes (m : Mod) : Mod :=
  let had := m.clus.outcome.isSome
  let m := m.pumpVotes
  match m.clus.outcome with
  | some o => if had then m else m.passOutcome { o with ckpt := o.vkind = 1 && m.ckptWanted }
  | none => m

/-! ### Losses (R417 to R425) -/

/-- The ranks of a pair that are both lost. -/
def Mod.lostPair (m : Mod) : Option (Nat × Nat) :=
  ((m.fallback.filter fun e => slice e 3 0 = 2).find? fun e =>
    m.clus.lost.contains (slice e 15 4) && m.clus.lost.contains (slice e 27 16)).map fun e => (slice e 15 4, slice e 27 16)

/-- The ranks that a partition entry names as lost. -/
def partLost (e : Nat) : List Nat := (List.range (slice e 16 14 + 1)).map fun i => slice e (107 + 12 * i) (96 + 12 * i)

/-- The partition whose LOST equals the lost set (R420). -/
def Mod.partFor (m : Mod) : Option Nat :=
  ((m.fallback.filter fun e => slice e 3 0 = 5).find? fun e =>
    let l := partLost e
    l.all (m.clus.lost.contains ·) && m.clus.lost.all (l.contains ·)).map fun e => slice e 13 4

/-- State is lost (R425): the cord stops at the end of the tick. -/
def Mod.stateLost (m : Mod) (code d0 d1 : Nat) : Mod := (m.event code d0 d1).stopAtEnd code false

/-- A shard entry covers the first element of another. -/
def covers (p e : Nat) : Bool :=
  isShard p && shTensor p = shTensor e && decide (shFirst p ≤ shFirst e ∧ shFirst e < shFirst p + shCount p)

/-- The shards whose state this module holds whole: its own but for those that a redistribution not ended yet brings, then the
mirrors of lost ranks' shards (R421). -/
def Mod.holdings (m : Mod) : List (Nat × Copy) :=
  let waits := if m.clus.fresh then (m.clus.stateIn.filter fun p => decide (itKind p.1 = 0)).map fun p => m.itEnt p.1 else []
  ((m.owned.filter fun e => !waits.contains e).map fun e => (e, m.ownBase e)) ++
    ((m.mirShards.filter fun e => m.clus.lost.contains (shOwner (m.mirShard e))).map fun e => (m.mirShard e, m.mirBase e))

/-- The survivor that owns a shard's elements in the partition in force, once an attempt has begun on it: its copy is the one
up to date (R421; log entry 113). -/
def Mod.liveOwner (m : Mod) (e : Nat) : Option Nat :=
  if m.clus.fresh then none else (m.shards.find? fun p => covers p e && !m.clus.lost.contains (shOwner p)).map shOwner

/-- The partner of a rank (R398). -/
def Mod.partnerOf (m : Mod) (r : Nat) : Option Nat :=
  (m.fallback.find? fun e => slice e 3 0 = 2 && (slice e 15 4 = r || slice e 27 16 = r)).map fun e =>
    if slice e 15 4 = r then slice e 27 16 else slice e 15 4

/-- The holder of the state of a shard that this module gains: its live owner, else the partner of the lost owner (R421). -/
def Mod.holderOf (m : Mod) (live : Option Nat) (e : Nat) : Nat :=
  match live with
  | some r => r
  | none => match m.shards0.find? fun p => covers p e with
    | some p => (m.partnerOf (shOwner p)).getD m.self
    | none => m.self

/-- A shard of the new partition that this module's holdings cover is to be sent to its owner, or copied where this module is the owner
(R421 step 2). -/
def Mod.handOver (m : Mod) (old : List (Nat × Copy)) (live : Option Nat) (e : Nat) : Mod :=
  match old.find? fun p => covers p.1 e with
  | none => m
  | some p =>
    if live.getD m.self ≠ m.self then m
    else
      let h : Hand := { dest := shOwner e, ent := e, src := p.2, at' := shFirst e - shFirst p.1 }
      { m with clus := { m.clus with hands := m.clus.hands ++ [h] } }

/-- Steps 1 to 3 of R421 are done, every shard that the partition brings has come and every one it takes has gone: working copies are
regenerated, the restart vote is cast. -/
def Mod.redistDone (m : Mod) : Mod :=
  if m.clus.redist && !m.clus.gain.any (fun g => m.clus.stateIn.any fun q => q.1 = g.1) && m.clus.hands.all (·.done) then
    (({ m with clus := { m.clus with redist := false } }).regenAll).restartVote
  else m

/-- An item under the SHARDS section that has taken the place of the one before: its entry of the same tensor and FIRST. -/
def Mod.reindex (m : Mod) (key : Nat → Nat × Nat) (k : Nat) : Option Nat :=
  if itKind k ≠ 0 then some k else m.items.find? fun j => itKind j = 0 && m.itKey j = key k

/-- Redistribution onto a partition (R421). STATE awaited or due under R415 stays so; what an earlier redistribution still awaited is
awaited anew. -/
def Mod.redistribute (m : Mod) (p : Nat) : Mod :=
  let old := m.holdings
  let had := (old.map Prod.fst).filter fun e => shOwner e = m.self
  let live := m.liveOwner
  let key := m.itKey
  let was := if m.clus.fresh then [] else m.clus.stateIn
  let m := { m with clus := { m.clus with part := p, redist := true, fresh := true, gain := [], hands := [] } }
  let m := (m.installOn m.img m.cord.gen (fun _ => true)).openSessions
  let sin : List (Nat × Nat × Nat) := was.filterMap fun q => (m.reindex key q.1).map fun k => (k, q.2)
  let due : List (Nat × Nat) := m.clus.stateDue.filterMap fun q => (m.reindex key q.1).map fun k => (k, q.2)
  let m : Mod := { m with clus := { m.clus with stateIn := sin, stateDue := due } }
  let moved := m.shards.filter fun e => isShard e && !had.contains e
  let m := (moved.foldl (fun m e => m.handOver old (live e) e) m).handPump
  let gained := m.owned.filter fun e =>
    !had.any (fun h => shTensor h = shTensor e && shFirst h = shFirst e && shCount h = shCount e) &&
    !(old.any (fun q => covers q.1 e) && (live e).getD m.self = m.self)
  let m := gained.foldl (fun (m : Mod) e =>
    let k := 8 * m.shards.findIdx (· = e)
    let r := m.holderOf (live e) e
    ({ m with clus := { m.clus with gain := m.clus.gain ++ [(k, r, 0)] } }).awaitItem k r) m
  m.redistDone

/-- A lost rank whose STATE is awaited under R415: the receiver holds no sound copy (R430; log entry 112). A replica has other
members. -/
def Mod.resendLost (m : Mod) : Option Nat :=
  if m.clus.pair == .pairing then none
  else (m.clus.stateIn.find? fun q => decide (itKind q.1 ≠ 6) && m.clus.lost.contains q.2.1).map fun q => q.2.1

/-- What a survivor does (R420); a loss during pairing is waited out, with an abort vote held the step is abandoned and no partition
taken (R430). -/
def Mod.survive (m : Mod) : Mod :=
  if m.train.abort then m.stopAtEnd 0x8103 false
  else
    match m.lostPair with
    | some p => m.stateLost 0x8507 p.1 p.2
    | none =>
      if cSingle m.img then m.stateLost 0x8508 (m.clus.lost.headD 0) 0
      else if m.resendLost.isSome then m.stateLost 0x8508 (m.resendLost.getD 0) 0
      else if cPhase m.img ≠ 1 || m.clus.pair == .pairing then { m with clus := { m.clus with repair := true } }
      else match m.partFor with
        | some p => m.redistribute p
        | none => m.stateLost 0x8509 m.clus.lost.length 0

/-- A switch in progress when a rank is lost (R430): before the predecessor's last commit the successor is discarded. -/
def Mod.lossSwitch (m : Mod) : Mod :=
  if m.cord.succ.isSome && !m.lastDone m.img then
    ({ m with cord := { m.cord with succ := none, handLeft := 0 } }).event 0x8105 0 m.train.step
  else m

/-- LOSS to the tree neighbours and, by its declarer, to the subject (R418). -/
def Mod.sendLoss (m : Mod) (r : Nat) (tell : Bool) : Mod :=
  let x := { m.clMsg 4 with subject := r }
  let rks := m.neighbours ++ if tell then [r] else []
  rks.foldl (fun m q => m.sendCl q x) m

/-- The loss is recorded: lost set, count, log, event; its session ends. -/
def Mod.noteLoss (m : Mod) (r : Nat) : Mod :=
  let c := m.clus
  let c := { c with lost := c.lost ++ [r], lossCnt := c.lossCnt + 1, lossLog := c.lossLog ++ [(r, m.tick.now)] }
  (({ m with clus := c }).event 0x8504 r m.train.step).sessionEnd r

/-- A module whose partner is lost is widowed (R410); during pairing it waits for a HELLO that does not come (R430). -/
def Mod.widow (m : Mod) (r : Nat) : Mod :=
  if m.partner = some r && m.clus.pair == .pairing then { m with clus := { m.clus with hello := none } }
  else if m.partner = some r then ({ m with clus := { m.clus with pair := .widowed } }).event 0x8503 r 0 else m

/-- The attempt stops and the module returns to the last commit; messages of the lost modules are discarded (R374, R420). -/
def Mod.lossReturn (m : Mod) (rs : List Nat) : Mod :=
  let was := m.inAttempt
  let m := m.lossSwitch.returnToCommit.nextAttempt was
  let x := { m.exch with held := m.exch.held.filter (fun y => !rs.contains y.sender), waiting := m.exch.waiting.filter (fun y => !rs.contains y.1) }
  let c := m.clus
  { m with exch := x, clus := { c with stateDue := c.stateDue.filter (fun q => !rs.contains q.2), stateNow := c.stateNow.filter (fun q => !rs.contains q.2) } }

/-- What follows once the loss stands (R418, R420): the attempt stops at the next boundary. A checkpoint in progress is abandoned: the
root knows of it, and every module where the lost rank was the root (R427; log entry 47). -/
def Mod.lossGo (m : Mod) (r : Nat) : Mod :=
  let m := m.sendLoss r false
  let m := (if m.clus.ckpt.isSome && (m.self = m.root || decide (r < m.root)) then m.ckptAbandon true else m).widow r
  { m with clus := { m.clus with lossDue := m.clus.lossDue ++ [r] } }

/-- The boundary at which survivors act on the losses they have learnt of (R420). -/
def Mod.lossNow (m : Mod) : Mod :=
  if m.clus.lossDue.isEmpty then m
  else ((({ m with clus := { m.clus with lossDue := [] } }).lossReturn m.clus.lossDue).openSessions).survive

/-- A survivor learns of a loss (R418 to R420). `mine`: this module declared it; `quorum`: it was declared by silence, so that R419
asks for a quorum (log entry 48). -/
def Mod.learnLoss (m : Mod) (r : Nat) (mine quorum : Bool) : Mod :=
  if r = m.self then (m.event 0x8506 0 0).loseSelf 0x8506
  else if m.clus.lost.contains r || m.cord.inst.isNone || decide (m.nmod ≤ r) then m
  else
    let m := if mine then m.sendCl r { m.clMsg 4 with subject := r } else m
    let m := m.noteLoss r
    if quorum && decide (2 * m.ranks.length ≤ m.nmod) then (m.event 0x8505 m.ranks.length 0).loseSelf 0x8505
    else m.lossGo r

/-- A module is declared lost here (R417, R418). -/
def Mod.declareLost (m : Mod) (r : Nat) (quorum : Bool) : Mod := m.learnLoss r true quorum

/-! ### Messages that the receiver cannot use -/

/-- MSG_RESERVED (R404): counted, raised, the sender handled as lost. -/
def Mod.msgReserved (m : Mod) (r kind vkind bit : Nat) : Mod :=
  let m := { m with clus := { m.clus with msgRes := m.clus.msgRes + 1 } }
  (m.event 0x8406 r (kind + 16 * vkind + 2 ^ 16 * bit)).declareLost r false

/-- A message whose tag fails (R369, R403): RESEND for the chunk, summary or cluster message named; the fourth failure of one reports the
sender. -/
def Mod.tagFail (m : Mod) (r : Nat) (key : Nat × Nat × Nat) (resend : Bool) : Mod :=
  let x := m.exch
  let k := (r, key)
  let n := (x.fails.filter (· = k)).length
  let m := { m with exch := { x with sealFail := x.sealFail + 1, fails := x.fails ++ [k] } }
  if 3 ≤ n then (m.event 0x8403 r m.train.step).declareLost r false
  else if resend then
    m.queueEx r { kind := 3, bucket := key.1, piece := key.2.1, chunk := key.2.2, sender := m.self,
                  attempt := m.train.attempt, step := m.train.step }
  else m

/-! ### Pairing (R405 to R407) -/

/-- Bytes of the layout that both ends of a pair digest: `flip` puts the mirrored part first, as the partner sees it. -/
def Mod.layoutBytes (m : Mod) (flip : Bool) : List Byte :=
  let sh := fun (e : Nat) => leBytes 2 (shTensor e) ++ leBytes 5 (shFirst e) ++ leBytes 5 (shCount e)
  let own := m.owned.flatMap sh
  let mir := (m.mirShards.map m.mirShard).flatMap sh
  let seg := fun (mi : Bool) => (m.segs.filter fun e => bitAt e 16 && bitAt e 17 = mi).flatMap fun e =>
    leBytes 1 (slice e 11 4) ++ leBytes 1 (slice e 15 12) ++ leBytes 4 (slice e 127 96) ++ leBytes 8 (slice e 191 128)
  let tab := (m.hbmmap.filter fun e => slice e 3 0 = 1 && slice e 11 4 = 9).flatMap fun e => leBytes 5 (slice e 103 64)
  let mtab := (m.mirrors.filter fun e => slice e 4 4 = 1).flatMap fun e => leBytes 5 (slice e 317 278)
  if flip then mir ++ own ++ seg true ++ seg false ++ mtab ++ tab else own ++ mir ++ seg false ++ seg true ++ tab ++ mtab

/-- The payload of HELLO (R405 step 2; its layout is log entry 49). -/
def Mod.helloBody (m : Mod) : List Byte :=
  beBytes 8 (cId m.img) ++ beBytes 2 m.self ++ beBytes 1 (m.pow.feedCode % 8) ++ beBytes 1 (b2n m.kop.feedOvr) ++
    sha512 (m.layoutBytes false)

/-- HELLO to the partner, once its session is open. -/
def Mod.sendHello (m : Mod) : Mod :=
  match m.partner with
  | some r =>
    if m.clus.pair == .pairing && !m.clus.helloOut && (m.msess r).open' then
      let b := m.helloBody
      ({ m with clus := { m.clus with helloOut := true } }).sendCl r { m.clMsg 6 with len := b.length, body := b }
    else m
  | none => m

/-- Pairing step 1: the session with the partner (R405). -/
def Mod.pairStart (m : Mod) : Mod :=
  if cSingle m.img || m.partner.isNone then m
  else
    let m := { m with clus := { m.clus with pair := .pairing, pairAt := m.tick.now, helloOut := false, hello := none,
                                            pairFail := none, digOwn := [], digPeer := [] } }
    m.openSessions.sendHello

/-- A failure that persists until a new cord is loaded or the feed override changes (R407). -/
def pairStays (c : Nat) : Bool := [0x0D01, 0x0D03, 0x0D04].contains c

/-- The Owner sets the feed override; a failure that it ends is tried again (R406, R407). -/
def Mod.setFeedOvr (m : Mod) (b : Bool) : Mod :=
  let was := m.kop.feedOvr
  let m := { m with kop := { m.kop with feedOvr := b } }
  match m.clus.pairFail with
  | some c => if was != b && pairStays c then m.pairStart else m
  | none => m

/-- Pairing fails with a code (R407). -/
def Mod.failPair (m : Mod) (code : Nat) : Mod :=
  ({ m with clus := { m.clus with pairFail := some code, hello := none } }).event 0x8501 (m.partner.getD 0) code

/-- The partner's HELLO against this module's own (R407), codes in ascending order. -/
def Mod.helloFault (m : Mod) (b : List Byte) : Option Nat :=
  let r := m.partner.getD 0
  let feed := beNat ((b.drop 10).take 1)
  if beNat (b.take 8) ≠ cId m.img then some 0x0D01
  else if beNat ((b.drop 8).take 2) ≠ r then some 0x0D02
  else if feed = m.pow.feedCode % 8 ∧ !m.kop.feedOvr then some 0x0D03
  else if (b.drop 12).take 64 ≠ sha512 (m.layoutBytes true) then some 0x0D04
  else none

/-- Step 3 of R405, once both HELLOs are held: the checks, then the digests of step 4; with nothing to digest the pair stands. -/
def Mod.pairCheck (m : Mod) : Mod :=
  match m.clus.hello with
  | none => m
  | some b =>
    if !m.clus.helloOut || m.clus.pair != .pairing || m.clus.pairFail.isSome then m
    else match m.helloFault b with
      | some c => m.failPair c
      | none =>
        let m := { m with clus := { m.clus with shared := beNat ((b.drop 10).take 1) = m.pow.feedCode % 8 } }
        if m.items.isEmpty then m.pairDone else if m.roundOn then m.digestRound else m.wantRound

/-- Reads that have waited for a die or for the settle go on: exports, checkpoints, STATE, moves of a redistribution. -/
def Mod.pumpState (m : Mod) : Mod :=
  let m := if m.hbm.settle.isEmpty then m else m.runSettle
  let m := ((m.exportPump).ckptReport).sendDue false
  let m := if m.train.startAt.isSome && m.train.flipDue.isNone then m.followFlip false m.train.last else m
  if m.clus.hands.all (·.done) then m else m.handPump.redistDone

end Sys2Proof.Machine
end

