-- ==== Sys2Proof/Machine/Receive.lean ====
section
/-! DEFINITION. Sealed messages as they arrive: exchange messages (R362 to R371), cluster messages (R402 to R430); the commit vote, the flip, digest rounds, loss by silence. Each row that receives a message takes the sender's rank, SUITE and CTR of the prefix, and the plaintext; `none` means that the tag fails (log entry 51). -/

namespace Sys2Proof.Machine

/-! ### Exchange messages -/

/-- The bit offset of the first field that R404 objects to in an exchange message. -/
def exReserved (x : ExMsg) : Option Nat :=
  if x.kind = 0 ∨ 4 < x.kind then some 0
  else if x.kind = 2 ∧ (x.npart = 0 ∨ 16 < x.npart) then some 8
  else if x.kind = 1 ∧ (x.len < 128 ∨ 65536 < x.len) then some 160
  else none

/-- Base of the receive area, and the slot of the next message of a rank: its share's slots in rotation (R361; log entry 103). -/
def Mod.rxArea (m : Mod) : Nat := slice (m.buckets.headD 0) 43 4
def Mod.rxSlot (m : Mod) (r : Nat) : Nat := m.exPeers.findIdx (· = r) * m.exShare + tGet 0 m.exch.rxAt r % Nat.max 1 m.exShare

/-- A message of a rank can land: the die of its slot runs (R267). A rank outside the own groups has no share of the area (R361; log
entry 43). -/
def Mod.mayLand (m : Mod) (r : Nat) : Bool :=
  !m.exPeers.contains r || m.dieRuns (m.dieAt (m.rxArea + 69632 * m.rxSlot r))

/-- A sealed message of n bytes of plaintext lands in a slot of the receive area (R361). What its sealed bytes read as is open (log
entry 51). -/
def Mod.landEx (m : Mod) (r n : Nat) : Mod :=
  if !m.exPeers.contains r then m
  else
  let k := 32 + n
  let d := m.openVal
  let m := d.2.hbmPut (m.rxArea + 69632 * m.rxSlot r) (leBytes k d.1)
  { m with exch := { m.exch with rxAt := tSet 0 m.exch.rxAt r (tGet 0 m.exch.rxAt r + 1) } }

/-- Receipt of an exchange message of one KIND; `key` names the bucket, piece and chunk for a RESEND. With the die of its slot
stopped it cannot land (R267). -/
def Mod.rxEx (m : Mod) (r suite ctr : Nat) (body : Option (List Byte)) (kind : Nat) (key : Nat × Nat × Nat) : Mod :=
  if m.cord.inst.isNone || !m.coresRun || !m.mayLand r then m
  else
    let m := m.landEx r ((body.map List.length).getD 0)
    let o := m.openMsg r 0 suite ctr body
    match o.1 with
    | .bad => (o.2.tagFail r key (decide (kind ≤ 2))).freeSlot r
    | .replay => o.2.freeSlot r
    | .suite => (o.2.msgReserved r 0 0 32).freeSlot r
    | .ok p =>
      let x := ExMsg.ofBytes p
      match exReserved x with
      | some b => (o.2.msgReserved r x.kind 0 b).freeSlot r
      | none => if x.kind = kind then o.2.takeEx { x with sender := r } else m

/-- R364, R368 to R370: a CONTRIB arrives. -/
def execContribReceive (r : BitVec 12) (suite : BitVec 8) (ctr : BitVec 64) (body : Option (List Byte))
    (bucket piece : BitVec 16) (chunk : BitVec 32) (s : State) : Host.Outcome State Fault Refusal :=
  lift (fun m => m.rxEx r.toNat suite.toNat ctr.toNat body 1 (bucket.toNat, piece.toNat, chunk.toNat)) s

/-- R366, R369: a SUMMARY arrives. -/
def execSummaryReceive (r : BitVec 12) (suite : BitVec 8) (ctr : BitVec 64) (body : Option (List Byte))
    (bucket : BitVec 16) (s : State) : Host.Outcome State Fault Refusal :=
  lift (fun m => m.rxEx r.toNat suite.toNat ctr.toNat body 2 (bucket.toNat, 0, 0xFFFFFFFF)) s

/-- R369: a RESEND arrives; one whose own tag fails is discarded and counted. -/
def execResendReceive (r : BitVec 12) (suite : BitVec 8) (ctr : BitVec 64) (body : Option (List Byte))
    (bucket piece : BitVec 16) (chunk : BitVec 32) (s : State) : Host.Outcome State Fault Refusal :=
  lift (fun m => m.rxEx r.toNat suite.toNat ctr.toNat body 3 (2 ^ 19 + bucket.toNat, piece.toNat, chunk.toNat)) s

/-- R371: a VOID arrives; one whose tag fails is discarded and counted, and names nothing to be sent again. -/
def execVoidReceive (r : BitVec 12) (suite : BitVec 8) (ctr : BitVec 64) (body : Option (List Byte)) (s : State) :
    Host.Outcome State Fault Refusal :=
  lift (fun m => m.rxEx r.toNat suite.toNat ctr.toNat body 4 (2 ^ 20, 0, 0)) s

/-! ### Cluster messages -/

/-- The bit offset of the first field that R404 objects to in a cluster message. -/
def clReserved (x : ClMsg) : Option Nat :=
  if x.kind = 0 ∨ 0xD < x.kind then some 0
  else if (x.kind = 2 ∨ x.kind = 3) ∧ (x.vkind = 0 ∨ 3 < x.vkind) then some 4
  else if x.kind ≠ 2 ∧ x.kind ≠ 3 ∧ x.vkind ≠ 0 then some 4
  else if 65536 < x.len then some 224
  else none

/-- A partition that the receiver has left behind: what it names as lost is a part of the lost set (R403). -/
def Mod.partOld (m : Mod) (p : Nat) : Bool :=
  if p = 0 then m.clus.part != 0
  else
    match (m.fallback.find? fun e => slice e 3 0 = 5 && slice e 13 4 = p) with
    | none => true
    | some e => (partLost e).all (m.clus.lost.contains ·) && decide ((partLost e).length < m.clus.lost.length)

/-- An item's STATE lands (R415, R421). -/
def Mod.stateWrite (m : Mod) (k : Nat) (x : ClMsg) : Mod :=
  match itKind k with
  | 0 | 1 => let c := m.itCopy k; m.payWrite c 0 c.cnt x.offset x.body
  | 4 | 5 =>
    (List.range (x.body.length / 16384)).foldl (fun m i =>
      let t := slice (m.itEnt k) 94 64 + x.offset / 16384 + i
      let b := (x.body.drop (16384 * i)).take 16384
      let d := m.openVal
      let m := d.2.writeTurf t (d.1 % 64) b
      match m.slotOf t with
      | some j => m.hbmPut (m.pslot j).addr b
      | none => m) m
  | _ => m.hbmWrite ((m.itRegion k).1 + x.offset) x.body

/-- The item that a STATE is for: one that is awaited, else any of that key (R402). -/
def Mod.stateItem (m : Mod) (x : ClMsg) : Option Nat :=
  match m.clus.stateIn.find? (fun p => m.itKey p.1 = (x.tensor, x.first)) with
  | some p => some p.1
  | none => (m.items ++ m.replicas.map (6 + 8 * ·)).find? fun k => m.itKey k = (x.tensor, x.first)

/-- What is still awaited after a chunk of an item's STATE. -/
def Mod.stateLeft (m : Mod) (k n : Nat) : List (Nat × Nat × Nat) :=
  (m.clus.stateIn.map fun p => if p.1 = k then (p.1, p.2.1, p.2.2 - n) else p).filter fun p => p.2.2 ≠ 0

/-- A chunk of STATE counts as come: its item's awaited bytes, and the STEP of a shard that a redistribution brings (R421, R423). -/
def Mod.noteState (m : Mod) (k : Nat) (x : ClMsg) : Mod :=
  { m with clus := { m.clus with stateIn := m.stateLeft k x.len,
                                 gain := m.clus.gain.map fun g => if g.1 = k then (k, g.2.1, x.step) else g } }

/-- STATE of a step that this module has still to flip to (R423): it counts as come and is written after the flip. -/
def Mod.aheadState (m : Mod) (x : ClMsg) : Mod :=
  match m.stateItem x with
  | none => m
  | some k => (m.noteState k x).redistDone

/-- A STATE chunk (R415, R416, R421). Readers of a replica's region wait from the first chunk to the last; the working copy of a shard
that a redistribution brings is made anew after its last (R421 step 3). -/
def Mod.takeState (m : Mod) (x : ClMsg) : Mod :=
  match m.stateItem x with
  | none => m
  | some k =>
    let m := m.stateWrite k x
    let left := m.stateLeft k x.len
    let ends := !left.any fun p => p.1 = k
    let m := if ends && itKind k = 0 && !m.clus.redist && m.clus.gain.any (fun g => g.1 = k) then m.regen (m.itEnt k) else m
    let m := m.noteState k x
    let keep := m.clus.holdV.filter fun t => left.any fun p => itKind p.1 ≤ 1 && (m.itKey p.1).1 = t
    let g := m.itRegion k
    let m := if !(!ends || itKind k = 6 && decide (x.offset + x.len < g.2)) then m.restored k
      else if itKind k = 6 then { m with clus := { m.clus with rewrite := (m.clus.rewrite ++ [g]).eraseDups } }
      else m
    (({ m with clus := { m.clus with holdV := keep } }).pairDone).redistDone

/-- A VOTE of a child joins those held; an abort vote, held from then on, makes this module cast its own (R226, R412, R430). -/
def Mod.takeVote (m : Mod) (x : ClMsg) : Mod :=
  let m := { m with clus := { m.clus with votes := (m.clus.votes.filter (fun (v : ClMsg) => v.sender != x.sender)) ++ [x] } }
  let m : Mod := if x.vkind = 2 then { m with train := { m.train with abort := true } } else m
  let m := if x.vkind = 2 ∧ m.clus.own.isNone then m.castVote 2 0 else m
  m.runVotes

/-- The landing area of the partner's gradient for a shard (R399). -/
def Mod.gradArea (m : Mod) (tensor first : Nat) : Option Nat :=
  (m.mirShards.find? fun e => shTensor (m.mirShard e) = tensor && shFirst (m.mirShard e) = first).map fun e => slice e 247 208

/-- The pair of a repair: the replacement stands where the survivor's committed state stands (R424; log entry 123). -/
def Mod.adoptStep (m : Mod) (x : ClMsg) : Mod :=
  if m.clus.repl && m.clus.pair == .pairing && m.partner = some x.sender && x.step ≠ 0 then
    { m with train := { m.train with step := x.step, last := x.step - 1, haveState := decide (1 < x.step) } }
  else m

/-- A message into this module's HBM can land (R267). -/
def Mod.clLands (m : Mod) (x : ClMsg) : Bool :=
  match x.kind with
  | 7 => match m.gradArea x.tensor x.first with
    | some a => m.onDies (a + x.offset) x.body.length
    | none => true
  | 0xB => match m.stateItem x with
    | some k => m.itemOn k
    | none => true
  | _ => true

/-- What a cluster message of the receiver's partition does. -/
def Mod.takeCl (m : Mod) (x : ClMsg) : Mod :=
  match x.kind with
  | 1 => { m with clus := { m.clus with beats := tSet 0 m.clus.beats x.sender (x.tick + 1) } }
  | 2 => m.takeVote x
  | 3 => m.passOutcome x
  | 4 => m.learnLoss x.subject false true
  | 5 => if m.pow.state == .running && m.train.stop.isNone then m.declareLost x.subject false else m
  | 6 => if m.partner = some x.sender then ({ m with clus := { m.clus with hello := some x.body } }).pairCheck else m
  | 7 =>
    match m.gradArea x.tensor x.first with
    | some a => let m := m.hbmPut (a + x.offset) x.body
                { m with clus := { m.clus with mgrad := m.clus.mgrad ++ [(x.tensor, x.first, x.offset)] } }
    | none => m
  | 8 =>
    let y := ExMsg.ofBytes x.body
    { m with clus := { m.clus with msums := joinSum m.clus.msums y.bucket y.sender y.nonfin (partRecs y.npart y.body) } }
  | 9 => if m.partner = some x.sender then { m with clus := { m.clus with mack := true } } else m
  | 0xA =>
    let rs := digRecs x.nrec x.body
    let m : Mod := (rs.filter DigRec.ofReplica).foldl (fun (m : Mod) q => m.compareReplica x.sender q) m
    let ps := rs.filter fun (q : DigRec) => !q.ofReplica
    if m.partner = some x.sender && !ps.isEmpty then
      let m := { m with clus := { m.clus with digPeer := m.clus.digPeer ++ ps } }
      if x.nrec < 2048 || decide (m.items.length ≤ m.clus.digPeer.length) then m.joinRound else m
    else m
  | 0xB => m.takeState x
  | 0xC =>
    if m.self = m.root && m.clus.ckpt.isSome then
      ({ m with clus := { m.clus with ckptEnts := m.clus.ckptEnts ++ x.body, ckptFrom := m.clus.ckptFrom ++ [x.sender] } }).ckptFinish
    else m
  | _ => m

/-- Kinds judged by STEP and ATTEMPT (R403): votes and outcomes of a step, mirror traffic, MACK. -/
def clJudged (x : ClMsg) : Bool := ((x.kind = 2 || x.kind = 3) && x.vkind ≠ 3) || x.kind = 7 || x.kind = 8 || x.kind = 9

def Mod.holdCl (m : Mod) (x : ClMsg) : Mod := { m with clus := { m.clus with held := m.clus.held ++ [x] } }

/-- A cluster message judged by PART, then by STEP and ATTEMPT (R403). Losses and departures, which themselves change the partition, are
not judged; of heartbeats, HELLO and CKDONE no step is old, and STATE and CKDONE of a flip wait for the own flip (log entry 50). One that
cannot land waits for its die. -/
def Mod.judgeCl (m : Mod) (x : ClMsg) : Mod :=
  if x.kind = 4 ∨ x.kind = 5 then m.takeCl x
  else if x.part ≠ m.clus.part then (if m.partOld x.part then m else m.holdCl x)
  else if !m.clLands x then m.holdCl x
  else if clJudged x then
    match m.age x.step x.attempt with
    | .old => m.exStale
    | .now => m.takeCl x
    | .newStep => m.holdCl x
    | .newAttempt => m.voidByPeer.holdCl x
  else if x.kind = 0xA then
    if m.clus.pair == .pairing then (m.adoptStep x).takeCl x
    else if x.step < m.train.step then m else if m.train.step < x.step then m.holdCl x else m.takeCl x
  else if x.kind = 0xB && m.clus.pair != .pairing && decide (m.train.step < x.step) then
    (if m.clus.redist then m.aheadState x else m).holdCl x
  else if x.kind = 0xC && decide (m.train.step < x.step) then m.holdCl x
  else if x.kind = 2 && m.age x.step x.attempt == .newAttempt then m.voidByPeer.takeCl x
  else m.takeCl x

/-- Held messages judged again, after a flip, a void or a change of partition. -/
def Mod.rejudgeCl (m : Mod) : Mod :=
  let h := m.clus.held
  h.foldl Mod.judgeCl { m with clus := { m.clus with held := [] } }

/-- The seed of the job as rank 0 sends it, four bytes in network byte order (R339; log entry 56): the entries take the keys that it makes. -/
def Mod.takeSeed (m : Mod) (p : List Byte) : Mod :=
  (({ m with train := { m.train with seed := some (BitVec.ofNat 32 (beNat p)) } } : Mod)).putEntries fun _ => true

/-- Receipt of a cluster message of one KIND. Four bytes of rank 0 are the seed of the job (log entry 56). -/
def Mod.rxCl (m : Mod) (r suite ctr : Nat) (body : Option (List Byte)) (kind : Nat) : Mod :=
  if m.cord.inst.isNone || m.pow.state = .off || m.pow.state = .fault then m
  else
    let o := m.openMsg r 0 suite ctr body
    match o.1 with
    | .bad => o.2.tagFail r (0, 0, 0xFFFFFF00 + kind) true
    | .replay => o.2
    | .suite => o.2.msgReserved r 0 0 32
    | .ok p =>
      let x := ClMsg.ofBytes p
      if p.length = 4 && r = 0 && cSrSeed m.img then o.2.takeSeed p
      else match clReserved x with
      | some b => o.2.msgReserved r x.kind x.vkind b
      | none => if x.kind = kind then (o.2.judgeCl { x with sender := r }).rejudgeCl else m

/-- R417: a HEARTBEAT arrives. -/
def execHeartbeatReceive (r : BitVec 12) (suite : BitVec 8) (ctr : BitVec 64) (body : Option (List Byte)) (s : State) :
    Host.Outcome State Fault Refusal := lift (fun m => m.rxCl r.toNat suite.toNat ctr.toNat body 1) s
/-- R412: a VOTE arrives. -/
def execVoteReceive (r : BitVec 12) (suite : BitVec 8) (ctr : BitVec 64) (body : Option (List Byte)) (s : State) :
    Host.Outcome State Fault Refusal := lift (fun m => m.rxCl r.toNat suite.toNat ctr.toNat body 2) s
/-- R412, R413: an OUTCOME arrives. -/
def execOutcomeReceive (r : BitVec 12) (suite : BitVec 8) (ctr : BitVec 64) (body : Option (List Byte)) (s : State) :
    Host.Outcome State Fault Refusal := lift (fun m => m.rxCl r.toNat suite.toNat ctr.toNat body 3) s
/-- R418, R420: a LOSS arrives. -/
def execLossReceive (r : BitVec 12) (suite : BitVec 8) (ctr : BitVec 64) (body : Option (List Byte)) (s : State) :
    Host.Outcome State Fault Refusal := lift (fun m => m.rxCl r.toNat suite.toNat ctr.toNat body 4) s
/-- R418: a DEPART arrives. -/
def execDepartReceive (r : BitVec 12) (suite : BitVec 8) (ctr : BitVec 64) (body : Option (List Byte)) (s : State) :
    Host.Outcome State Fault Refusal := lift (fun m => m.rxCl r.toNat suite.toNat ctr.toNat body 5) s
/-- R405 to R407: a HELLO arrives. -/
def execHelloReceive (r : BitVec 12) (suite : BitVec 8) (ctr : BitVec 64) (body : Option (List Byte)) (s : State) :
    Host.Outcome State Fault Refusal := lift (fun m => m.rxCl r.toNat suite.toNat ctr.toNat body 6) s
/-- R408, R409: an MGRAD chunk arrives. -/
def execMgradReceive (r : BitVec 12) (suite : BitVec 8) (ctr : BitVec 64) (body : Option (List Byte)) (s : State) :
    Host.Outcome State Fault Refusal := lift (fun m => m.rxCl r.toNat suite.toNat ctr.toNat body 7) s
/-- R408, R409: an MSUM arrives. -/
def execMsumReceive (r : BitVec 12) (suite : BitVec 8) (ctr : BitVec 64) (body : Option (List Byte)) (s : State) :
    Host.Outcome State Fault Refusal := lift (fun m => m.rxCl r.toNat suite.toNat ctr.toNat body 8) s
/-- R24, R410: a MACK arrives. -/
def execMackReceive (r : BitVec 12) (suite : BitVec 8) (ctr : BitVec 64) (body : Option (List Byte)) (s : State) :
    Host.Outcome State Fault Refusal := lift (fun m => m.rxCl r.toNat suite.toNat ctr.toNat body 9) s
/-- R414 to R416: a DIGEST arrives. -/
def execDigestReceive (r : BitVec 12) (suite : BitVec 8) (ctr : BitVec 64) (body : Option (List Byte)) (s : State) :
    Host.Outcome State Fault Refusal := lift (fun m => m.rxCl r.toNat suite.toNat ctr.toNat body 0xA) s
/-- R415, R421: a STATE chunk arrives. -/
def execStateReceive (r : BitVec 12) (suite : BitVec 8) (ctr : BitVec 64) (body : Option (List Byte)) (s : State) :
    Host.Outcome State Fault Refusal := lift (fun m => m.rxCl r.toNat suite.toNat ctr.toNat body 0xB) s
/-- R427: a CKDONE arrives. -/
def execCkdoneReceive (r : BitVec 12) (suite : BitVec 8) (ctr : BitVec 64) (body : Option (List Byte)) (s : State) :
    Host.Outcome State Fault Refusal := lift (fun m => m.rxCl r.toNat suite.toNat ctr.toNat body 0xC) s

/-! ### Events of this module -/

/-- R24, R328, R412: the module casts its commit vote: the commit AND of every hearth holds, the non-committed side and the stage of
every owned shard are written whole, no move is in progress, no abort vote is held, and the partner has acknowledged the replay. A fault after it belongs to the next step (R198). -/
def execCommitVoteCast (s : State) : Host.Outcome State Fault Refusal :=
  lift (fun m =>
    if !m.train.running || m.train.voted || !m.train.andOk || !m.updateDone || !m.hbm.moves.isEmpty || m.train.abort ||
        m.clus.votes.any (·.vkind = 2) || (m.mate.isSome && !m.clus.mack) then m
    else
      let m := m.decideAll
      let m := { m with train := { m.train with voted := true, running := false, owed := some m.train.step } }
      (m.castVote 1 0).runVotes) s

/-- The flip at the boundary after the OUTCOME, if it is due (R327). -/
def Mod.flipNow (m : Mod) : Mod :=
  match m.train.flipDue with
  | none => m
  | some _ =>
    let ck := m.train.ckptDue
    let m := (({ m with train := { m.train with ckptDue := false } }).flip m.train.nfSkip ck).rejudgeCl
    m.followFlip true m.train.last

/-- R25, R327: the side flip of a step whose every vote is held, just before the boundary is delivered. -/
def execSideFlip (s : State) : Host.Outcome State Fault Refusal := lift Mod.flipNow s

/-- R414, R416: a digest round, once the settle has ended. -/
def execDigestRound (s : State) : Host.Outcome State Fault Refusal :=
  lift (fun m => if m.clus.digDue && m.hbm.settle.isEmpty && m.cord.inst.isSome && (m.mate.isSome || !m.replicas.isEmpty) && m.roundOn
    then m.digestRound else m) s

/-- R407: no HELLO within 10 s of step 1. -/
def execPairTimeout (s : State) : Host.Outcome State Fault Refusal :=
  lift (fun m =>
    if m.clus.pair == .pairing && m.clus.hello.isNone && m.clus.pairFail.isNone && decide (m.clus.pairAt + 10000000000 ≤ m.tick.now)
    then m.failPair 0x0D05 else m) s

/-- R417, R418: a module is lost: watched, its last heartbeat was for tick t and the boundary of t + 4 has come, or every queue pair to it
is in error. -/
def execLossBySilence (r : BitVec 12) (s : State) : Host.Outcome State Fault Refusal :=
  lift (fun m =>
    let b := tGet 0 m.clus.beats r.toNat
    if m.clus.badQps.contains r.toNat || (m.watchers.contains r.toNat && b ≠ 0 && decide (b + 3 ≤ m.tick.cnt.toNat))
    then m.declareLost r.toNat true else m) s

end Sys2Proof.Machine
end

