-- ==== Sys2Proof/Machine/Ethernet.lean ====
section
/-! DEFINITION. Ethernet and RoCEv2 (chapter 15): ports and interfaces, frames answered or dropped, address lists, queue pairs as packets arrive and timers expire, congestion and flow control, host accesses. -/

namespace Sys2Proof.Machine

/-! ### Ports and interfaces -/

/-- A layout creates interface i (R432). -/
def layoutHas (layout i : Nat) : Bool :=
  match layout with
  | 0 => i % 4 = 0
  | 1 => i % 2 = 0
  | _ => true

def Mod.ifIs (m : Mod) (i : Nat) : Bool := layoutHas (m.port (i / 4)).layout i

/-- A Neighbour Advertisement for an address of an interface. -/
def Mod.advert (m : Mod) (i addr dst flags : Nat) : List Byte :=
  icmp6 addr dst 136 255 (beBytes 4 flags ++ beBytes 16 addr ++ beBytes 2 0x0201 ++ beBytes 6 (m.ifMac i))

/-- An ICMP echo reply over IPv4. -/
def echo4 (src dst : Nat) (rest : List Byte) : List Byte :=
  let hdr := fun (c : Nat) => beBytes 2 0x4500 ++ beBytes 2 (24 + rest.length) ++ beBytes 4 0 ++ beBytes 2 0x4001 ++ beBytes 2 c ++
    beBytes 4 src ++ beBytes 4 dst
  let c := inetSum (beBytes 4 0 ++ rest)
  hdr (inetSum (hdr 0)) ++ beBytes 2 0 ++ beBytes 2 c ++ rest

/-- Gratuitous announcements of an interface's addresses at link-up (R434). -/
def Mod.announce (m : Mod) (i : Nat) : Mod :=
  let x := m.iface i
  let all1 := 0xFF02 * 2 ^ 112 + 1
  let na := fun (m : Mod) (a : Nat) => m.put (.frame i (m.ethFrame i 0x333300000001 0x86DD (m.advert i a all1 0x20000000)))
  let m := if x.ip4 = 0 then m
    else m.put (.frame i (m.ethFrame i 0xFFFFFFFFFFFF 0x0806 (arpBody 1 (m.ifMac i) x.ip4.toNat 0 x.ip4.toNat)))
  let m := na m (m.ifLocal i).toNat
  if x.ip6 = 0 then m else na m x.ip6.toNat

/-! ### Paths and queue pairs -/

/-- Parts of a request that a test selects go out again, on their path where that still stands, or with `next` on another (R440, R441);
a READ as one packet. -/
def EthSt.resendReq (e : EthSt) (c : Nat) (next : Bool) (sel : SentReq → Nat × Nat × Nat → Bool) (r : SentReq) : EthSt × SentReq :=
  let x := tGet {} e.qps c
  let hit := r.left.filter (sel r)
  let path := fun (p : Nat × Nat × Nat) => match x.paths.findIdx? fun q => q.loc = p.2.1 && q.rem = p.2.2 with
    | some k => if next then (k + 1) % x.paths.length else k
    | none => x.pathOf (r.psn + p.1)
  let move := fun (p : Nat × Nat × Nat) => match x.paths[path p]? with
    | some q => if sel r p then (p.1, q.loc, q.rem) else p
    | none => p
  if hit.isEmpty then (e, r)
  else
    let out := if r.item.isRead then hit.take 1 else hit
    (out.foldl (fun e p => e.onPath c x.cls p.1 (path p) r.item) { e with wire := e.wire ++ [r.item] }, { r with left := r.left.map move })

/-- What a context has sent and not seen acknowledged, as far as a test selects it, goes out again. -/
def Mod.resendSome (m : Mod) (c : Nat) (next : Bool) (sel : SentReq → Nat × Nat × Nat → Bool) : Mod :=
  let s := (m.qp c).sent.foldl (fun (s : EthSt × List SentReq) r =>
    let o := s.1.resendReq c next sel r
    (o.1, s.2 ++ [o.2])) (m.eth, [])
  let m := { m with eth := s.1 }
  m.setQp c { m.qp c with sent := s.2 }

def Mod.resend (m : Mod) (c : Nat) : Mod := m.resendSome c false fun _ _ => true

/-- A context enters the error state: nothing it has sent completes (R440). A rank whose every queue pair is in error counts
as lost for its watchers (R418). -/
def Mod.qpError (m : Mod) (c : Nat) : Mod :=
  let x := m.qp c
  let m := m.setQp c { x with run := .error, sent := [], later := [], gap := none }
  match x.rank with
  | none => m
  | some r =>
    if (m.qpsOf r).all (fun k => (m.qp k).run == .error) then
      { m with clus := { m.clus with badQps := (m.clus.badQps ++ [r]).eraseDups } }
    else m

/-- Paths of a spread queue pair that a test selects are dropped; the packets that they left unacknowledged go out on the others
(R441). -/
def Mod.dropPaths (m : Mod) (c : Nat) (gone : PathSt → Bool) : Mod :=
  let x := m.qp c
  if x.rank.isNone || !x.paths.any gone then m
  else
    let left := x.paths.filter fun p => !gone p
    (m.setQp c { x with paths := left }).resendSome c false fun _ p => !left.any fun q => q.loc = p.2.1 && q.rem = p.2.2

/-- Every context with a test. -/
def Mod.eachQp (m : Mod) (f : Mod → Nat → Mod) : Mod := (m.eth.qps.map Prod.fst).foldl f m

/-- The new address list goes to every session peer (R442). -/
def Mod.tellAddrs (m : Mod) : Mod :=
  (m.sec.sess.filter fun p => p.2.open').foldl (fun (m : Mod) p =>
    let b := m.addrList
    m.sendCl p.1 { m.clMsg 0xD with nrec := m.addrCount, len := b.length, body := b }) m

/-- An interface goes down (R437, R441, R442). -/
def Mod.linkDown (m : Mod) (i : Nat) : Mod :=
  let x := m.iface i
  if !x.up then m
  else
    let m := (m.setIface i { x with up := false }).event 0x8601 i 0
    let m := { m with eth := { m.eth with held := m.eth.held.filter (·.iface ≠ i), asked := m.eth.asked.filter (·.1 ≠ i) } }
    (m.eachQp fun m c => m.dropPaths c fun p => p.loc = i).tellAddrs

/-- An interface comes up (R434, R437, R442). -/
def Mod.linkUp (m : Mod) (i : Nat) : Mod :=
  let x := m.iface i
  if x.up then m
  else
    let m := (m.setIface i { x with up := true }).event 0x8601 (i + 256) 0
    let m := (m.setPort (i / 4) { m.port (i / 4) with run := .up }).announce i
    (m.eachQp fun m c => m.renewPaths c).tellAddrs

/-- Every interface of a port goes down. -/
def Mod.portIfsDown (m : Mod) (p : Nat) : Mod := (List.range 4).foldl (fun m k => m.linkDown (4 * p + k)) m

/-- R437: an interface's link comes up or goes down. A link comes up only on an enabled port that no shut-down and no lane
test holds, once the collier has started. -/
def execLinkChange (i : Fin 32) (up : Bool) (s : State) : Host.Outcome State Fault Refusal :=
  lift (fun m =>
    let p := m.port (i.val / 4)
    if !m.pow.collier then m
    else if up then
      if m.ifIs i.val && p.en && p.run != .shutting && !p.testing then m.linkUp i.val else m
    else
      let m := m.linkDown i.val
      let q := m.port (i.val / 4)
      if q.run == .up && !(List.range 4).any (fun k => (m.iface (4 * (i.val / 4) + k)).up) then
        m.setPort (i.val / 4) { q with run := .down }
      else m) s

/-- R442: a peer's ADDRS arrives: paths to interfaces no longer listed go, paths to new ones are added. -/
def execAddrsReceive (r : BitVec 12) (suite : BitVec 8) (ctr : BitVec 64) (body : Option (List Byte)) (s : State) :
    Host.Outcome State Fault Refusal :=
  lift (fun m =>
    if m.cord.inst.isNone then m
    else
      let o := m.openMsg r.toNat 0 suite.toNat ctr.toNat body
      match o.1 with
      | .bad => o.2.tagFail r.toNat (0, 0, 0xFFFFFF0D) true
      | .replay => o.2
      | .suite => o.2.msgReserved r.toNat 0xD 0 32
      | .ok p =>
        let x := ClMsg.ofBytes p
        if x.kind ≠ 0xD then m
        else if (clReserved x).isSome then o.2.msgReserved r.toNat 0xD x.vkind ((clReserved x).getD 0)
        else if 32 < x.nrec || x.nrec = 0 then o.2.msgReserved r.toNat 0xD 0 208
        else
          let l := addrsOf x.nrec x.body
          let m := { o.2 with eth := { o.2.eth with addrs := tSet [] o.2.eth.addrs r.toNat l } }
          (m.qpsOf r.toNat).foldl (fun (m : Mod) c =>
            (m.dropPaths c fun q => !l.any fun a => a.1 = q.rem).renewPaths c) m) s

/-! ### Frames (R434, R446) -/

/-- What becomes of a frame: dropped, left to the row of its protocol, answered, answered as an echo, a PAUSE. -/
inductive FrameDo where
  | drop | quiet | pause
  | reply (b : List Byte)
  | echo (b : List Byte)
deriving DecidableEq, Repr

/-- UDP ports of RoCEv2, KOP and PTP, whose packets are rows of their own. -/
def ownPort (p : Nat) : Bool := [4791, 51480, 319, 320].contains p

/-- UDP ports of PTP, which multicast packets reach too. -/
def ptpPort (p : Nat) : Bool := p = 319 || p = 320

/-- An ARP body. -/
def Mod.arpDo (m : Mod) (i : Nat) (b : List Byte) : FrameDo :=
  let ip := (m.iface i).ip4.toNat
  if ip = 0 || byteN b 24 4 ≠ ip then .drop
  else if byteN b 6 2 = 1 then
    .reply (m.ethFrame i (byteN b 8 6) 0x0806 (arpBody 2 (m.ifMac i) ip (byteN b 8 6) (byteN b 14 4)))
  else if byteN b 6 2 = 2 then .quiet else .drop

/-- A reply to an address leaves interface i only where that is reachable from there (R435) and its frame is one that the module may
send (R433). -/
def Mod.replyDo (m : Mod) (i : Nat) (a : BitVec 128) (act : List Byte → FrameDo) (b : List Byte) : FrameDo :=
  if m.reaches i a && decide (b.length ≤ frameMax) then act b else .drop

/-- An IPv4 packet; a fragment is none of those that the module answers (R434). -/
def Mod.ip4Do (m : Mod) (i src : Nat) (b : List Byte) : FrameDo :=
  let ip := (m.iface i).ip4.toNat
  let l := b.drop (4 * (byteN b 0 1 % 16))
  if byteN b 9 1 = 17 && ownPort (byteN l 2 2) && (ip ≠ 0 && byteN b 16 4 = ip || byteN b 16 1 / 16 = 14 && ptpPort (byteN l 2 2))
  then .quiet
  else if ip = 0 || byteN b 16 4 ≠ ip || byteN b 6 2 % 16384 ≠ 0 then .drop
  else if byteN b 9 1 = 1 && byteN l 0 1 = 8 then
    m.replyDo i (mapped4 (BitVec.ofNat 32 (byteN b 12 4))) .echo
      (m.ethFrame i src 0x0800 (echo4 ip (byteN b 12 4) ((l.take (byteN b 2 2 - 4 * (byteN b 0 1 % 16))).drop 4)))
  else .drop

/-- An IPv6 packet. -/
def Mod.ip6Do (m : Mod) (i src : Nat) (b : List Byte) : FrameDo :=
  let mine := fun (a : Nat) => (a ≠ 0 && a = (m.iface i).ip6.toNat) || a = (m.ifLocal i).toNat
  let l := (b.drop 40).take (byteN b 4 2)
  let from' := byteN b 8 16
  match byteN b 6 1 with
  | 17 => if ownPort (byteN l 2 2) && (mine (byteN b 24 16) || byteN b 24 1 = 255 && ptpPort (byteN l 2 2)) then .quiet else .drop
  | 58 =>
    if byteN l 0 1 = 135 && mine (byteN l 8 16) then
      if from' = 0 then .reply (m.ethFrame i 0x333300000001 0x86DD (m.advert i (byteN l 8 16) (0xFF02 * 2 ^ 112 + 1) 0x20000000))
      else m.replyDo i (BitVec.ofNat 128 from') .reply (m.ethFrame i src 0x86DD (m.advert i (byteN l 8 16) from' 0x60000000))
    else if byteN l 0 1 = 136 then .quiet
    else if byteN l 0 1 = 128 && mine (byteN b 24 16) then
      m.replyDo i (BitVec.ofNat 128 from') .echo (m.ethFrame i src 0x86DD (icmp6 (byteN b 24 16) from' 129 64 (l.drop 4)))
    else .drop
  | _ => .drop

/-- A frame as it is judged: length, address, VLAN tags, protocol. -/
def Mod.frameDo (m : Mod) (i : Nat) (f : List Byte) : FrameDo :=
  let v := (m.iface i).vlan
  let dst := byteN f 0 6
  let tag := byteN f 12 2 = 0x8100
  let l := if tag then f.drop 16 else f.drop 12
  let vid := byteN f 14 2 % 4096
  let src := byteN f 6 6
  if decide (9216 < f.length + 4) || decide (f.length < 14) then .drop
  else if byteN f 12 2 = 0x8808 then
    (match byteN f 14 2 with
    | 1 => .pause
    | 0x0101 => .quiet
    | _ => .drop)
  else if (tag && byteN f 16 2 = 0x8100) || (v = 0 && tag && vid ≠ 0) || (v ≠ 0 && (!tag || vid ≠ v)) then .drop
  else if dst ≠ m.ifMac i && byteN f 0 1 % 2 = 0 then .drop
  else match byteN l 0 2 with
    | 0x0806 => m.arpDo i (l.drop 2)
    | 0x0800 => m.ip4Do i src (l.drop 2)
    | 0x86DD => m.ip6Do i src (l.drop 2)
    | 0x88F7 => .quiet
    | _ => .drop

def Mod.dropFrame (m : Mod) (i : Nat) : Mod := m.setIface i { m.iface i with drops := (m.iface i).drops + 1 }

/-- R433, R434, R446: a frame arrives on an up interface, without its frame check. KOP, RoCEv2, PTP and PFC frames are rows of
their own. -/
def execFrameReceive (i : Fin 32) (f : List Byte) (s : State) : Host.Outcome State Fault Refusal :=
  lift (fun m =>
    let x := m.iface i.val
    if !m.pow.collier || !x.up then m
    else match m.frameDo i.val f with
      | .drop => m.dropFrame i.val
      | .quiet => m
      | .pause => m.setPort (i.val / 4) { m.port (i.val / 4) with ignored := (m.port (i.val / 4)).ignored + 1 }
      | .reply b => m.put (.frame i.val b)
      | .echo b =>
        let sec := m.tick.now / 1000000000
        let n := if x.echoSec = sec then x.echoes else 0
        if n < 1000 then (m.setIface i.val { x with echoes := n + 1, echoSec := sec }).put (.frame i.val b)
        else m.dropFrame i.val) s

/-! ### Host accesses (R451, R452) -/

def Mod.hostvis (m : Mod) : List Nat := m.recs 0xF 16
/-- The HBMMAP region of a HOSTVIS entry: base and length. -/
def Mod.hvRegion (m : Mod) (e : Nat) : Nat × Nat :=
  let g := nth 0 m.hbmmap (slice e 19 4)
  (slice g 55 16, slice g 103 64)

/-- A run of bytes lies wholly in the region of a HOSTVIS entry that allows the access. -/
def Mod.hvHolds (m : Mod) (e a n : Nat) (write : Bool) : Bool :=
  let g := m.hvRegion e
  slice e 3 0 = 1 && bitAt e (if write then 21 else 20) && decide (g.1 ≤ a ∧ a + n ≤ g.1 + g.2)

/-- A host access under an R_Key. -/
def Mod.hvAccess (m : Mod) (rkey a n : Nat) (write : Bool) : Bool :=
  (indices m.hostvis).any fun i => (tGet 0 m.eth.rkeys i).toNat = rkey && m.hvHolds (nth 0 m.hostvis i) a n write

/-! ### Doorbells (R455) -/

def Mod.ring (m : Mod) (r : Nat) : RingSt := tGet {} m.dma.rings r
def Mod.setRing (m : Mod) (r : Nat) (x : RingSt) : Mod := { m with dma := { m.dma with rings := tSet {} m.dma.rings r x } }

/-- The ring whose doorbell a zero-length WRITE with immediate on a context rings. -/
def Mod.bellOf (m : Mod) (c rkey : Nat) : Option Nat :=
  (m.dma.rings.find? fun p => p.2.live && !p.2.collier && p.2.ctx = c && p.2.rkey.toNat = rkey).map Prod.fst

/-- A new TAIL; one beyond the ring is ignored and counted. -/
def Mod.ringBell (m : Mod) (r : Nat) (tail : BitVec 32) : Mod :=
  let x := m.ring r
  if x.ents < (tail - x.head).toNat then m.setRing r { x with bad := x.bad + 1 }
  else m.setRing r { x with tail := tail }

/-! ### RoCEv2 packets -/

/-- An acknowledgement packet: opcode 0x11 of the InfiniBand Architecture Specification, syndrome as payload (log entry 58). -/
def Mod.sendAck (m : Mod) (c psn syn : Nat) : Mod := m.put (.roce c 0x11 psn [BitVec.ofNat 8 syn])

/-- PSN a is at or before PSN b. -/
def psnLe (a b : Nat) : Bool := decide ((b + 2 ^ 24 - a % 2 ^ 24) % 2 ^ 24 < 2 ^ 23)

/-- READs that wait for their turn go out as others are answered (R438). -/
def Mod.pumpReads (m : Mod) (c : Nat) : Mod :=
  let x := m.qp c
  let k := 64 - x.reads
  (x.later.take k).foldl (fun m p => m.request c p.1 p.2) (m.setQp c { x with later := x.later.drop k })

/-- An acknowledgement: on a host's queue pair of everything up to the PSN, on a spread one of the packet of that PSN (R441); it
is progress (R440). -/
def Mod.takeAck (m : Mod) (c i psn : Nat) : Mod :=
  let x := m.qp c
  let got := fun (r : SentReq) (j : Nat) => if x.rank.isSome then (r.psn + j) % 2 ^ 24 = psn else psnLe (r.psn + j) psn
  let sent := (x.sent.map fun r => { r with left := r.left.filter fun p => !got r p.1 }).filter fun r => !r.left.isEmpty
  (m.setQp c { x with sent := sent, tries := 0, rnr := 0, una := if psnLe x.una.toNat psn then BitVec.ofNat 24 (psn + 1) else x.una,
                      paths := x.paths.map fun p => if p.loc = i then { p with fails := 0 } else p }).pumpReads c

/-- What a requester does with an ACK or NAK by its syndrome: an ACK, an RNR NAK (R440), a PSN sequence error, after which a spread queue
pair resends that packet on another path (R441), any other NAK,
on which the operations complete in error. -/
def Mod.takeSyn (m : Mod) (c i psn syn : Nat) : Mod :=
  let x := m.qp c
  match syn / 32 with
  | 0 => m.takeAck c i psn
  | 1 => if 7 < x.rnr + 1 then m.qpError c else m.setQp c { x with rnr := x.rnr + 1 }
  | 3 =>
    if syn = 0x60 then
      if x.rank.isSome then m.resendSome c true fun r p => (r.psn + p.1) % 2 ^ 24 = psn
      else m.resendSome c false fun r p => psnLe psn (r.psn + p.1)
    else m.qpError c
  | _ => m

/-- PSNs ahead that follow on without a gap. -/
def absorb : Nat → BitVec 24 → List Nat → BitVec 24 × List Nat
  | 0, e, l => (e, l)
  | n + 1, e, l => if l.contains e.toNat then absorb n (e + 1) (l.filter (· ≠ e.toNat)) else (e, l)

/-- The immediates of messages whose last PSN lies before a PSN are released, in PSN order (R441). -/
def QpSt.release (x : QpSt) (e : BitVec 24) : QpSt :=
  let due := (List.range (e - x.epsn).toNat).flatMap fun k => x.early.filter fun p => p.1 = (x.epsn.toNat + k) % 2 ^ 24
  { x with epsn := e, early := x.early.filter (fun p => !due.contains p), imms := x.imms ++ due.map Prod.snd }

/-- A data packet of a peer is placed in any order and acknowledged; its message completes, with its immediate, once every lower PSN has
been placed (R441). What its message does is the row of its kind. -/
def Mod.placePsn (m : Mod) (c op : Nat) (psn : BitVec 24) (imm : BitVec 32) : Mod :=
  let x := m.qp c
  let held := fun (x : QpSt) => if op = 9 || op = 0xB then { x with early := x.early ++ [(psn.toNat, imm)] } else x
  let m := if psn = x.epsn then
      let a := absorb x.ahead.length (x.epsn + 1) x.ahead
      m.setQp c { (held x).release a.1 with ahead := a.2, gap := if a.2.isEmpty then none else some a.1.toNat }
    else if psnLe x.epsn.toNat psn.toNat && !x.ahead.contains psn.toNat then
      m.setQp c { held x with ahead := x.ahead ++ [psn.toNat], gap := some (x.gap.getD x.epsn.toNat) }
    else m
  m.sendAck c psn.toNat 0

/-- READ responses of a run of bytes, 4,096 B to a packet. -/
def Mod.readResp (m : Mod) (c psn a n : Nat) : Mod :=
  let k := Nat.max 1 (ceilDiv n 4096)
  (List.range k).foldl (fun (m : Mod) j =>
    let op := if k = 1 then 0x10 else if j = 0 then 0xD else if j + 1 = k then 0xF else 0xE
    m.put (.roce c op ((psn + j) % 2 ^ 24) (m.hbmRead (a + 4096 * j) (Nat.min 4096 (n - 4096 * j))))) m

/-- An access that R452 does not accept. -/
def Mod.denyAccess (m : Mod) (c i psn : Nat) : Mod :=
  (m.setIface i { m.iface i with hostErr := (m.iface i).hostErr + 1 }).sendAck c psn 0x62

/-- The dies whose stacks hold the bytes of a host's access run (R267); else the access hangs (log entry 105). -/
def Mod.hostRuns (m : Mod) (a n : Nat) : Bool :=
  m.dieRuns (m.dieAt (m.view a)) && m.dieRuns (m.dieAt (m.view (a + (n - 1))))

/-- A SEND in sequence (R452): it lands in the next slot of 4,096 B of the queue pair's receive ring, inside a region with HWR = 1; one that
finds no free slot is answered with RNR NAK and a timer of 640 us (R440). A queue pair made over KOP names no ring (log entry 59). -/
def Mod.hostSend (m : Mod) (c i op : Nat) (psn : BitVec 24) (body : List Byte) : Mod :=
  let x := m.qp c
  match x.ring with
  | none => m.sendAck c psn.toNat 0x2C
  | some (base, free, k) =>
    let off := if op = 1 || op = 2 then x.sBytes else 0
    let a := base + 4096 * k + off
    if free = 0 then m.sendAck c psn.toNat 0x2C
    else if 4096 < off + body.length then (m.sendAck c psn.toNat 0x61).qpError c
    else if !m.hostvis.any fun e => m.hvHolds e a body.length true then m.denyAccess c i psn.toNat
    else if !m.hostRuns a body.length then m
    else
      let m := m.hbmWrite a body
      let y := { m.qp c with epsn := psn + 1, sBytes := off + body.length }
      (m.setQp c (if op = 2 || op = 4 then { y with sBytes := 0, ring := some (base, free - 1, k + 1) } else y)).sendAck c psn.toNat 0

/-- A host's request in sequence. `len` is the length of the RETH. -/
def Mod.hostReq (m : Mod) (c i op : Nat) (psn : BitVec 24) (rkey addr len : Nat) (imm : BitVec 32) (body : List Byte) : Mod :=
  let x := m.qp c
  let next := fun (m : Mod) (k : Nat) => m.setQp c { m.qp c with epsn := psn + BitVec.ofNat 24 k }
  if op ≤ 4 then m.hostSend c i op psn body
  else if op = 0xC then
    if m.hvAccess rkey addr len false then if !m.hostRuns addr len then m else (next m (Nat.max 1 (ceilDiv len 4096))).readResp c psn.toNat addr len
    else m.denyAccess c i psn.toNat
  else if op = 6 || op = 0xA || op = 0xB then
    match (if op = 0xB ∧ len = 0 then m.bellOf c rkey else none) with
    | some r => ((next m 1).ringBell r imm).sendAck c psn.toNat 0
    | none =>
      if m.hvAccess rkey addr len true && decide (body.length ≤ len) then
        if !m.hostRuns addr body.length then m else
        let m := (next m 1).hbmWrite addr body
        (m.setQp c { m.qp c with wAddr := addr + body.length, wKey := rkey, wLeft := len - body.length }).sendAck c psn.toNat 0
      else m.denyAccess c i psn.toNat
  else if m.hvAccess x.wKey x.wAddr body.length true && decide (body.length ≤ x.wLeft) then
    if !m.hostRuns x.wAddr body.length then m else
    let m := (next m 1).hbmWrite x.wAddr body
    (m.setQp c { m.qp c with wAddr := x.wAddr + body.length, wLeft := x.wLeft - body.length }).sendAck c psn.toNat 0
  else m.denyAccess c i psn.toNat

/-- The opcodes of R438, as the InfiniBand Architecture Specification numbers them (log entry 58); SEND only from hosts. -/
def roceOp (host : Bool) (op : Nat) : Bool := (host && [0, 1, 2, 4].contains op) || decide (6 ≤ op ∧ op ≤ 0x11)

/-- A packet beyond the limits of R438: a message of more than 2^31 B in its RETH, more payload than the path MTU. -/
def rocePast (op len : Nat) (body : List Byte) : Bool :=
  decide (4096 < body.length) || ([6, 0xA, 0xB, 0xC].contains op && decide (2 ^ 31 < len))

/-- A packet for a context in use. -/
def Mod.rocePacket (m : Mod) (c i op : Nat) (psn : BitVec 24) (rkey addr len : Nat) (imm : BitVec 32) (syn : Nat)
    (body : List Byte) : Mod :=
  let x := m.qp c
  if op = 0x11 then m.takeSyn c i psn.toNat syn
  else if 0xD ≤ op then m.takeAck c i psn.toNat
  else if x.rank.isSome then (if op = 0xC then m.denyAccess c i psn.toNat else m.placePsn c op psn imm)
  else if psn = x.epsn then m.hostReq c i op psn rkey addr len imm body
  else if psnLe x.epsn.toNat psn.toNat then m.sendAck c x.epsn.toNat 0x60
  else if op = 0xC then
    (if m.hvAccess rkey addr len false then if !m.hostRuns addr len then m else m.readResp c psn.toNat addr len else m.denyAccess c i psn.toNat)
  else m.sendAck c psn.toNat 0

/-- R438 to R441, R444, R452: a RoCEv2 packet arrives on an interface for a queue pair number, which is a context's number.
`ce`: it is marked CE, and no CNP has been sent for 50 us on its path (log entry 60). A CNP is a row of its own. -/
def execRocePacketReceive (i : Fin 32) (qpn : BitVec 24) (op : BitVec 8) (pkey : BitVec 16) (psn : BitVec 24) (ce : Bool)
    (rkey : BitVec 32) (addr : BitVec 64) (len imm : BitVec 32) (syn : BitVec 8) (body : List Byte) (s : State) :
    Host.Outcome State Fault Refusal :=
  lift (fun m =>
    let c := qpn.toNat
    let x := m.qp c
    if !m.pow.collier || !(m.iface i.val).up then m
    else if x.run == .free then { m with eth := { m.eth with qpDrop := m.eth.qpDrop + 1 } }
    else
      let m := if ce then m.put (.roce c 0x81 0 []) else m
      if x.run == .error || op = 0x81 then m
      else if !roceOp x.rank.isNone op.toNat || pkey ≠ 0xFFFF || rocePast op.toNat len.toNat body then (m.sendAck c psn.toNat 0x61).qpError c
      else m.rocePacket c i.val op.toNat psn rkey.toNat addr.toNat len.toNat imm syn.toNat body) s

/-- R440, R441: the ACK timer of a context expires, on a path of a spread queue pair. -/
def execAckTimeout (c path : BitVec 16) (s : State) : Host.Outcome State Fault Refusal :=
  lift (fun m =>
    let c := c.toNat
    let x := m.qp c
    if x.run != .ready || x.sent.isEmpty then m
    else match (if x.rank.isSome then x.paths[path.toNat]? else none) with
      | some p =>
        if 3 ≤ p.fails + 1 then m.dropPaths c fun q => q.loc = p.loc && q.rem = p.rem
        else (m.setQp c { x with paths := setAt x.paths path.toNat { p with fails := p.fails + 1 } }).resendSome c false
          fun _ q => q.2.1 = p.loc && q.2.2 = p.rem
      | none =>
        if x.rank.isSome && !x.paths.isEmpty then m
        else if 7 < x.tries + 1 then m.qpError c
        else (m.setQp c { x with tries := x.tries + 1 }).resend c) s

/-- R440: the timer of an RNR NAK expires and the operations go out again. -/
def execRnrRetry (c : BitVec 16) (s : State) : Host.Outcome State Fault Refusal :=
  lift (fun m =>
    let x := m.qp c.toNat
    if x.run == .ready && x.rnr ≠ 0 then m.resend c.toNat else m) s

/-- R441: a PSN has been missing for 16 us: it is requested by NAK. -/
def execPsnGapTimeout (c : BitVec 16) (s : State) : Host.Outcome State Fault Refusal :=
  lift (fun m =>
    let x := m.qp c.toNat
    match x.gap with
    | some g => if x.run == .ready then m.sendAck c.toNat g 0x60 else m
    | none => m) s

/-- R444: a CNP halves the rate of a path, down to 1 Gb/s; `due`: no cut in the last 50 us (log entry 60). -/
def execCnpReceive (c path : BitVec 16) (due : Bool) (s : State) : Host.Outcome State Fault Refusal :=
  lift (fun m =>
    let x := m.qp c.toNat
    match x.paths[path.toNat]? with
    | some p =>
      if due then m.setQp c.toNat { x with paths := setAt x.paths path.toNat { p with rate := Nat.max 1000 (p.rate / 2) } } else m
    | none => m) s

/-- R444: 55 us without a CNP: the rate rises by 10 Gb/s up to the interface's. -/
def execRateIncrease (c path : BitVec 16) (s : State) : Host.Outcome State Fault Refusal :=
  lift (fun m =>
    let x := m.qp c.toNat
    match x.paths[path.toNat]? with
    | some p => m.setQp c.toNat { x with paths := setAt x.paths path.toNat { p with rate := Nat.min (m.ifRate p.loc) (p.rate + 10000) } }
    | none => m) s

/-! ### Priority flow control (R445) -/

/-- What a pause has held on a port's priority leaves, in order (R445). -/
def Mod.unpause (m : Mod) (p prio : Nat) : Mod :=
  let of := fun (k : Pkt) => k.iface / 4 = p && k.prio = prio
  { m with eth := { m.eth with link := m.eth.link ++ m.eth.held.filter of, held := m.eth.held.filter fun k => !of k } }

/-- R445: a PFC frame pauses or resumes a priority; of a priority not enabled it is ignored and counted. -/
def execPfcReceive (p : Fin 8) (prio : Fin 8) (pause : Bool) (s : State) : Host.Outcome State Fault Refusal :=
  lift (fun m =>
    let x := m.port p.val
    if !m.pow.collier || x.run != .up then m
    else if !x.pfc.getLsbD prio.val then m.setPort p.val { x with ignored := x.ignored + 1 }
    else
      let rest := x.paused.filter (· ≠ prio.val)
      let m := m.setPort p.val { x with paused := if pause then rest ++ [prio.val] else rest }
      if pause then m else m.unpause p.val prio.val) s

/-- R445: a priority's share of the receive buffer is 75 % full (`high`), or has fallen to 50 %. -/
def execPfcThreshold (p : Fin 8) (prio : Fin 8) (high : Bool) (s : State) : Host.Outcome State Fault Refusal :=
  lift (fun m =>
    let x := m.port p.val
    if x.run != .up || !x.pfc.getLsbD prio.val || x.xoff.contains prio.val = high then m
    else
      let rest := x.xoff.filter (· ≠ prio.val)
      (m.setPort p.val { x with xoff := if high then rest ++ [prio.val] else rest }).put (.pfc p.val prio.val high)) s

/-! ### Writes of port objects (R436, R446)

A write of an object answers a status of R484, KOP_OK or KOP_PENDING, or a refusal that leaves the module as it was. -/

/-- What a write of one object gives. -/
structure WOut where
  status : Nat
  m      : Mod

/-- PORT_EN. -/
def Mod.writePortEn (m : Mod) (p v : Nat) : WOut :=
  let x := m.port p
  if v = 0 then
    if x.run == .shutting || x.run == .down then { status := 0, m := m.setPort p { x with en := false, pend := false } }
    else { status := 0, m := (m.setPort p { x with en := false, pend := false, run := .shutting }).portIfsDown p }
  else if x.run == .shutting || x.testing then { status := 1, m := m.setPort p { x with pend := true } }
  else { status := 0, m := m.setPort p { x with en := true, run := if x.run == .down then .starting else x.run } }

/-- A change that takes a port's interfaces down and brings them up again. -/
def Mod.bouncePort (m : Mod) (p : Nat) (x : PortSt) : Mod :=
  let m := m.portIfsDown p
  m.setPort p { x with run := if x.run == .up then .starting else x.run }

/-- PORT_LAYOUT. -/
def Mod.writeLayout (m : Mod) (p v : Nat) : WOut :=
  if 2 < v then { status := 0x16, m := m }
  else if m.pow.state = .running then { status := 0xE01, m := m }
  else { status := 0, m := m.bouncePort p { m.port p with layout := v } }

/-- LANE_MODE. -/
def Mod.writeLaneMode (m : Mod) (p v : Nat) : WOut :=
  if 1 < v then { status := 0x16, m := m }
  else if m.pow.state = .running then { status := 0xE01, m := m }
  else { status := 0, m := m.bouncePort p { m.port p with c2m := v = 1 } }

/-- VLAN_ID of an interface; the interface goes down and comes up again. -/
def Mod.writeVlan (m : Mod) (i v : Nat) : WOut :=
  if 4094 < v then { status := 0x16, m := m }
  else if m.pow.state = .running then { status := 0xE01, m := m }
  else
    let m := m.linkDown i
    { status := 0, m := m.setIface i { m.iface i with vlan := v } }

/-- R436: a port's shut-down completes; a pending enable takes effect. -/
def execPortDownDone (p : Fin 8) (s : State) : Host.Outcome State Fault Refusal :=
  lift (fun m =>
    let x := m.port p.val
    if x.run != .shutting then m
    else if x.pend then m.setPort p.val { x with en := true, pend := false, run := .starting }
    else m.setPort p.val { x with run := .down }) s

end Sys2Proof.Machine
end

