-- ==== Sys2Proof/Machine/Dma.lean ====
section
/-! DEFINITION. The DMA engine (R454 to R464): rings, descriptors and their checks, the funnel and plane modes, queue destinations, pacing, enabling; host queue pairs and rings over KOP (R448, R449, R455). -/

namespace Sys2Proof.Machine

def Mod.chanD (m : Mod) (c : Nat) : ChanSt := tGet {} m.dma.chans c
def Mod.setChanD (m : Mod) (c : Nat) (x : ChanSt) : Mod := { m with dma := { m.dma with chans := tSet {} m.dma.chans c x } }

/-! ### Descriptors (R456, R457) -/

def dOwn (d : Nat) : Bool := bitAt d 0
def dBarrier (d : Nat) : Bool := bitAt d 1
def dNotify (d : Nat) : Bool := bitAt d 2
def dSkind (d : Nat) : Nat := slice d 5 4
def dDkind (d : Nat) : Nat := slice d 7 6
def dMode (d : Nat) : Nat := slice d 11 8
def dParam (d : Nat) : Nat := slice d 15 12
def dElem (d : Nat) : Nat := slice d 18 16
def dSeal (d : Nat) : Nat := slice d 20 19
def dLen (d : Nat) : Nat := slice d 63 32
def dSaddr (d : Nat) : Nat := slice d 127 64
def dDaddr (d : Nat) : Nat := slice d 191 128
def dSkey (d : Nat) : Nat := slice d 223 192
def dDkey (d : Nat) : Nat := slice d 255 224
def dSctx (d : Nat) : Nat := slice d 271 256
def dDctx (d : Nat) : Nat := slice d 287 272
def dStride (d : Nat) : Nat := slice d 327 288

/-- Element and plane bytes of SPLIT and MERGE (R461). -/
def splitWP (param : Nat) : Nat × Nat :=
  match param with
  | 0 => (4, 2)
  | 1 => (4, 1)
  | 2 => (2, 1)
  | 3 => (8, 4)
  | 4 => (8, 2)
  | _ => (8, 1)

/-- The number of planes or ways and the bytes of one piece of an element: 1 plane for the other modes. -/
def dWays (d : Nat) : Nat × Nat :=
  match dMode d with
  | 1 => ((splitWP (dParam d)).1 / (splitWP (dParam d)).2, (splitWP (dParam d)).2)
  | 2 => ((splitWP (dParam d)).1 / (splitWP (dParam d)).2, (splitWP (dParam d)).2)
  | 3 => (dParam d + 1, 2 ^ dElem d)
  | 4 => (dParam d + 1, 2 ^ dElem d)
  | _ => (1, 1)

/-- Bytes written for n source bytes (R461). -/
def dOut (d n : Nat) : Nat :=
  match dMode d with
  | 5 => n / 32 * 24
  | 6 => n / 24 * 32
  | 7 => n / 2
  | 8 => n * 2
  | _ => n

/-- The unit of LEN (R461). -/
def dUnit (d : Nat) : Nat :=
  match dMode d with
  | 5 => 32
  | 6 => 24
  | 7 => 32
  | 8 => 16
  | _ => (dWays d).1 * (dWays d).2

/-- Source runs and destination runs, in plane order: address and length. -/
def dSrc (d : Nat) : List (Nat × Nat) :=
  let w := (dWays d).1
  if dMode d = 2 ∨ dMode d = 3 then (List.range w).map fun k => (dSaddr d + k * dStride d, dLen d / w) else [(dSaddr d, dLen d)]

def dDst (d : Nat) : List (Nat × Nat) :=
  let w := (dWays d).1
  if dMode d = 1 ∨ dMode d = 4 then (List.range w).map fun k => (dDaddr d + k * dStride d, dLen d / w)
  else [(dDaddr d, dOut d (dLen d))]

/-- SEAL that a ring does not allow (R456): only a collier ring seals, toward remote, or opens, from remote, and in COPY mode (R461). -/
def dSealBad (collier : Bool) (d : Nat) : Bool :=
  match dSeal d with
  | 0 => false
  | 1 => !collier || dDkind d ≠ 2 || dMode d ≠ 0
  | 2 => !collier || dSkind d ≠ 2 || dMode d ≠ 0
  | _ => true

/-- A descriptor that breaks R456 or R461: reserved bits or encodings, LEN, PARAM, ELEM, SEAL, STRIDE. -/
def dBad (collier : Bool) (d : Nat) : Bool :=
  let p := dMode d
  slice d 3 3 ≠ 0 || slice d 31 21 ≠ 0 || slice d 383 328 ≠ 0 || slice d 399 392 ≠ 0 || slice d 447 432 ≠ 0 ||
    dSkind d = 3 || dElem d = 7 || dSealBad collier d || dLen d = 0 || decide (2 ^ 31 < dLen d) || decide (8 < p) ||
    (if p = 1 ∨ p = 2 then decide (5 < dParam d) else if p = 3 ∨ p = 4 then dParam d = 0 else dParam d ≠ 0) ||
    (p ≠ 3 && p ≠ 4 && dElem d ≠ 0) || (p ≠ 0 && dDkind d = 3) || dLen d % dUnit d ≠ 0 ||
    (decide (1 ≤ p ∧ p ≤ 4) && decide (dStride d < dLen d / (dWays d).1))

/-- A run in HBM that a host ring may read or write (R457): within one region entry; a SHAPE_IN region also accepts writes. -/
def Mod.dmaHbm (m : Mod) (r : Nat × Nat) (write : Bool) : Bool :=
  m.hostvis.any fun e => m.hvHolds e r.1 r.2 write ||
    (write && slice e 3 0 = 1 && slice (nth 0 m.hbmmap (slice e 19 4)) 11 4 = 0xB &&
      decide ((m.hvRegion e).1 ≤ r.1 ∧ r.1 + r.2 ≤ (m.hvRegion e).1 + (m.hvRegion e).2))

/-- The input queue of a queue destination, when it is a queue target of a placed core (R451, R457). -/
def Mod.dmaQueue (m : Mod) (d : Nat) : Option Nat :=
  let a := dDaddr d
  let h := slice a 12 0
  let k := slice a 19 13
  let q := slice a 21 20
  if m.hostvis.any (fun e => slice e 3 0 = 2 && slice e 16 4 = h && slice e 23 17 = k && slice e 25 24 = q) &&
      (m.ctl (cid h k)).placed && slice a 63 29 = 0 then some (qid (cid h k) q)
  else none

/-- Hearth and byte address of a run in a hearth store (R457). -/
def hsRun (r : Nat × Nat) : Nat × Nat := (slice r.1 29 17, slice r.1 16 0)

/-- A run in a declared region of a hearth store; upper address bits are zero. -/
def Mod.dmaHs (m : Mod) (r : Nat × Nat) : Bool :=
  slice r.1 63 30 = 0 && (m.hearth (hsRun r).1).inRegion (hsRun r).2 r.2

/-- A run in HBM that a collier ring may reach (R457): outside the reserved areas, and not across a region's bound. -/
def Mod.dmaFree (m : Mod) (r : Nat × Nat) : Bool :=
  decide (r.1 + r.2 ≤ 768000000000) && !overlap r.1 r.2 383000000000 1000000000 && !overlap r.1 r.2 767000000000 1000000000 &&
    m.hbmmap.all fun e => slice e 3 0 ≠ 1 || !overlap r.1 r.2 (slice e 55 16) (slice e 103 64) ||
      decide (slice e 55 16 ≤ r.1 ∧ r.1 + r.2 ≤ slice e 55 16 + slice e 103 64)

/-- What the checks of R457 and R458 find for a ring: 0, or a completion code. Only the host-visible regions send or take bytes unsealed
(R450). -/
def Mod.dmaCheck (m : Mod) (g : RingSt) (d : Nat) : Nat :=
  let seen := fun (r : Nat × Nat) (write : Bool) => m.dmaHbm r write
  let free := fun (r : Nat × Nat) (write : Bool) =>
    m.dmaFree r && (dSeal d ≠ 0 || (if write then dSkind d else dDkind d) ≠ 2 || seen r write)
  let src := match dSkind d with
    | 0 => (dSrc d).all fun r => if g.collier then free r false else seen r false
    | 1 => g.collier && (dDkind d ≠ 2 || dSeal d = 1) && (dSrc d).all m.dmaHs
    | _ => if g.collier then decide (dSctx d < 1024) else dSctx d = g.ctx
  let dst := match dDkind d with
    | 0 => (dDst d).all fun r => if g.collier then free r true else seen r true
    | 1 => g.collier && (dSkind d ≠ 2 || dSeal d = 2) && (dDst d).all m.dmaHs
    | 2 => if g.collier then decide (dDctx d < 1024) else dDctx d = g.ctx
    | _ => (m.dmaQueue d).isSome
  if dBad g.collier d then 1 else if !src then 2 else if !dst then 3 else 0

/-! ### Moving bytes (R460, R461) -/

/-- Pieces of `p` bytes taken from each of several runs in turn. -/
def weave : Nat → Nat → List (List Byte) → List Byte
  | 0, _, _ => []
  | n + 1, p, ls => ls.flatMap (fun l => l.take p) ++ weave n p (ls.map fun l => l.drop p)

/-- Piece k of every element of w pieces of p bytes. -/
def unweave : Nat → Nat → Nat → Nat → List Byte → List Byte
  | 0, _, _, _, _ => []
  | n + 1, k, p, w, l => (l.drop (k * p)).take p ++ unweave n k p w (l.drop (w * p))

/-- Elements of `b` bits packed contiguously, and unpacked one to a byte (R144). -/
def packBits (b : Nat) (l : List Byte) : Nat := l.foldr (fun x n => x.toNat % 2 ^ b + 2 ^ b * n) 0
def unpackBits (b : Nat) : Nat → Nat → List Byte
  | 0, _ => []
  | n + 1, x => BitVec.ofNat 8 (x % 2 ^ b) :: unpackBits b n (x / 2 ^ b)

/-- What is written, run by run, for the bytes read, `n` of which count: the source runs one after another in `b`. -/
def reshape (d n : Nat) (b : List Byte) : List (Nat × List Byte) :=
  let w := (dWays d).1
  let p := (dWays d).2
  let l := dLen d / w
  match dMode d with
  | 0 => [(dDaddr d, b.take n)]
  | 1 => (List.range w).map fun k => (dDaddr d + k * dStride d, unweave (n / (w * p)) k p w b)
  | 2 => [(dDaddr d, (weave (n / (w * p)) p ((List.range w).map fun k => (b.drop (k * l)).take l)))]
  | 3 => [(dDaddr d, (weave (n / (w * p)) p ((List.range w).map fun k => (b.drop (k * l)).take l)))]
  | 4 => (List.range w).map fun k => (dDaddr d + k * dStride d, unweave (n / (w * p)) k p w b)
  | 5 => [(dDaddr d, leBytes (n / 32 * 24) (packBits 6 (b.take n)))]
  | 6 => [(dDaddr d, unpackBits 6 (n / 24 * 32) (leNat (b.take n)))]
  | 7 => [(dDaddr d, leBytes (n / 2) (packBits 4 (b.take n)))]
  | _ => [(dDaddr d, unpackBits 4 (2 * n) (leNat (b.take n)))]

/-- Bytes written to the destination, in HBM or a hearth store byte by byte (R460), or by RDMA, sealed where the descriptor asks (R456). -/
def Mod.dmaWrite (m : Mod) (d : Nat) (w : Nat × List Byte) : Mod :=
  match dDkind d with
  | 1 => m.hsPut (hsRun (w.1, 0)).1 (hsRun (w.1, 0)).2 w.2
  | 2 =>
    if dSeal d = 1 then m.request (dDctx d) (psnsOf (w.2.length + 32)) (.seal (dDctx d) (dDkey d) w.1 w.2)
    else m.rdmaOut (dDctx d) (dDkey d) w.1 w.2
  | _ => m.hbmWrite w.1 w.2

/-- The bytes of a source in HBM or a hearth store, or those that the remote side has returned. -/
def Mod.dmaRead (m : Mod) (d : Nat) (remote : List Byte) : List Byte :=
  match dSkind d with
  | 2 => remote
  | 1 => (dSrc d).flatMap fun r => m.hsGet (hsRun r).1 (hsRun r).2 r.2
  | _ => (dSrc d).flatMap fun r => m.hbmRead r.1 r.2

/-- The READs of a remote source (R456, R459). -/
def Mod.dmaAsk (m : Mod) (d : Nat) : Mod :=
  if dSkind d = 2 then (dSrc d).foldl (fun (m : Mod) r => m.rdmaIn (dSctx d) (dSkey d) r.1 r.2) m else m

/-- Source bytes that lie before the first burst with an uncorrectable error, in whole 4 KiB units; none: no such burst. -/
def Mod.dmaBad (m : Mod) (d : Nat) : Option Nat :=
  if dSkind d ≠ 0 then none
  else
    let at' := (dSrc d).flatMap fun r => (List.range ((r.1 + r.2 + 63) / 64 - r.1 / 64)).map fun i => (r.1 / 64 + i, r)
    (at'.find? fun p => m.hbm.bad.contains (m.view (64 * p.1) / 64)).map fun p => (64 * p.1 - p.2.1) / 4096 * 4096

/-- The tokens of a queue destination: 64 B each, the last of whole words with EOT as asked. -/
def dmaTokens (d : Nat) (gen : BitVec 2) (b : List Byte) : List Token :=
  let n := ceilDiv b.length 64
  (List.range n).map fun i =>
    let p := (b.drop (64 * i)).take 64
    { tag := BitVec.ofNat 6 (slice (dDaddr d) 27 22), gen := gen, eot := i + 1 = n && bitAt (dDaddr d) 28,
      words := bytesWords (ceilDiv p.length 4) p }

/-- Tokens go to a queue by its gateway as its credits allow: how many have gone. -/
def dmaSend (prod q : Nat) : List Token → Nat → Mod → Nat × Mod
  | [], k, m => (k, m)
  | t :: rest, k, m =>
    let x := m.inq q
    if x.credit = 0 then (k, m) else dmaSend prod q rest (k + 1) (m.injectTok prod q t)

/-! ### Starting and completing (R454, R458, R459) -/

/-- HBM address of descriptor n of a ring, and the descriptor. -/
def descAddr (x : RingSt) (n : Nat) : Nat := x.base + 64 * (n % Nat.max 1 x.ents)
def Mod.descAt (m : Mod) (x : RingSt) (n : Nat) : Nat := leNat (m.hbmRead (descAddr x n) 64)

/-- Descriptors of a ring that have moved their bytes and wait for their write-back (R458, R459). -/
def ChanSt.due (x : ChanSt) (r : Nat) : List DmaAck := x.acks.filter fun a => a.ring = r && !a.mute

/-- The next descriptor of a ring to start: those that wait for their write-back lie between it and HEAD. -/
def Mod.nextDesc (m : Mod) (c r : Nat) : BitVec 32 := (m.ring r).head + BitVec.ofNat 32 ((m.chanD c).due r).length

/-- Rings of a channel that have work. -/
def Mod.ringsDue (m : Mod) (c : Nat) : List Nat :=
  (m.dma.rings.filter fun p => p.2.live && p.2.chan = c && m.nextDesc c p.1 ≠ p.2.tail).map Prod.fst

/-- The next ring in round-robin order after `r`. -/
def nextRing (l : List Nat) (r : Nat) : Option Nat :=
  match l.find? (fun k => decide (r < k)) with
  | some k => some k
  | none => l.head?

/-- The channel halts at a descriptor: its ring and n, DMA_HALT (R458). -/
def Mod.haltChan (m : Mod) (c r n : Nat) : Mod :=
  (m.setChanD c { m.chanD c with run := .halted, haltAt := (r % 256, n), cur := none, sent := 0, chk := 0 }).event 0x8602
    (c + 256 * (r % 256)) n

/-- The compute dies whose HBM or queues a descriptor touches are all `up` (R268). -/
def Mod.dmaDies (m : Mod) (up : Nat → Bool) (d : Nat) : Bool :=
  (dSkind d ≠ 0 || (dSrc d).all fun r => up (m.dieAt (m.view r.1))) && (dDkind d ≠ 0 || (dDst d).all fun r => up (m.dieAt (m.view r.1))) &&
    (dSkind d ≠ 1 || (dSrc d).all fun r => up (hDie (hsRun r).1)) && (dDkind d ≠ 1 || (dDst d).all fun r => up (hDie (hsRun r).1)) &&
    (dDkind d ≠ 3 || up (hDie (slice (dDaddr d) 12 0)))

/-- A channel's descriptor in progress, or one whose write-back waits, concerns a die (R271). -/
def Mod.dmaUnder (m : Mod) (d : Nat) : Bool :=
  let on := fun (p : Nat × Nat) => m.dieAt (m.ring p.1).base = d || !m.dmaDies (fun k => k != d) (m.descAt (m.ring p.1) p.2)
  m.dma.chans.any fun p => p.2.cur.any on || p.2.acks.any fun a => !a.mute && on (a.ring, a.n)

/-- A descriptor starts: its checks, and the READs of a remote source (R457). -/
def Mod.dmaBegin (m : Mod) (c r n : Nat) : Mod :=
  let d := m.descAt (m.ring r) n
  let k := m.dmaCheck (m.ring r) d
  (if k = 0 then m.dmaAsk d else m).setChanD c
    { m.chanD c with run := .running, rr := r, cur := some (r, n), sent := 0, chk := k, wait := false }

/-- R454, R458, R459: a channel fetches the next descriptor of its rings and starts it. One fetched with OWN = 0 halts the channel
and is not written back. One with BARRIER waits until every write of the channel has arrived. -/
def execDmaDescriptorStart (c : Fin 32) (s : State) : Host.Outcome State Fault Refusal :=
  lift (fun m =>
    let x := m.chanD c.val
    if x.run != .idle || !x.en || x.paused || !m.pow.collier then m
    else match nextRing (m.ringsDue c.val) x.rr with
      | none => m
      | some r =>
        let g := m.ring r
        let n := (m.nextDesc c.val r).toNat
        let d := m.descAt g n
        if !m.dieRuns (m.dieAt g.base) then m
        else if !dOwn d then
          if (x.due r).isEmpty then
            ((m.setRing r { g with head := g.head + 1 }).setChanD c.val { x with rr := r }).haltChan c.val r n
          else m
        else if dBarrier d && !x.acks.isEmpty then
          m.setChanD c.val { x with run := .running, rr := r, cur := some (r, n), sent := 0, chk := 0, wait := true }
        else if m.dmaCheck g d = 0 && !m.dmaDies m.dieRuns d then m
        else m.dmaBegin c.val r n) s

/-- The write-back of a descriptor (R458): STATUS and DONE, then OWN = 0, the notification, HEAD. -/
def Mod.dmaBack (m : Mod) (r n status done : Nat) : Mod :=
  let g := m.ring r
  let a := descAddr g n
  let d := m.descAt g n
  let m := m.hbmWrite (a + 48) (leBytes 1 status ++ leBytes 1 0 ++ leBytes 4 done)
  let m := m.hbmWrite a [BitVec.ofNat 8 (slice d 7 0 - slice d 0 0)]
  let m := if dNotify d then m.request g.ctx 1 (.roce g.ctx 0xB (m.qp g.ctx).psn.toNat (beBytes 4 (n % 2 ^ 32))) else m
  m.setRing r { m.ring r with head := g.head + 1 }

/-- A descriptor has moved what it moves; its write-back waits for arrival, or for those before it in its ring (R458). After a
failure nothing more starts. -/
def Mod.dmaWait (m : Mod) (c : Nat) (a : DmaAck) : Mod :=
  let x := m.chanD c
  m.setChanD c { x with run := if a.status = 0 && x.run == .running then .idle else x.run, cur := none, sent := 0, chk := 0,
                        acks := x.acks ++ [a] }

/-- A descriptor is complete (R458): written back; the channel goes on or halts. -/
def Mod.dmaDone (m : Mod) (c r n status done : Nat) : Mod :=
  if !((m.chanD c).due r).isEmpty then m.dmaWait c { ring := r, n := n, status := status, done := done }
  else
    let m := m.dmaBack r n status done
    if status = 0 then m.setChanD c { m.chanD c with run := .idle, cur := none, sent := 0, chk := 0 }
    else if status = 7 then m.setChanD c { m.chanD c with cur := none, sent := 0, chk := 0 }
    else m.haltChan c r n

/-- A descriptor with a remote destination has sent its writes, the requests of its context from the k-th on: it waits for them to be
acknowledged, also where it has failed (R459). -/
def Mod.dmaSent (m : Mod) (c r n ctx k status done : Nat) : Mod :=
  let len := fun (t : Tx) => match t with
    | .rdma _ _ _ b => b.length
    | .seal _ _ _ b => b.length
    | _ => 0
  let reqs := ((m.qp ctx).sent.drop k).map fun q => (q.psn, len q.item)
  m.dmaWait c { ring := r, n := n, status := status, done := done, ctx := ctx, reqs := reqs }

/-- The descriptor ends with a status, after the moves that `f` makes. -/
def Mod.dmaEnd (m : Mod) (c r n status done : Nat) (f : Mod → Mod) : Mod :=
  let d := m.descAt (m.ring r) n
  if dDkind d = 2 then (f m).dmaSent c r n (dDctx d) (m.qp (dDctx d)).sent.length status done
  else (f m).dmaDone c r n status done

/-- The writes that a descriptor waits for have arrived, or its queue pair has failed. -/
def Mod.dmaHere (m : Mod) (a : DmaAck) : Bool :=
  let q := m.qp a.ctx
  a.reqs.isEmpty || q.run != .ready || !q.sent.any fun r => a.reqs.any fun p => p.1 = r.psn

/-- The next write-back of a channel that is due: the first of its ring, arrived, on a die that still runs (R268). -/
def Mod.dmaNext (m : Mod) (c : Nat) : Option DmaAck :=
  let l := (m.chanD c).acks
  l.find? fun a => m.dmaHere a && (a.mute ||
    ((l.find? fun b => b.ring = a.ring && !b.mute) = some a && m.dieClocks (m.dieAt (m.ring a.ring).base)))

/-- Bytes of a request that its context has seen acknowledged. -/
def QpSt.acked (x : QpSt) (p : Nat × Nat) : Nat :=
  let k := (x.una.toNat + 2 ^ 24 - p.1) % 2 ^ 24
  if k < 2 ^ 23 then Nat.min p.2 (4096 * k) else 0

/-- DONE of a descriptor whose writes did not all arrive (R458): the source bytes that all its runs have delivered, in whole 4 KiB
units. -/
def Mod.dmaPart (m : Mod) (a : DmaAck) : Nat :=
  let d := m.descAt (m.ring a.ring) a.n
  let got := a.reqs.map fun p => dLen d * (m.qp a.ctx).acked p / Nat.max 1 (dOut d (dLen d))
  let runs := (dDst d).length
  Nat.min a.done (if runs = 1 then got.sum else runs * (got.foldl Nat.min (dLen d))) / 4096 * 4096

/-- A write-back that is due is made (R458); with status 4 where its queue pair completed in error. -/
def Mod.dmaAck (m : Mod) (c : Nat) (a : DmaAck) : Mod :=
  let bad := !a.reqs.isEmpty && (m.qp a.ctx).run != .ready
  let x := m.chanD c
  let m := m.setChanD c { x with acks := x.acks.filter (· ≠ a) }
  if a.mute then m
  else
    let m := m.dmaBack a.ring a.n (if bad && a.status = 0 then 4 else a.status) (if bad then m.dmaPart a else a.done)
    if a.status = 7 || (!bad && a.status = 0) then m else m.haltChan c a.ring a.n

/-- The first n source bytes of a descriptor take effect at their destination. -/
def Mod.dmaMove (m : Mod) (d n : Nat) (remote : List Byte) : Mod :=
  (reshape d n (m.dmaRead d remote)).foldl (fun (m : Mod) w => m.dmaWrite d w) m

/-- Source bytes that a failed remote source has brought, in whole 4 KiB units; none of a message whose envelope fails, and none where
an element wants several runs. -/
def dmaCame (d : Nat) (remote : List Byte) (fail : Nat) : Nat :=
  if fail = 2 || decide (1 < (dSrc d).length) then 0 else Nat.min remote.length (dLen d) / 4096 * 4096

/-- Tokens of the descriptor go to its queue; with the last one landed it ends with a status. -/
def Mod.dmaToQueue (m : Mod) (c r n : Nat) (ts : List Token) (status done : Nat) : Mod :=
  let x := m.chanD c
  let d := m.descAt (m.ring r) n
  match m.dmaQueue d with
  | none => m.dmaDone c r n 3 (64 * x.sent / 4096 * 4096)
  | some q =>
    let s := dmaSend (prodDma c) q (ts.drop x.sent) x.sent m
    if s.1 = ts.length && !s.2.grid.flights.any (fun f => f.tok.prod = prodDma c) then s.2.dmaDone c r n status done
    else s.2.setChanD c { x with sent := s.1 }

/-- The descriptor in progress moves its bytes and ends, or waits for what it needs. -/
def Mod.dmaRun (m : Mod) (c r n : Nat) (remote : List Byte) (fail : Nat) : Mod :=
  let x := m.chanD c
  let d := m.descAt (m.ring r) n
  let lost := (dSkind d = 2 && (fail ≠ 0 || (m.qp (dSctx d)).run != .ready)) || (dDkind d = 2 && (m.qp (dDctx d)).run != .ready)
  if !m.dieClocks (m.dieAt (m.ring r).base) then m
  else if x.chk ≠ 0 then m.dmaDone c r n x.chk 0
  else if !m.dmaDies m.dieClocks d then m
  else
    let gen := (m.hearth (slice (dDaddr d) 12 0)).gen
    if lost then
      let k := dmaCame d remote fail
      let st := if dSkind d = 2 && dSeal d = 2 && fail = 2 then 6 else 4
      if dDkind d = 2 then m.dmaDone c r n st 0
      else if dDkind d = 3 then m.dmaToQueue c r n ((dmaTokens d gen remote).take (k / 64)) st k
      else (m.dmaMove d k remote).dmaDone c r n st k
    else match m.dmaBad d with
    | some k =>
      if dDkind d = 3 then m.dmaToQueue c r n ((dmaTokens d gen (m.dmaRead d remote)).take (k / 64)) 5 k
      else m.dmaEnd c r n 5 k fun m => m.dmaMove d k remote
    | none =>
      if dDkind d = 3 then m.dmaToQueue c r n (dmaTokens d gen (m.dmaRead d remote)) 0 (dLen d)
      else m.dmaEnd c r n 0 (dLen d) fun m => m.dmaMove d (dLen d) remote

/-- R458 to R462: a write-back that is due is made, else the descriptor in progress goes on; a paused channel moves nothing. `remote`:
the bytes a remote source has returned, its runs one after another, and its failure: 0 they are all there, 1 the remote side answered
NAK after them, 2 their envelope fails to verify (log entry 63). To a queue,
tokens go as credits allow, and the descriptor ends when the last has entered the queue (R459). -/
def execDmaDescriptorComplete (c : Fin 32) (remote : RemoteIn) (s : State) : Host.Outcome State Fault Refusal :=
  lift (fun m =>
    let x := m.chanD c.val
    match m.dmaNext c.val, x.cur with
    | some a, _ => m.dmaAck c.val a
    | none, none => m
    | none, some (r, n) =>
      if x.run != .running || x.paused then m
      else if x.wait then
        if x.acks.isEmpty && !(m.dmaCheck (m.ring r) (m.descAt (m.ring r) n) = 0 && !m.dmaDies m.dieRuns (m.descAt (m.ring r) n)) then
          m.dmaBegin c.val r n
        else m
      else m.dmaRun c.val r n remote.bytes remote.fail.val) s

/-- R455: a doorbell on a ring's queue pair, a zero-length WRITE with immediate to its R_Key. -/
def execDmaDoorbell (c : BitVec 16) (rkey tail : BitVec 32) (s : State) : Host.Outcome State Fault Refusal :=
  lift (fun m => match m.bellOf c.toNat rkey.toNat with
    | some r => if (m.qp c.toNat).run == .ready then m.ringBell r tail else m
    | none => m) s

/-! ### Pacing and enabling (R462, R463) -/

/-- R462: the Hub samples the fill of a paced queue. -/
def execDmaPaceSample (c : Fin 32) (s : State) : Host.Outcome State Fault Refusal :=
  lift (fun m =>
    let x := m.chanD c.val
    let core := slice x.paceQ 19 13
    let id := cid (slice x.paceQ 12 0) core
    let q := qid id (slice x.paceQ 21 20)
    if x.high = 0 then m.setChanD c.val { x with paused := false, lost := false }
    else if !(m.ctl id).placed || decide (inQueues core ≤ slice x.paceQ 21 20) then
      let m := m.setChanD c.val { x with paused := true, lost := true }
      if x.lost then m else m.event 0x8603 c.val 0
    else
      let fill := (m.inq q).router.length + (m.inq q).spill.length
      let p := if x.high ≤ fill then true else if fill ≤ x.low then false else x.paused && !x.lost
      m.setChanD c.val { x with paused := p, lost := false }) s

/-- DMA_EN. -/
def Mod.writeDmaEn (m : Mod) (c v : Nat) : WOut :=
  let x := m.chanD c
  if 28 ≤ c then { status := 0xE05, m := m }
  else if v = 0 then
    match x.run with
    | .shutting => { status := 0, m := m.setChanD c { x with pend := false } }
    | .running => { status := 0, m := m.setChanD c { x with en := false, run := .shutting } }
    | _ => { status := 0, m := m.setChanD c { x with en := false, pend := false, run := if x.acks.isEmpty then .disabled else .shutting } }
  else
    match x.run with
    | .shutting => { status := 1, m := m.setChanD c { x with pend := true } }
    | .running => { status := 0, m := m }
    | _ => { status := 0, m := m.setChanD c { x with en := true, run := .idle } }

/-- The descriptor in progress of a disabled channel stops after k source bytes with ABORTED (R463). -/
def Mod.dmaAbort (m : Mod) (c r n k : Nat) (remote : List Byte) : Mod :=
  let x := m.chanD c
  let d := m.descAt (m.ring r) n
  let m := m.setChanD c { x with wait := false }
  if dDkind d = 3 then m.dmaDone c r n 7 (64 * x.sent / 4096 * 4096)
  else m.dmaEnd c r n 7 k fun m => m.dmaMove d k remote

/-- R463: a channel's descriptor in progress has stopped after `units` units of 4 KiB with ABORTED; once its
writes have arrived its shut-down completes, and a pending enable takes effect. A stopped die is waited for. -/
def execDmaDisableDone (c : Fin 32) (units : BitVec 20) (remote : List Byte) (s : State) : Host.Outcome State Fault Refusal :=
  lift (fun m =>
    let x := m.chanD c.val
    let fin := fun (m : Mod) =>
      let y := m.chanD c.val
      if y.acks.isEmpty then m.setChanD c.val { y with run := if x.pend then .idle else .disabled, en := x.pend, pend := false } else m
    if x.run != .shutting then m
    else match x.cur with
      | none => fin m
      | some (r, n) =>
        let d := m.descAt (m.ring r) n
        if !m.dieClocks (m.dieAt (m.ring r).base) || (x.chk = 0 && !m.dmaDies m.dieClocks d) then m
        else
          let k := if x.wait || x.chk ≠ 0 then 0 else Nat.min (4096 * units.toNat) (dLen d)
          fin (m.dmaAbort c.val r n k remote)) s

/-! ### Host queue pairs and rings (R448, R449, R455) -/

/-- 0x140B: HOST_QP_CREATE. The queue pair number returned is the context's number; the starting PSN is a draw. -/
def execHostQpCreate (ses seq : BitVec 32) (s : State) : Host.Outcome State Fault Refusal :=
  lift (fun m => m.invoke ses.toNat seq.toNat 0x140B [1] false (fun a => a.length = 24) fun m a =>
    let gid := BitVec.ofNat 128 (beNat (a.take 16))
    if !m.sec.hosts.contains gid then .no m 0xE04 0
    else match m.freeCtx 1024 2048 with
      | none => .no m 0xE03 0
      | some c =>
        let d := m.draw 24
        let loc := ((d.2.eth.ifs.filter fun p => d.2.reaches p.1 gid).head?).map fun p =>
          { loc := p.1, rate := d.2.ifRate p.1 : PathSt }
        let x : QpSt := { run := .ready, gid := gid, qpn := byteN a 16 4, epsn := BitVec.ofNat 24 (byteN a 20 4),
                          psn := BitVec.ofNat 24 d.1, una := BitVec.ofNat 24 d.1, paths := loc.toList }
        { status := 0, result := beBytes 2 c ++ beBytes 4 c ++ beBytes 4 d.1, m := d.2.setQp c x }) s

/-- A host context: of a host queue pair, not of a ring. -/
def Mod.hostQp (m : Mod) (c : Nat) : Bool :=
  decide (1024 ≤ c ∧ c < 2048) && (m.qp c).run != .free && !(m.dma.rings.any fun p => p.2.live && p.2.own = c)

/-- A ring ends: its context is free again. A descriptor of it in progress is given up; remote writes of the others are still waited for
by a BARRIER (R459). -/
def Mod.endRing (m : Mod) (r : Nat) : Mod :=
  let x := m.ring r
  let y := m.chanD x.chan
  let acks := y.acks.filterMap fun a =>
    if a.ring ≠ r || a.mute then some a else if a.reqs.isEmpty then none else some { a with mute := true }
  let m := if (y.cur.map Prod.fst) = some r then
      m.setChanD x.chan { y with cur := none, sent := 0, chk := 0, wait := false, acks := acks,
                                 run := if y.run == .running then .idle else y.run }
    else m.setChanD x.chan { y with acks := acks }
  (m.setRing r {}).setQp x.own {}

/-- A host queue pair is freed, and the rings on it with it. -/
def Mod.endHostQp (m : Mod) (c : Nat) : Mod :=
  ((m.dma.rings.filter fun p => p.2.live && p.2.ctx = c).map Prod.fst).foldl Mod.endRing (m.setQp c {})

/-- 0x140C: HOST_QP_DESTROY. -/
def execHostQpDestroy (ses seq : BitVec 32) (s : State) : Host.Outcome State Fault Refusal :=
  lift (fun m => m.invoke ses.toNat seq.toNat 0x140C [1] false (fun a => a.length = 2) fun m a =>
    if m.hostQp (beNat a) then .ok (m.endHostQp (beNat a)) else .no m 0xF05 0) s

/-- A power of two from 16 to 65,536. -/
def ringEnts (n : Nat) : Bool := (List.range 13).any fun k => n = 2 ^ (k + 4)

/-- The lowest free ring of a channel, numbered channel * 256 + index (log entry 64). -/
def Mod.freeRing (m : Mod) (ch : Nat) : Option Nat :=
  ((List.range 256).map (256 * ch + ·)).find? fun r => !(m.ring r).live

/-- 0x140D: RING_CREATE. The ring's bytes lie in one region entry with RING = 1. It takes a context of its own (R448). -/
def execRingCreate (ses seq : BitVec 32) (s : State) : Host.Outcome State Fault Refusal :=
  lift (fun m => m.invoke ses.toNat seq.toNat 0x140D [1] false (fun a => a.length = 15) fun m a =>
    let base := byteN a 0 8
    let n := byteN a 8 4
    let ch := byteN a 12 1
    let c := byteN a 13 2
    let lies := m.hostvis.any fun e =>
      slice e 3 0 = 1 && bitAt e 22 && decide ((m.hvRegion e).1 ≤ base ∧ base + 64 * n ≤ (m.hvRegion e).1 + (m.hvRegion e).2)
    if 32 ≤ ch then .no m 0xF05 0
    else if 28 ≤ ch then .no m 0xE05 0
    else if !m.hostQp c then .no m 0xF05 0
    else if !ringEnts n || base % 64 ≠ 0 || !lies then .no m 0x16 0
    else match m.freeCtx 1024 2048, m.freeRing ch with
      | some k, some r =>
        let d := m.draw 32
        let m := d.2.setQp k { run := .ready, gid := (d.2.qp c).gid }
        let x : RingSt := { live := true, base := base, ents := n, chan := ch, ctx := c, rkey := BitVec.ofNat 32 d.1, own := k }
        { status := 0, result := beBytes 2 r ++ beBytes 4 d.1, m := m.setRing r x }
      | none, _ => .no m 0xE03 0
      | _, none => .no m 0xF05 0) s

/-- 0x140E: RING_DESTROY. -/
def execRingDestroy (ses seq : BitVec 32) (s : State) : Host.Outcome State Fault Refusal :=
  lift (fun m => m.invoke ses.toNat seq.toNat 0x140E [1] false (fun a => a.length = 2) fun m a =>
    if (m.ring (beNat a)).live then .ok (m.endRing (beNat a)) else .no m 0xF05 0) s

end Sys2Proof.Machine
end

