-- ==== Sys2Proof/Machine/Remote.lean ====
section
/-! DEFINITION. Remote windows between modules (R390 to R393, R404): token batches out and in, credits; parameter gathers as they complete (R387). -/

namespace Sys2Proof.Machine

/-- The window entry of a number and direction (R390). -/
def Mod.win? (m : Mod) (w : Nat) (inbound : Bool) : Option Nat := (m.remWins inbound).find? fun e => slice e 20 5 = w
def winPeer (e : Nat) : Nat := slice e 32 21
def winSlots (e : Nat) : Nat := slice e 76 64
def winQueue (e : Nat) : Nat := qid (cid (slice e 45 33) (slice e 52 46)) (slice e 54 53)
def winRing (e : Nat) : Nat := slice e 119 80

def Mod.remOut (m : Mod) (w : Nat) : RemOut := tGet {} m.rem.out w
def Mod.setRemOut (m : Mod) (w : Nat) (x : RemOut) : Mod := { m with rem := { m.rem with out := tSet {} m.rem.out w x } }
def Mod.remIn (m : Mod) (w : Nat) : RemIn := tGet {} m.rem.inb w
def Mod.setRemIn (m : Mod) (w : Nat) (x : RemIn) : Mod := { m with rem := { m.rem with inb := tSet {} m.rem.inb w x } }

/-- A batch sealed and sent on its window's queue pair (R391, R512). -/
def Mod.sendBatch (m : Mod) (e : Nat) (credit : Nat) (toks : List Token) : Mod :=
  m.sendTo (winPeer e) (1 + slice e 20 5)
    (batchHdr (slice e 20 5) m.self m.train.attempt m.train.step m.tick.k toks.length credit ++
      toks.flatMap fun t => tokRec t.hdr t.words)

/-- R391: a batch of a window is sent: 56 tokens wait, or 2 us have passed since the oldest began to wait. -/
def execBatchSend (w : BitVec 16) (s : State) : Host.Outcome State Fault Refusal :=
  lift (fun m =>
    match m.win? w.toNat false with
    | none => m
    | some e =>
      let x := m.remOut w.toNat
      if x.waiting.isEmpty || !m.coresRun then m
      else (m.setRemOut w.toNat { x with waiting := x.waiting.drop 56 }).sendBatch e 0 (x.waiting.take 56)) s

/-- Credits of discarded tokens go back (R393). -/
def Mod.freeCredits (m : Mod) (w n : Nat) : Mod :=
  if (m.win? w true).isSome then m.setRemIn w { m.remIn w with freed := (m.remIn w).freed + n } else m

/-- REMOTE_MISMATCH: the step is abandoned (R370, R393). -/
def Mod.remMismatch (m : Mod) (w r : Nat) : Mod := (m.event 0x8405 w r).abandon 0x8405

/-- Tokens that wait are injected in order while their queue has a credit, open to their generation, and the gateways of its die admit
traffic (R175, R236, R271, R392). -/
def injectAux (w q : Nat) : Nat → Mod → Mod
  | 0, m => m
  | n + 1, m =>
    let x := m.remIn w
    match x.inj with
    | [] => m
    | t :: rest =>
      if (m.inq q).credit = 0 || !m.opens q t.gen || !m.dieRuns (hDie (qHearth q)) then m
      else injectAux w q n ((m.setRemIn w { x with inj := rest, freed := x.freed + 1 }).injectTok (prodRem w) q t)

def Mod.inject (m : Mod) (w : Nat) : Mod :=
  match m.win? w true with
  | none => m
  | some e => injectAux w (winQueue e) (m.remIn w).inj.length m

/-- The sequence of a batch's tokens follows the window's (R393). -/
def seqOk : Option (BitVec 20) → List Token → Bool
  | _, [] => true
  | none, t :: l => seqOk (some (t.seq + 1)) l
  | some n, t :: l => t.seq == n && seqOk (some (n + 1)) l

/-- A batch's tokens lie in the window's ring (R390, R393). -/
def Mod.ringBatch (m : Mod) (e : Nat) (b : Batch) : Mod :=
  b.toks.foldl (fun (m : Mod) t =>
    m.hbmPut (winRing e + 72 * (t.seq.toNat % Nat.max 1 (winSlots e))) (tokRec t.hdr t.words)) m

/-- SEQ that follows a batch's last token. -/
def seqNext (n : Option (BitVec 20)) (l : List Token) : Option (BitVec 20) :=
  match l.getLast? with
  | some t => some (t.seq + 1)
  | none => n

/-- The window of a batch exists and both its ends name the ranks that the batch names (R393). -/
def Mod.endsOk (m : Mod) (b : Batch) (inbound : Bool) : Bool :=
  match m.win? b.window inbound with
  | none => false
  | some e => winPeer e = b.rank && b.sender = b.rank && b.qp = 1 + b.window

/-- A batch of the current step and attempt stays in the window's ring until the own schedule tick has reached its TICK; then
its SEQ is checked, from the attempt's first token on, and its tokens wait for their queue. -/
def Mod.takeBatch (m : Mod) (b : Batch) : Mod :=
  let w := b.window
  let x := m.remIn w
  if !m.endsOk b true then m.remMismatch w b.rank
  else if m.tick.k < b.tick then m.setRemIn w { x with held := x.held ++ [b] }
  else if !seqOk x.next b.toks then m.remMismatch w b.rank
  else (m.setRemIn w { x with next := seqNext x.next b.toks, inj := x.inj ++ b.toks }).inject w

/-- A batch judged by STEP and ATTEMPT as R368 judges exchange messages, and then by its window (R393). -/
def Mod.judgeBatch (m : Mod) (b : Batch) : Mod :=
  let hold := fun (m : Mod) => m.setRemIn b.window { m.remIn b.window with held := (m.remIn b.window).held ++ [b] }
  match m.age b.step b.attempt with
  | .old => ({ m with rem := { m.rem with stale := m.rem.stale + 1 } }).freeCredits b.window b.toks.length
  | .newStep => hold m
  | .newAttempt => hold m.voidByPeer
  | .now => if m.train.running then m.takeBatch b else hold m

/-- Credits of the current step and attempt join those of their outbound window. -/
def Mod.takeCredit (m : Mod) (b : Batch) : Mod :=
  let x := m.remOut b.window
  if m.endsOk b false then m.setRemOut b.window { x with credit := x.credit + b.credit } else m.remMismatch b.window b.rank

/-- The credits of a batch, judged alike: those of an older attempt lapse with it, those of a later one are held. -/
def Mod.judgeCredit (m : Mod) (b : Batch) : Mod :=
  let hold := fun (m : Mod) => m.setRemOut b.window { m.remOut b.window with held := (m.remOut b.window).held ++ [b] }
  match m.age b.step b.attempt with
  | .old => { m with rem := { m.rem with stale := m.rem.stale + 1 } }
  | .newStep => hold m
  | .newAttempt => hold m.voidByPeer
  | .now => if m.train.running then m.takeCredit b else hold m

/-- Credits held for an outbound window are judged again. -/
def Mod.rejudgeOut (m : Mod) (w : Nat) : Mod :=
  let x := m.remOut w
  x.held.foldl (fun (m : Mod) b => m.judgeCredit b) (m.setRemOut w { x with held := [] })

/-- Batches held for a later step or attempt are judged again. -/
def Mod.rejudgeWin (m : Mod) (w : Nat) : Mod :=
  let x := m.remIn w
  x.held.foldl (fun (m : Mod) b => m.judgeBatch b) (m.setRemIn w { x with held := [] })

/-- Every window: held batches and credits are judged again, waiting tokens injected. -/
def Mod.pumpWins (m : Mod) : Mod :=
  let m := (m.rem.out.map Prod.fst).foldl Mod.rejudgeOut m
  (m.rem.inb.map Prod.fst).foldl (fun (m : Mod) w => (m.rejudgeWin w).inject w) m

/-- The batch that bytes hold. -/
def Batch.ofBytes (l : List Byte) : Batch :=
  { window := netGet l 15 0, sender := netGet l 27 16, attempt := netGet l 31 28, step := netGet l 95 32, tick := netGet l 111 96,
    credit := netGet l 143 128, toks := (tokRecs (netGet l 117 112) (l.drop 32)).map fun p => Token.ofHdr p.1 p.2 }

/-- The first field outside its range (R404): NTOK, CREDIT. -/
def batchBad (l : List Byte) : Option Nat :=
  if 56 < netGet l 117 112 then some 112 else if 4096 < netGet l 143 128 then some 128 else none

/-- Exchange slots returned by a receiver (R361): queue pair 0. -/
def Mod.takeSlots (m : Mod) (r : Nat) (b : Batch) : Mod :=
  { m with exch := { m.exch with used := tSet 0 m.exch.used r (tGet 0 m.exch.used r - b.credit) } }

/-- What an unsealed batch does: a batch of a lost rank is discarded (R397); it is judged by STEP and ATTEMPT, then by its window. Its
tokens lie in the window's ring from the arrival on, unless they are stale. -/
def Mod.useBatch (m : Mod) (r qp : Nat) (b : Batch) : Mod :=
  let b := { b with rank := r, qp := qp }
  if m.clus.lost.contains r then m
  else if qp = 0 then m.takeSlots r b
  else if b.toks.length = 0 && b.credit ≠ 0 then m.judgeCredit b
  else
    match m.win? b.window true with
    | some e => (if m.age b.step b.attempt == .old || !m.endsOk b true then m else m.ringBatch e b).judgeBatch b
    | none => m.judgeBatch b

/-- A batch that the module cannot interpret (R404): the slots of its token records are free again, MSG_RESERVED names the field. -/
def Mod.badBatch (m : Mod) (r qp bit : Nat) (body : Option (List Byte)) : Mod :=
  let n := (((body.map List.length).getD 0) - 32) / 72
  (if qp = 0 then m else m.freeCredits (qp - 1) n).msgReserved r 0 0 bit

/-- R391 to R393, R404: a batch arrives on a queue pair from a rank. With an empty queue of arrivals the row also injects what
waits for room and judges again what is held (`body` none and CTR 0). -/
def execBatchReceive (r : BitVec 12) (qp : BitVec 16) (suite : BitVec 8) (ctr : BitVec 64) (body : Option (List Byte)) (s : State) :
    Host.Outcome State Fault Refusal :=
  lift (fun m =>
    if m.cord.inst.isNone || !m.coresRun then m
    else if ctr = 0 then m.pumpWins
    else
      let o := m.openMsg r.toNat qp.toNat suite.toNat ctr.toNat body
      match o.1 with
      | .bad => o.2.tagFail r.toNat (2 ^ 17 + qp.toNat, 0, 0) false
      | .replay => o.2
      | .suite => o.2.badBatch r.toNat qp.toNat 32 body
      | .ok p =>
        match batchBad p with
        | some b => o.2.badBatch r.toNat qp.toNat b body
        | none =>
          let m := o.2.useBatch r.toNat qp.toNat (Batch.ofBytes p)
          m.pumpWins) s

/-- Freed exchange slots of a rank go back in a batch on queue pair 0, at most 4,096 in one (R361, R391; log entry 53). -/
def Mod.returnSlots (m : Mod) (r : Nat) : Mod :=
  let f := tGet 0 m.exch.freed r
  let n := Nat.min 4096 f
  if n = 0 then m
  else ({ m with exch := { m.exch with freed := tSet 0 m.exch.freed r (f - n) } }).sendTo r 0
    (batchHdr 0 m.self m.train.attempt m.train.step m.tick.k 0 n)

/-- R392, R361: freed credits go back: of inbound window n when SLOTS / 4 have gathered, or 4 us after the first; with `exch`,
the exchange slots of rank n. -/
def execCreditBatchSend (n : BitVec 16) (exch : Bool) (s : State) : Host.Outcome State Fault Refusal :=
  lift (fun m =>
    if exch then m.returnSlots n.toNat
    else match m.win? n.toNat true with
    | none => m
    | some e =>
      let x := m.remIn n.toNat
      if x.freed = 0 then m
      else (m.setRemIn n.toNat { x with freed := 0 }).sendBatch e x.freed []) s

/-- R387: a member's shards of a gather land: `ent` names the entry, `off` and `body` the bytes of one shard. When the own
shards are written and every other member's have landed, the completion token is sent, once its queue has a credit (R175). -/
def Mod.gatherDone (m : Mod) (i : Nat) : Mod :=
  let e := nth 0 m.sched i
  let t := slice e 35 20
  let others := (m.members (slice e 47 36)).filter fun r => r ≠ m.self && m.ranks.contains r
  match m.rem.gathers.find? (·.ent = i) with
  | none => m
  | some g =>
    let need := others.filter fun r => m.shards.any fun sh => isShard sh && shOwner sh = r && shTensor sh = t
    let q := qid (cid (slice e 116 104) (slice e 123 117)) (slice e 125 124)
    if g.own && need.all g.from'.contains && decide (0 < (m.inq q).credit) then
      ({ m with rem := { m.rem with gathers := m.rem.gathers.filter (·.ent ≠ i) } }).hubToken q 0
    else m

/-- R387: shards of a gather land from a rank; `last`: with them all of that rank's. They may land before the module's own tick has
come; those of an attempt that has been voided count for no later one (R397). -/
def execGatherComplete (r : BitVec 12) (ctr : BitVec 64) (ent : BitVec 16) (off : BitVec 40) (body : Option (List Byte)) (last : Bool)
    (s : State) : Host.Outcome State Fault Refusal :=
  lift (fun m =>
    let i := ent.toNat
    let dst := slice (nth 0 m.sched i) 103 64 + off.toNat
    if m.cord.inst.isNone || !m.coresRun || !m.onDies dst ((body.map List.length).getD 0) then m
    else if ctr = 0 then m.gatherDone i
    else
      let o := m.openMsg r.toNat 0 1 ctr.toNat body
      match o.1 with
      | .ok p =>
        let m := o.2.hbmPut dst p
        let x := (m.rem.gathers.find? (fun (q : GathRun) => q.ent = i)).getD { ent := i }
        let x := if last && (m.train.running || m.train.voted) then { x with from' := (x.from' ++ [r.toNat]).eraseDups } else x
        ({ m with rem := { m.rem with gathers := m.rem.gathers.filter (fun (q : GathRun) => q.ent ≠ i) ++ [x] } }).gatherDone i
      | .bad => o.2.tagFail r.toNat (2 ^ 18 + i, 0, 0) false
      | _ => o.2) s

end Sys2Proof.Machine
end

