-- ==== Sys2Proof/Machine/Tick.lean ====
section
/-! DEFINITION. The tick boundary (R376 to R397): the end of the tick before (overrun, report records, commit AND, sync results), what happens before the boundary is delivered (flip, retirement, clock changes, run-time shapes), what begins with it (attempt, moves, prefetch lists, buckets, gathers, heartbeats); the comparison of digests and bounds (R245, R246). -/

namespace Sys2Proof.Machine

/-! ### Busy hearths, records -/

/-- A hearth is busy (R383): a placed core inside a block or with a ready block, of which a tick without an attempt (R386) and static firing (R181) have none, a token in
a queue that is not tick-staged or in a replication buffer. -/
def Mod.busy (m : Mod) (h : Nat) : Bool :=
  let static := cStatic (m.imgOf h)
  (m.coresOf h).any (fun k => m.inside h k || (m.starts && !static && (List.range (m.blocks h k).length).any (m.blockReady h k))) ||
    m.grid.inqs.any (fun p => qHearth p.1 = h && !p.2.staged && (!p.2.router.isEmpty || !p.2.spill.isEmpty)) ||
    (m.repsAt h).any fun p => !(nth {} (m.tree p.1).nodes p.2).entries.isEmpty

/-- Words of a record that depend on time and that the boundary takes from outside: ISSUE, STALL_ARB, the idle causes and
TICK_DONE (R242, R394). -/
def timeWord (w : Nat) : Bool := [3, 4, 5, 15, 16, 17, 18, 19, 20, 21, 22, 23, 24].contains w

/-- The stage of a hearth has no slot at schedule tick k (R384). -/
def Mod.inBubble (m : Mod) (h k : Nat) : Bool :=
  match stageOf (m.imgOf h) h with
  | none => false
  | some st => !(cSched (m.imgOf h)).any fun e => slice e 3 0 = 3 && slice e 19 4 = k && slice e 27 20 = st &&
      decide (1 ≤ slice e 30 28 ∧ slice e 30 28 ≤ 4)

/-- The idle causes that the tick's schedule settles (R394): with no attempt in the tick every idle cycle not throttled is peer wait,
in a bubble of the hearth's stage it is bubble; else, and for the throttled cycles, as counted. -/
def Mod.settleIdle (m : Mod) (h : Nat) (rep : Tbl Nat) : Tbl Nat :=
  let sum := ([16, 17, 18, 19, 20, 21, 23].map (tGet 0 rep)).sum
  let all := fun (w : Nat) => [16, 17, 18, 19, 20, 21, 23].foldl (fun t i => tSet 0 t i (if i = w then Nat.min (2 ^ 48 - 1) sum else 0)) rep
  match m.train.tickK with
  | none => all 19
  | some k => if m.inBubble h k then all 21 else rep

/-- The hearths that the cord places in a tick: at its start or at its end, between which a switch may have come (R238, R244). -/
def Mod.tickPlaced (m : Mod) : List Nat := (m.train.tickOn ++ m.placed).eraseDups

/-- The records of the tick are frozen (R242, R244); their timing words come with the boundary, of the hearths that the cord places. -/
def Mod.freeze (m : Mod) (times : List (Nat × Nat × Nat)) : Mod :=
  let on := m.tickPlaced
  let m := { m with train := { m.train with prevOn := on } }
  let m := (times.filter fun t => timeWord t.2.1 && on.contains t.1).foldl (fun (m : Mod) t =>
    let x := m.hearth t.1
    m.setHearth t.1 { x with rep := tSet 0 x.rep t.2.1 t.2.2 }) m
  let m := on.foldl (fun (m : Mod) h => m.setHearth h { m.hearth h with rep := m.settleIdle h (m.hearth h).rep }) m
  (m.grid.hearths.map Prod.fst).foldl (fun (m : Mod) h =>
    let x := m.hearth h
    m.setHearth h { x with repPrev := x.rep, rep := [] }) m

/-- The idle sum over hearths of each cause, words 16 to 23 (R395). -/
def Mod.idleSums (m : Mod) : List Nat :=
  (List.range 8).map fun i => (m.train.prevOn.map fun h => tGet 0 (m.hearth h).repPrev (16 + i)).sum

/-- Element-wise sum, the shorter list padded with zeros. -/
def addPad : List Nat → List Nat → List Nat
  | [], b => b
  | a, [] => a
  | x :: a, y :: b => (x + y) :: addPad a b

/-- Per-step totals take every hearth's frozen record in, idle sums those of the hearths placed (R247, R395). -/
def Mod.addTotals (m : Mod) : Mod :=
  let tot := (m.grid.hearths.map Prod.fst).foldl (fun t h =>
    (m.hearth h).repPrev.foldl (fun (t : Tbl Nat) w => tSet 0 t (32 * h + w.1) (tGet 0 t (32 * h + w.1) + w.2)) t) m.hbm.totNow
  let idle := m.idleSums
  { m with hbm := { m.hbm with totNow := tot }, train := { m.train with idleTick := idle, idleNow := addPad m.train.idleNow idle } }

/-- The 14,336 B that capture writes for one group: every hearth's 28 words (R247). -/
def Mod.captureGroup (m : Mod) (g : Nat) : List Byte :=
  (groupHearths g).flatMap fun h => (List.range 28).flatMap fun w => leBytes 8 (tGet 0 (m.hearth h).repPrev w)

/-- Capture writes the frozen records of its groups into its host-visible region (R247). -/
def Mod.captureTick (m : Mod) : Mod :=
  match m.hbm.capture with
  | none => m
  | some c =>
    let ents := cRecs m.img 0xF 16
    let base := slice (nth 0 m.hbmmap (slice (nth 0 ents c.hv) 19 4)) 55 16
    let bytes := (List.range c.ng).flatMap fun i => m.captureGroup (c.g0 + i)
    let m := m.hbmPut (base + c.off + 14336 * c.ng * c.done) bytes
    { m with hbm := { m.hbm with capture := if c.left ≤ 1 then none else some { c with left := c.left - 1, done := c.done + 1 } } }

/-! ### Sync results (R263, R264) -/

/-- Element-wise FP32 sum, the shorter vector padded with +0. -/
def addVec : List Word → List Word → List Word
  | [], b => b.map (f32add 0)
  | a, [] => a.map (fun x => f32add x 0)
  | x :: a, y :: b => f32add x y :: addVec a b

/-- Sum over the 2^n leaves from lo, left subtree plus right subtree at every node; a subtree without contributions is +0. -/
def sumTree : Nat → Nat → List (Nat × List Word) → List Word
  | 0, _, l => ((l.map Prod.snd).head?).getD []
  | n + 1, lo, l =>
    if l.isEmpty then []
    else
      let mid := lo + 2 ^ n
      addVec (sumTree n lo (l.filter fun p => p.1 < mid)) (sumTree n mid (l.filter fun p => !decide (p.1 < mid)))

/-- A hearth's sum for a channel: ascending core number, then issue order. -/
def hearthSum (l : List SyncC) : List Word :=
  let byCore := (List.range 128).flatMap fun k => (l.filter fun c => c.core = k && !c.sum.isEmpty).map SyncC.sum
  match byCore with
  | [] => []
  | v :: t => t.foldl addVec v

/-- The module's results for a channel of the tick before the last: OR word and sums. -/
def Mod.syncResult (m : Mod) (ch : Nat) : Nat × List Word :=
  let live := m.placed.filter fun h => m.dieRuns (hDie h)
  let of := fun (h : Nat) => (m.hearth h).syncPrev.filter fun c => c.ch = ch
  let flags := (live.flatMap of).foldl (fun a c => a ||| c.flag.toNat) 0
  let die := fun (d : Nat) => sumTree 12 0 (((live.filter fun h => hDie h = d).map fun h =>
    (64 * hRow h + hCol h, hearthSum (of h))).filter fun p => !p.2.isEmpty)
  (flags, if m.dieRuns 0 && m.dieRuns 1 then (if (die 0).isEmpty && (die 1).isEmpty then [] else addVec (die 0) (die 1))
    else if m.dieRuns 0 then die 0 else die 1)

/-- The 320 B of a channel in a SYNC region. -/
def syncBytes (r : Nat × List Word) : List Byte :=
  leBytes 4 r.1 ++ List.replicate 60 0 ++ wsBytes (r.2.take 64) ++ List.replicate (256 - 4 * Nat.min 64 r.2.length) 0

/-- A write of the Hub into a hearth store, over the remote-in channel (R242, R252). -/
def Mod.hubPut (m : Mod) (h a : Nat) (b : List Byte) : Mod := (m.hsPut h a b).count h 10 b.length

/-- Results of tick t are in every SYNC region before the boundary of tick t + 2; this tick's contributions are kept. -/
def Mod.deliverSync (m : Mod) : Mod :=
  let b := (List.range 4).flatMap fun ch => syncBytes (m.syncResult ch)
  let m := m.placed.foldl (fun (m : Mod) h => match (m.hearth h).region? 0xA with
    | some r => m.hubPut h r.base b
    | none => m) m
  (m.grid.hearths.map Prod.fst).foldl (fun (m : Mod) h =>
    let x := m.hearth h
    m.setHearth h { x with syncPrev := x.sync, sync := [] }) m

/-! ### The commit AND (R264) and overrun (R383) -/

/-- A placed hearth contributes 1. -/
def Mod.commitLeaf (m : Mod) (h : Nat) : Bool :=
  !m.flt.recs.any (fun r => r.hearth = h) && !(m.hearth h).stopped && !m.busy h && (m.hearth h).reqs.isEmpty

/-- The AND at the boundary that ends schedule tick STEP_TICKS - 1, and a fresh one at each boundary after it until it is 1;
with it the module acknowledges to its partner (R410). -/
def Mod.commitAnd (m : Mod) : Mod :=
  let due := m.train.running && !m.train.voted && !m.train.andOk && (m.train.andDue || decide (m.tick.k + 1 = cStepTicks m.img))
  if !due then m
  else if m.placed.all fun h => !m.dieRuns (hDie h) || m.commitLeaf h then
    let m := { m with train := { m.train with andOk := true, andDue := false } }
    match m.mate with
    | some r => ({ m with clus := { m.clus with mackSent := true } }).sendCl r (m.clMsg 9)
    | none => m
  else { m with train := { m.train with andDue := true } }

/-- The tick that ends is judged: overran when a hearth is busy or the AND is taken afresh; OVR_LIMIT in a row abandon the
step. -/
def Mod.overrun (m : Mod) : Mod :=
  if m.cord.inst.isNone || m.pow.state != .running then m
  else if m.train.andDue || m.placed.any m.busy then
    let n := m.train.ovrRun + 1
    let m := { m with train := { m.train with ovrRun := n, prevWaive := true, nowWaive := true }
                      tick := { m.tick with ovr := m.tick.ovr + 1 } }
    if cOvrLimit m.img ≠ 0 && n = cOvrLimit m.img && !m.train.abort then
      (m.event 0x810A n m.train.step).abandon 0x810A
    else m
  else { m with train := { m.train with ovrRun := 0 } }

/-! ### Run-time shapes (R222 to R224) -/

def shpTensor (r : Nat) : Nat := slice r 15 0
def shpDims (r : Nat) : List Nat := (List.range 4).map fun i => slice r (95 + 32 * i) (64 + 32 * i)

/-- Records of a microbatch in the shape intake, in address order; places that read zero throughout hold none (log entry 52). -/
def Mod.intake (m : Mod) (mb : Nat) : List Nat :=
  match m.hbmmap.find? (fun e => slice e 3 0 = 1 && slice e 11 4 = 0xB) with
  | none => []
  | some e =>
    let b := slice e 55 16
    ((List.range (slice e 103 64 / 32)).map fun i => leNat (m.hbmRaw (b + 32 * i) 32)).filter fun r =>
      r ≠ 0 && slice r 31 16 = mb

/-- SHAPES entries (R223). -/
def Mod.shapes (m : Mod) : List Nat := m.recs 9 32

/-- A record that is malformed: undeclared, a dimension at or above the rank not 0, repeated (`seen`). -/
def Mod.shapeBad (m : Mod) (seen : List Nat) (r : Nat) : Bool :=
  match m.shapes.find? (fun e => shpTensor e = shpTensor r) with
  | none => true
  | some e => seen.contains (shpTensor r) || ((shpDims r).drop (slice e 17 16 + 1)).any (· ≠ 0)

/-- A record above its plan. -/
def Mod.shapeOver (m : Mod) (r : Nat) : Bool :=
  match m.shapes.find? (fun e => shpTensor e = shpTensor r) with
  | none => false
  | some e => (List.zip (shpDims r) (shpDims e)).any fun p => decide (p.2 < p.1)

/-- The records as they are delivered, each with whether it is bad and whether it is over plan. -/
def Mod.checkShapes (m : Mod) (mb : Nat) : List (Nat × Bool × Bool) :=
  let rs := m.intake mb
  let found := (indices rs).map fun i =>
    let r := nth 0 rs i
    let bad := m.shapeBad ((rs.take i).map shpTensor) r
    (r, bad, !bad && m.shapeOver r)
  let missing := (m.shapes.filter fun e => !rs.any fun r => shpTensor r = shpTensor e).map fun e =>
    (shpTensor e + 2 ^ 16 * mb, true, false)
  found ++ missing

/-- The bytes of a microbatch's checked records: VOID in all when one is bad or over plan, or when the rerun has the microbatch
voided (`was`, R196); BAD in the bad. -/
def shapeBytes (was : Bool) (l : List (Nat × Bool × Bool)) : List Byte :=
  let void := was || l.any fun p => p.2.1 || p.2.2
  l.flatMap fun p => leBytes 32 (slice p.1 31 0 + 2 ^ 32 * b2n void + 2 ^ 33 * b2n p.2.1 + 2 ^ 64 * (p.1 / 2 ^ 64))

/-- Counts of the tensors and the void of the microbatch, once when it is staged. -/
def Mod.countShapes (m : Mod) (mb : Nat) (l : List (Nat × Bool × Bool)) : Mod :=
  let m := l.foldl (fun (m : Mod) p =>
    let t := shpTensor p.1
    let x := m.tensor t
    if p.2.1 then m.setTensor t { x with mal := x.mal + 1 }
    else if p.2.2 then m.setTensor t { x with plan := x.plan + 1 } else m) m
  match l.find? (fun p => p.2.1 || p.2.2) with
  | some p => m.voidMbs [mb] (shpTensor p.1)
  | none => m

/-- The attempt begins at the boundary of TICK_CNT `cnt`: START has been accepted, or its start tick has come (R379, R386), which a
replacement in Damped takes from the restart OUTCOME (R424). -/
def Mod.begins (m : Mod) (cnt : Nat) : Bool :=
  m.cord.inst.isSome && !m.train.running &&
    ((m.train.asked && m.train.startAt.isNone) || m.train.startAt = some cnt) &&
    (m.pow.state = .damped || m.pow.state = .running)

/-- The schedule tick that begins at the boundary of TICK_CNT `cnt`, none where no attempt runs in it. -/
def Mod.nextTick (m : Mod) (cnt : Nat) : Option Nat :=
  if m.train.stop.isSome then none
  else if m.train.running then some (m.tick.k + 1)
  else if m.begins cnt then some 0 else none

/-- Slots of a schedule tick that take a microbatch. -/
def Mod.mbSlots (m : Mod) (k : Nat) : List Nat :=
  m.sched.filter fun e => slice e 3 0 = 3 && slice e 19 4 = k && decide (1 ≤ slice e 30 28 ∧ slice e 30 28 ≤ 3)

/-- Shapes of the microbatches that stages consume in the schedule tick to come are written into their hearths' shape slots before
its boundary (R224). A step that is about to commit leaves no microbatch voided. -/
def Mod.putShapes (m : Mod) (k : Nat) : Mod :=
  (m.mbSlots k).foldl (fun (m : Mod) e =>
    let mb := slice e 47 32
    let b := shapeBytes (m.train.voided.contains mb && m.train.flipDue.isNone) (m.checkShapes mb)
    m.placed.foldl (fun (m : Mod) h =>
      if stageOf m.img h = some (slice e 27 20) then match (m.hearth h).region? 7 with
        | some r => m.hubPut h r.base (b.take r.len)
        | none => m
      else m) m) m

/-- The counts of the microbatches staged: a microbatch is staged, and its counts rise, for the first slot that takes it, KIND 1 of
stage 0 (log entry 52). -/
def Mod.stageShapes (m : Mod) (k : Nat) : Mod :=
  (m.mbSlots k).foldl (fun (m : Mod) e =>
    if slice e 30 28 = 1 ∧ slice e 27 20 = 0 then m.countShapes (slice e 47 32) (m.checkShapes (slice e 47 32)) else m) m

/-! ### Clock changes (R269, R270) -/

/-- The request of a die that waits for its boundary; the tick is waived where a setting in force changes (R245, R269). -/
def Mod.clockChange (m : Mod) (d : Nat) : Mod :=
  let x := m.die d
  match x.req with
  | none => m
  | some k =>
    let n := (m.setDie d { x with base := k, req := none }).settleK
    if n.dieN.k = m.dieN.k ∧ n.dieS.k = m.dieS.k then n else { n with train := { n.train with nowWaive := true } }

/-! ### Gathers (R387) -/

/-- Bytes of a tensor's working copy of n parameters: elements, then scales (log entry 38). -/
def Mod.workLen (m : Mod) (t n : Nat) : Nat :=
  let f := m.workFmt t
  n * f.width / 8 + if f.isFp8 then n / 32 else 0

/-- Where a shard lies in the whole copy: the offset of its elements. -/
def Mod.gatherOff (m : Mod) (sh : Nat) : Nat := m.workLen (shTensor sh) (shFirst sh)

/-- A gather of the tick: own shards are written to DST of every other member and to the module's own. Ranks whose shards have
landed already in the attempt stay noted. -/
def Mod.startGather (m : Mod) (i : Nat) : Mod :=
  let e := nth 0 m.sched i
  let t := slice e 35 20
  let shs := m.owned.filter fun sh => shTensor sh = t
  let rks := (m.members (slice e 47 36)).filter fun r => r ≠ m.self && m.ranks.contains r
  let m := shs.foldl (fun (m : Mod) sh =>
    let b := m.hbmRaw (shWork sh) (m.workLen t (shCount sh))
    let m := rks.foldl (fun (m : Mod) r => m.sendOut r (0, some (i, m.gatherOff sh), b)) m
    m.hbmPut (slice e 103 64 + m.gatherOff sh) b) m
  let g := (m.rem.gathers.find? (fun (q : GathRun) => q.ent = i)).getD { ent := i }
  { m with rem := { m.rem with gathers := m.rem.gathers.filter (fun (q : GathRun) => q.ent ≠ i) ++ [{ g with own := true }] } }

def Mod.startGathers (m : Mod) (k : Nat) : Mod :=
  ((indices m.sched).filter fun i => slice (nth 0 m.sched i) 3 0 = 5 && slice (nth 0 m.sched i) 19 4 = k).foldl Mod.startGather m

/-! ### Late exchange, heartbeats, retries -/

/-- R372: at the boundary of tick x + 1 an owner that lacks a contribution, of x + 2 a member that lacks a summary, is late. -/
def Mod.exchLate (m : Mod) (k : Nat) : Mod :=
  let owner := (m.buckets.filter fun e => slice e 3 0 = 4 && bkTick e + 1 = k).filter fun e =>
    m.exch.open'.contains (slice e 19 4) && !m.allGot e
  let member := (m.buckets.filter fun e => slice e 3 0 = 4 && bkTick e + 2 = k).filter fun e =>
    m.exch.open'.contains (slice e 19 4) &&
      (m.pieces.any fun p => pcBucket p = slice e 19 4 && (recOf m.exch.sums (pcBucket p) (pcPiece p)).isNone)
  { m with exch := { m.exch with late := m.exch.late + owner.length + member.length } }

/-- HEARTBEAT to every watcher in the tick's first exchange slot (R417). -/
def Mod.heartbeats (m : Mod) : Mod :=
  if m.cord.inst.isNone || m.clus.departed || m.train.stop.isSome || m.pow.state != .running then m
  else
    let x := { m.clMsg 1 with recov := m.clus.recov, tick := m.tick.cnt.toNat }
    m.watchers.foldl (fun (m : Mod) r => m.sendCl r x) m

/-- Step 1 of pairing again, 1 s after a failure that does not persist (R407). -/
def Mod.pairRetry (m : Mod) : Mod :=
  match m.clus.pairFail with
  | some c => if !pairStays c && decide (m.clus.pairAt + 1000000000 ≤ m.tick.now) then m.pairStart else m
  | none => m

/-- STAGING_PRESSURE, once per cord, for a source declared at one tick that is busy above 85 % (R382). -/
def Mod.pressure (m : Mod) (hbm eth : Nat) : Mod :=
  let h := decide (85 < hbm) && cStgHbm m.img = 1
  let e := decide (85 < eth) && cStgEth m.img = 1
  if m.train.pressure || m.cord.inst.isNone || (!h && !e) then m
  else ({ m with train := { m.train with pressure := true } }).event 0x810B (if h then 0 else 1) 0

/-! ### The boundary -/

/-- The end of the tick: overrun, the commit AND, the Hub's writes before the boundary, frozen records. -/
def Mod.endTick (m : Mod) (times : List (Nat × Nat × Nat)) (next : Option Nat) : Mod :=
  let t := { m.train with prevK := m.train.tickK, prevStep := m.train.tickStep, prevWaive := m.train.nowWaive, nowWaive := false,
                          prevDig := m.train.tickDig, prevClk := (m.dieN.k, m.dieS.k) }
  let m := ({ m with train := t }).overrun.commitAnd.deliverSync
  let m := match next with
    | some k => m.putShapes k
    | none => m
  let m := (m.freeze times).addTotals.captureTick
  let late := (m.hbm.moves.filter fun r => !r.late).length
  { m with hbm := { m.hbm with moves := m.hbm.moves.map (fun (r : MoveRun) => { r with late := true }),
                               moveLate := m.hbm.moveLate + late, movedLast := m.hbm.moved, moved := [], refresh := 0 } }

/-- The cord stops at the end of the tick (R226, R378, R384, R425, R480, R538): Draining begins; an attempt in progress is given
up, and with it the attempt number rises. The module departs (R418). Where no cord is to stay installed a switch in progress ends with neither (R240). A STOP pending stays so (R494). -/
def Mod.stopCord (m : Mod) : Mod :=
  match m.train.stop with
  | none => m
  | some w =>
    let was := m.inAttempt
    let m := m.depart
    let m := if was then
        let s := m.cord.succ
        let m := ({ m with cord := { m.cord with succ := if w.clear then none else s } }).returnToCommit
        let m : Mod := if w.clear then { m with cord := { m.cord with succ := s } } else m
        m.nextAttempt true
      else m
    let t := { m.train with running := false, stop := none, abort := false, startAt := none, asked := false, ovrRun := 0 }
    let m := { m with train := t }
    let m : Mod := if w.clear then m.uninstall else m
    if m.pow.state = .running then m.setState .draining w.code else m

/-- A departure that waited for the end of the update tick (R397). -/
def Mod.departNow (m : Mod) : Mod :=
  if m.train.departDue then ({ m with train := { m.train with departDue := false } }).depart else m

/-- What happens before the boundary is delivered: the flip, the return after a loss, a set swap, clock changes, the stop of the
cord. -/
def Mod.beforeTick (m : Mod) : Mod := ((((m.flipNow.lossNow.retireBoundary).clockChange 0).clockChange 1).departNow).stopCord

/-- TICK_CNT and the time of the next boundary (R376, R377). In a PTP source it falls at the next multiple of T since the PTP epoch
and TICK_CNT is the multiple; one less than 1 us away is that of the boundary just past (log entry 106). In a local source with
PPS_IN enabled and 1 s a whole multiple of T the boundaries keep whole multiples of T from the last edge of PPS_IN. -/
def Mod.nextBoundary (m : Mod) : BitVec 64 × Nat :=
  let t := m.tick
  let p := 1000 * t.us
  if t.src = 0 then
    let onEdge := t.ppsEn && decide (1000000000 % p = 0)
    let next := match t.ppsEdge with
      | some e => if onEdge then e + ((t.now - e + 1000) / p + 1) * p else t.now + p
      | none => t.now + p
    (if t.began then t.cnt + 1 else 0, next)
  else
    let n := (t.epoch.getD 0 + t.now + 1000) / p + 1
    (BitVec.ofNat 64 n, n * p - t.epoch.getD 0)

/-- TICK_CNT, time, the schedule tick (R376, R377, R386). -/
def Mod.countTick (m : Mod) : Mod :=
  let t := m.tick
  let cnt := m.nextBoundary.1
  let now := m.nextBoundary.2
  let hold := if t.hold then now - t.now else 0
  { m with tick := { t with cnt := cnt, began := true, now := now, k := if m.train.running then t.k + 1 else t.k,
                            holdNs := t.holdNs + hold, holdMs := t.holdMs + ((t.holdNs + hold) / 1000000 - t.holdNs / 1000000) }
           pow := { m.pow with ticks := m.pow.ticks + b2n m.train.running }
           tst := { m.tst with sinceT := m.tst.sinceT + 1 } }

/-- The attempt begins at its start tick; the first after START makes the module Running (R221, R379, R386). Working copies that an
error has struck are regenerated first (R296). -/
def Mod.beginAttempt (m : Mod) : Mod :=
  if !m.begins m.tick.cnt.toNat then m
  else
    let m := if m.train.regen then ({ m with train := { m.train with regen := false } }).regenAll else m
    if m.pow.state = .damped then
      let m := (({ m with hbm := { m.hbm with selfRef := false } }).setState .running 0).startAttempt
      { m with clus := { m.clus with recov := false, fresh := false, startNs := m.tick.now, departed := false, beats := [] } }
    else
      let m := m.startAttempt
      { m with clus := { m.clus with recov := false, fresh := false } }

/-- DIGESTS entry of a group at schedule tick k (R243). -/
def Mod.digestEnt (m : Mod) (k g : Nat) : Nat :=
  leNat (((cSect m.img 0x13).drop (16 * (128 * k + g))).take 16)

/-- What the digests of schedule tick k are compared with; a tick past the last has no entries (R243, R245). -/
def Mod.digTick (m : Mod) (k : Nat) : DigTick :=
  { ents := if cStepTicks m.img ≤ k then [] else (List.range 128).map (m.digestEnt k), compact := cCompact m.img,
    act := cDigestAct m.img }

/-- The attempt that the tick begins with, its hearths, what its digests are compared with (R244, R245, R394). Between the commit
vote and the flip no attempt runs. -/
def Mod.markTick (m : Mod) : Mod :=
  let k := if m.train.running && !m.train.voted && m.pow.state == .running then some m.tick.k else none
  { m with train := { m.train with tickK := k, tickStep := m.train.step, tickOn := m.placed,
                                   tickDig := (k.map m.digTick).getD {} } }

/-- The boundary as the hearths see it: staged tokens become visible, source blocks and static schedules start afresh (R179,
R183, R227). A stopped die gets none. -/
def Mod.deliverTick (m : Mod) : Mod :=
  let on := fun (h : Nat) => m.dieRuns (hDie h)
  let see := fun (t : QTok) => { t with vis := true }
  let inqs := m.grid.inqs.map fun p =>
    if p.2.staged && on (qHearth p.1) then (p.1, { p.2 with router := p.2.router.map see, spill := p.2.spill.map see }) else p
  let ctls := m.grid.ctls.map fun p => if on (p.1 / 128) then (p.1, { p.2 with srcDone := [], sched := 0 }) else p
  { m with grid := { m.grid with inqs := inqs, ctls := ctls } }

/-- What begins with the schedule tick: moves, buckets, exchange slot 0, gathers. -/
def Mod.tickWork (m : Mod) : Mod :=
  if !m.train.running then m
  else
    let k := m.tick.k
    let m := (((m.startMoves k).exchLate k).startBuckets k).rejudge
    if m.train.running then (m.startGathers k).pumpWins else m

/-- The first exchange slot: summaries, chunks, heartbeats (R360, R365, R417). -/
def Mod.firstSlot (m : Mod) : Mod :=
  if m.cord.inst.isNone || m.pow.state != .running then m
  else (({ m with exch := { m.exch with slot := 0 } }).runSlot).heartbeats

/-- The countdown of a switch (R240). -/
def Mod.countHandover (m : Mod) : Mod :=
  if m.cord.succ.isSome then { m with cord := { m.cord with handLeft := m.cord.handLeft - 1 } } else m

/-- R376: the boundary. `times` are the timing words of the hearths' records (R242), `hbm` and `eth` the largest busy
percentages of the last 64 ticks (R382). -/
def execTickBoundary (times : List (BitVec 13 × Fin 28 × BitVec 48)) (hbm eth : Fin 101) (s : State) :
    Host.Outcome State Fault Refusal :=
  lift (fun m =>
    if !m.tick.gen || m.pow.state = .off then m
    else
      let cnt := m.nextBoundary.1.toNat
      let next := m.nextTick cnt
      let m := (m.endTick (times.map fun t => (t.1.toNat, t.2.1.val, t.2.2.toNat)) next).beforeTick
      let m := match m.nextTick cnt with
        | some k => m.stageShapes k
        | none => m
      let m := (m.countTick.beginAttempt).markTick.deliverTick
      let m := (m.tickWork.peatBoundary m.tick.cnt.toNat).accrue m.tick.us
      ((((m.firstSlot.countHandover).pairRetry).pressure hbm.val eth.val).rejudgeCl).pumpState) s

/-! ### The comparison of digests and bounds (R245, R246) -/

/-- Words whose count waives a tick: HBM, peer, flash wait, throttle. -/
def Mod.idleWaive (m : Mod) : Bool :=
  m.train.prevOn.any fun h => [18, 19, 20, 22].any fun w => tGet 0 (m.hearth h).repPrev w ≠ 0

/-- A number of cycles at a die's clock in the tick compared takes more than `ns`: setting k runs at 600 MHz + 112.5 MHz times k
(R248). -/
def Mod.overNs (m : Mod) (h cycles ns : Nat) : Bool :=
  decide (ns * (1200 + 225 * (if hDie h = 0 then m.train.prevClk.1 else m.train.prevClk.2)) < cycles * 2000)

/-- The bounds that a group exceeds, as EVENT 0x8108 names them (R245). -/
def Mod.boundsOver (m : Mod) (g e : Nat) : Nat :=
  let hs := (groupHearths g).filter m.train.prevOn.contains
  let done := slice e 95 64 ≠ 0 && hs.any fun h => m.overNs h (tGet 0 (m.hearth h).repPrev 24) (slice e 95 64)
  let fires := (hs.map fun h => ([0, 1, 2].map fun w => tGet 0 (m.hearth h).repPrev w).sum).sum
  b2n done + 2 * b2n (m.train.prevDig.compact && slice e 127 96 ≠ 0 && decide (slice e 127 96 < fires))

def Mod.checkBounds (m : Mod) (k : Nat) : Mod :=
  (List.range 128).foldl (fun (m : Mod) g =>
    let b := m.boundsOver g (nth 0 m.train.prevDig.ents g)
    if b = 0 then m
    else ({ m with train := { m.train with bounds := m.train.bounds + 1 } }).event 0x8108 (g + 256 * k + 2 ^ 24 * b) m.train.prevStep) m

/-- A mismatch (R246): event, records kept, and what DIGEST_ACT asks for. -/
def Mod.mismatchAt (m : Mod) (k g want got : Nat) : Mod :=
  let recs := (groupHearths g).map fun h => (h, (List.range 28).map fun w => tGet 0 (m.hearth h).repPrev w)
  let t := { m.train with mismatch := m.train.mismatch + 1, misWant := want, misGot := got, kept := m.train.kept ++ recs }
  ({ m with train := t }).event 0x8107 (g + 256 * k) m.train.prevStep

/-- The consequence of mismatches in an uncommitted step. -/
def Mod.mismatchAct (m : Mod) : Mod :=
  if m.train.prevDig.act ≠ 1 || m.train.prevStep ≠ m.train.step || !(m.train.running || m.train.voted) then m
  else if m.train.rerun then m.enterFault 0x1122
  else m.voidStep true

/-- R245, R246: digests and bounds of the tick that ended at the last boundary, before the next one. -/
def execDigestCompare (s : State) : Host.Outcome State Fault Refusal :=
  lift (fun m =>
    match m.train.prevK with
    | none => m
    | some k =>
      let m := { m with train := { m.train with prevK := none } }
      let p := m.train.prevDig
      if m.cord.inst.isNone || p.ents.isEmpty then m
      else
        let ds := (List.range 128).map fun g => (g, (m.groupDigest g k).toNat)
        let m := { m with train := { m.train with digests := ds } }
        let m := m.checkBounds k
        if p.compact then m
        else if m.train.prevWaive || m.idleWaive then { m with train := { m.train with waives := m.train.waives + 1 } }
        else
          let bad := ds.filter fun (d : Nat × Nat) => d.2 ≠ slice (nth 0 p.ents d.1) 63 0
          let m := if bad.isEmpty then m else { m with train := { m.train with kept := [] } }
          let m := bad.foldl (fun (m : Mod) (d : Nat × Nat) => m.mismatchAt k d.1 (slice (nth 0 p.ents d.1) 63 0) d.2) m
          if bad.isEmpty then m else m.mismatchAct) s

end Sys2Proof.Machine
end

