-- ==== Sys2Proof/Machine/Dies.lean ====
section
/-! DEFINITION. The dies' clocks and runs (R267 to R273), the control ring's urgent bit and aborts (R261, R268), event crossings (R265, R266). -/

namespace Sys2Proof.Machine

/-! ### Settings (R269, R270) -/

/-- A protection change takes effect at once and waives the tick (R269). -/
def Mod.protect (m : Mod) (d : Nat) (thermal power : Option Nat) : Mod :=
  let x := m.die d
  let y := { x with prot := thermal, powK := power }
  if x = y then m
  else
    let n := (m.setDie d y).settleK
    if n.dieN.k = m.dieN.k ∧ n.dieS.k = m.dieS.k then n else { n with train := { n.train with nowWaive := true } }

/-- A die is stopping, starting, or waits for a requested change (R272). -/
def DieSt.busy (x : DieSt) : Bool := x.run == .draining || x.run == .starting || x.req.isSome

/-- A write of DIE_SETTING (R269, R270, R272): the change comes at the next boundary; for a stopped die it is stored and applies
at the start (R494). -/
def Mod.writeDieSetting (m : Mod) (d v : Nat) : WOut :=
  if 16 < v then { status := 0x904, m := m }
  else if m.dieN.busy || m.dieS.busy then { status := 0x905, m := m }
  else if m.cord.inst.isSome && cStatic m.img && !staticFits m.img v m.tick.us then { status := 0x903, m := m }
  else if (m.die d).run == .stopped then { status := 0, m := m.setDie d { m.die d with want := v } }
  else
    let ask := fun (m : Mod) (d : Nat) => m.setDie d { m.die d with want := v, req := some v }
    { status := 0, m := if m.cord.inst.isSome && cStatic m.img then ask (ask m 0) 1 else ask m d }

/-! ### Stopping and starting (R271 to R273) -/

/-- The number of a run state in DIE_STATE (R489). -/
def DieRun.num : DieRun → Nat
  | .running => 0
  | .draining => 1
  | .stopped => 2
  | .starting => 3

/-- A change of a die's run state, with its event. -/
def Mod.setRun (m : Mod) (d : Nat) (r : DieRun) : Mod := (m.setDie d { m.die d with run := r }).event 0x8205 d r.num

/-- The installed cord, or a switch's successor, places cores on a die. -/
def Mod.cordOn (m : Mod) (d : Nat) : Bool :=
  let on := fun (c : List Byte) => (cPlaced c).any fun h => hDie h = d
  (m.cord.inst.isSome && on m.img) || match m.cord.succ with
    | some n => on (m.cordIn n)
    | none => false

/-- A write of DIE_RUN 0. A stop of a draining die cancels a pending start (R273). -/
def Mod.writeDieStop (m : Mod) (d : Nat) : WOut :=
  let x := m.die d
  if x.run == .stopped then { status := 0, m := m }
  else if x.run == .draining then { status := 0, m := m.setDie d { x with pend := false } }
  else if m.dieN.busy || m.dieS.busy then { status := 0x905, m := m }
  else if m.cordOn d then { status := 0x901, m := m }
  else if (m.die (1 - d)).run != .running then { status := 0x902, m := m }
  else if m.cord.inst = some d || m.cord.succ = some d || m.cord.load.any (fun l => l.slot = d) then { status := 0x907, m := m }
  else { status := 0, m := m.markOld.setRun d .draining }

/-- A write of DIE_RUN 1. A die that self-test holds stays stopped: its start is refused with TST_DIE_HELD (R562). -/
def Mod.writeDieStart (m : Mod) (d : Nat) : WOut :=
  let x := m.die d
  match x.run with
  | .running => { status := 0, m := m }
  | .starting => { status := 0, m := m }
  | .draining => { status := 1, m := m.setDie d { x with pend := true } }
  | .stopped =>
    if x.held then { status := 0x1208, m := m }
    else if m.dieN.busy || m.dieS.busy then { status := 0x905, m := m }
    else { status := 0, m := m.setRun d .starting }

/-- R272: step 3 of a drain has not finished within 1 ms: the die keeps running. `loc` is the hearth of the first link buffer
that was not empty. -/
def execDieDrainTimeout (d : Fin 2) (loc : BitVec 13) (s : State) : Host.Outcome State Fault Refusal :=
  lift (fun m =>
    let x := m.die d.val
    if x.run != .draining then m
    else ((m.setDie d.val { x with pend := false }).setRun d.val .running).event 0x8206 loc.toNat 0x906) s

/-- R271, R279, R299: the die has stopped: nothing under way concerns it any more, and a set's retirement in progress has ended; the cord staged in its slot is discarded; a pending start begins. -/
def execDieStopDone (d : Fin 2) (s : State) : Host.Outcome State Fault Refusal :=
  lift (fun m =>
    let x := m.die d.val
    if x.run != .draining || m.hbm.ret.isSome || m.underWay d.val || m.dmaUnder d.val then m
    else
      let m := ((m.setSlot d.val {}).setDie d.val { x with pend := false }).setRun d.val .stopped
      if x.pend then m.setRun d.val .starting else m) s

/-- R271: the die reads running at its requested setting, every hearth parked. -/
def execDieStartDone (d : Fin 2) (s : State) : Host.Outcome State Fault Refusal :=
  lift (fun m =>
    let x := m.die d.val
    if x.run != .starting then m
    else ((m.setDie d.val { x with base := x.want, req := none }).setRun d.val .running).settleK) s

/-! ### The control ring and the crossings -/

/-- R268: the collier's ring access for a GET of a hearth element is aborted in a stopped die: KOP_STOPPED names the element. -/
def execRingReadAbort (ses seq elem : BitVec 32) (s : State) : Host.Outcome State Fault Refusal :=
  lift (fun m => m.withReq ses.toNat seq.toNat 3 fun m p _ =>
    if (p.index = 0x2000 || p.index = 0x2001) && (m.die (elem.toNat / (if p.index = 0x2000 then 4096 else 4160))).run == .stopped then
      m.respond ses.toNat p 0x1C elem.toNat []
    else m) s

/-- The crossing overrun status word (R266). -/
def CrossSt.word (x : CrossSt) : Nat := b2n x.ovrHearth + 2 * b2n x.ovrPower + 4 * b2n x.ovrTherm + 8 * b2n x.ovrPps

/-- R261: the Hub learns of a stop's urgent condition and reads the details: its stale-token events are raised and leave the
FIFO. Faults and dumps are rows of their own. -/
def execRingUrgent (h : BitVec 13) (s : State) : Host.Outcome State Fault Refusal :=
  lift (fun m =>
    let x := m.hearth h.toNat
    if !x.urgent || (m.die (hDie h.toNat)).run == .stopped then m
    else
      let m := x.stale.foldl (fun (m : Mod) e =>
        m.event 0x8106 (packLoc (qHearth e.queue) (qCore e.queue) (e.queue % 4)) (e.gen.toNat + 4 * e.tag.toNat)) m
      let m := m.setHearth h.toNat { m.hearth h.toNat with urgent := false, stale := [] }
      if m.cross.ovrHearth && x.stale.length = 4 then m.event 0x8207 m.cross.word 0 else m) s

/-- An event enters a FIFO of some depth, or is dropped and counted. -/
def crossIn (depth v : Nat) (l : List Nat) (ovr : Bool) (cnt : Nat) : List Nat × Bool × Nat :=
  if l.length < depth then (l ++ [v], ovr, cnt) else (l, true, satAdd 65535 cnt 1)

/-- R265, R266: an event enters the FIFO of a crossing into the Hub: 0 the power stage's, 1 the thermal sensors', 2 PPS_IN's.
`taken`: the Hub has emptied the FIFO since (log entry 62). -/
def execCrossingEvent (f : Fin 3) (v : BitVec 32) (taken : Bool) (s : State) : Host.Outcome State Fault Refusal :=
  lift (fun m =>
    let x := m.cross
    let held := fun (l : List Nat) => if taken then [] else l
    let y : CrossSt := match f.val with
      | 0 => let r := crossIn 64 v.toNat (held x.power) x.ovrPower x.cntPower
        { x with power := r.1, ovrPower := r.2.1, cntPower := r.2.2 }
      | 1 => let r := crossIn 16 v.toNat (held x.therm) x.ovrTherm x.cntTherm
        { x with therm := r.1, ovrTherm := r.2.1, cntTherm := r.2.2 }
      | _ => let r := crossIn 2 v.toNat (held x.pps) x.ovrPps x.cntPps
        { x with pps := r.1, ovrPps := r.2.1, cntPps := r.2.2 }
    let m := { m with cross := y }
    if y.cntPower + y.cntTherm + y.cntPps ≠ x.cntPower + x.cntTherm + x.cntPps then m.event 0x8207 y.word 0 else m) s

end Sys2Proof.Machine
end

