-- ==== Sys2Proof/Machine/CheckObj.lean ====
section
/-! DEFINITION. Checks of a cord as an object, of its modes, tick and dies: reason codes 0x0101 to 0x0205 (R200 to R205, R215, R220, R270, R571 to R575). -/

namespace Sys2Proof.Machine

/-- Bits [23:0] of the detail of a refusal that concerns no entry, hearth or queue of the kind its column names (R219). -/
def noEntry : Nat := 0xFFFFFF

/-- A refusal: reason code and detail (R219, R220). -/
abbrev Refuse := Option (Nat × Nat)

/-- The first of several checks that refuses (R218). -/
def firstOf (l : List Refuse) : Refuse := l.findSome? id

/-- Index of the first entry that breaks a rule; `bad` sees the index and the entry. -/
def badIdx (l : List Nat) (bad : Nat → Nat → Bool) : Option Nat := (indices l).find? fun i => bad i (nth 0 l i)

/-- Refusal that names the first entry that breaks a rule; `sub` is the detail's high byte. -/
def refuseAt (code sub : Nat) (l : List Nat) (bad : Nat → Nat → Bool) : Refuse :=
  (badIdx l bad).map fun i => (code, sub * 2 ^ 24 + i)

/-- Refusal whose detail an entry gives. -/
def refuseBy (code : Nat) (l : List Nat) (detail : Nat → Nat) (bad : Nat → Nat → Bool) : Refuse :=
  (badIdx l bad).map fun i => (code, detail (nth 0 l i))

/-- Refusal under a condition. -/
def refuseIf (bad : Bool) (code detail : Nat) : Refuse := if bad then some (code, detail) else none

/-- Another entry of the list has the same key. -/
def twin (l : List Nat) (key : Nat → Nat) (i e : Nat) : Bool :=
  (indices l).any fun j => j ≠ i && key (nth 0 l j) = key e

/-- Two runs of bytes share a byte. -/
def meet (a n b k : Nat) : Bool := decide (a < b + k ∧ b < a + n ∧ 0 < n ∧ 0 < k)

/-! ### 0x01: the object -/

/-- Sizes of the fixed-size entries, by section type 1 to 0x14 (R205). -/
def entSizes : List Nat := [16, 8, 16, 32, 16, 16, 16, 32, 32, 16, 32, 64, 64, 64, 16, 32, 32, 32, 16, 16]

/-- Section types that every cord holds (R205). -/
def needTypes : List Nat := [1, 2, 3, 4, 5, 8, 9, 0xC, 0xE, 0x11, 0x13]

/-- End of the signature block (R204). -/
def cSigEnd (c : List Byte) : Nat := 128 + 96 * cNsect c + 136

/-- A table entry breaks LD_TABLE: of a cord whose sections lie from `lo` up to `hi` (R203, R220). -/
def tableBad (lo hi : Nat) (es : List Nat) (i e : Nat) : Bool :=
  let ty := slice e 15 0
  let off := slice e 95 64
  let len := slice e 127 96
  decide (ty = 0 ∨ 20 < ty ∨ off % 64 ≠ 0 ∨ off < lo ∨ hi < off + len ∨ len < slice e 63 32 * nth 0 entSizes (ty - 1)) ||
    twin es (fun x => slice x 15 0) i e ||
    (indices es).any fun j => j ≠ i && meet off len (slice (nth 0 es j) 95 64) (slice (nth 0 es j) 127 96)

/-- A section's SHA-512 differs from the HASH of its entry (R203). -/
def hashBad (c : List Byte) (e : Nat) : Bool :=
  leNat (sha512 ((c.drop (slice e 95 64)).take (slice e 127 96))) ≠ slice e 639 128

/-- The case of R215 that a cord meets now, if any. -/
def Mod.loadCase (m : Mod) (c : List Byte) : Option Nat :=
  match m.pow.state, m.cord.inst with
  | .damped, none => if cPred c = 0 then some 1 else none
  | .running, some _ => if cPred c = cId m.img && cPred c ≠ 0 then some 2 else none
  | .damped, some _ => if cPred c = cId m.img && cPred c ≠ 0 then some 3 else none
  | _, _ => none

/-- The signature of a cord verifies under the bound owner key: over header and section table (R204, R495). -/
def Mod.cordSigned (m : Mod) (c : List Byte) : Bool :=
  let n := 128 + 96 * cNsect c
  ecdsaOk m.sec.owner (c.take n) ((c.drop n).take 132)

/-- Reason codes 0x0101 to 0x0108. -/
def Mod.checkObj (m : Mod) (c : List Byte) : Refuse :=
  let es := cEnts c
  firstOf [
    refuseIf (cHdr c 31 0 ≠ 0x44524F43 || cHdr c 47 32 ≠ 1) 0x101 0,
    refuseIf (cTotal c ≠ c.length || decide (268435456 < cTotal c ∨ cTotal c < cSigEnd c)) 0x102 0,
    refuseIf (decide (cNsect c = 0 ∨ 32 < cNsect c)) 0x103 noEntry,
    refuseAt 0x103 0 es (tableBad (cSigEnd c) (cTotal c) es),
    refuseIf (needTypes.any fun t => !cHas c t) 0x103 noEntry,
    refuseIf (m.sec.owner.isEmpty || cHdr c 831 320 ≠ leNat (m.sec.ownerId.take 64)) 0x104 0,
    refuseIf (!m.cordSigned c) 0x105 0,
    refuseAt 0x106 0 es (fun _ e => hashBad c e),
    refuseIf (cId c = 0 || (m.cord.inst.isSome && cId c = cId m.img)) 0x107 0,
    refuseIf (m.loadCase c).isNone 0x108 m.pow.state.num]

/-! ### 0x02: modes, tick, dies -/

/-- NMOD and SELF of a cord (R335). -/
def cShHdr (c : List Byte) : Nat := (cRecs c 0xC 64).headD 0
def cNmod (c : List Byte) : Nat := slice (cShHdr c) 31 16
def cSelf (c : List Byte) : Nat := slice (cShHdr c) 43 32

/-- Refusal of a pair of modes, the lower number first (R575). -/
def modePair (a b : Nat) (bad : Bool) : Refuse := refuseIf bad 0x202 (a + 2 ^ 8 * b)

/-- A die runs and DIES does not exclude it (R202, R571). -/
def Mod.dieUsed (m : Mod) (c : List Byte) (d : Nat) : Bool := m.dieRuns d && !(cDies c = 2 - d)

/-- The setting that static firing would take: the slower of the dies in use (R270, R576). -/
def Mod.staticK (m : Mod) (c : List Byte) : Nat :=
  if m.dieUsed c 0 && m.dieUsed c 1 then Nat.min m.dieN.k m.dieS.k
  else if m.dieUsed c 0 then m.dieN.k else m.dieS.k

/-- Reason codes 0x0201 to 0x0205 of a cord in staging slot n. -/
def Mod.checkModes (m : Mod) (c : List Byte) (n : Nat) : Refuse :=
  let many := !cSingle c || decide (1 < cNmod c)
  firstOf [
    refuseIf (cDies c = 3) 0x201 6,
    refuseIf (decide (2 ≤ cDigestAct c)) 0x201 8,
    modePair 1 2 (cStatic c && cCompact c),
    modePair 3 7 (m.tick.src = 0 && many),
    modePair 3 8 (m.sec.state = 2 && many),
    modePair 8 10 (m.sec.state = 2 && cPhase c ≠ 2),
    refuseIf (decide (cTickUs c < 50 ∨ 20000 < cTickUs c)) 0x203 224,
    refuseIf (cStepTicks c = 0) 0x203 288,
    refuseIf ((cPred c = 0) != (cHandover c = 0)) 0x203 304,
    refuseBy 0x204 (cRecs c 2 8) (fun e => slice e 12 0) (fun _ e => !m.dieUsed c (hDie (slice e 12 0))),
    refuseIf (!m.dieRuns n) 0x204 (0x1000000 + n),
    refuseIf (cStatic c && !staticFits c (m.staticK c) (cTickUs c)) 0x205 noEntry]

end Sys2Proof.Machine
end

