-- ==== Sys2Proof/Machine/CheckCode.lean ====
section
/-! DEFINITION. Checks of a cord's placement, programs, regions, windows, sequencer programs, schedule, bindings, spill, trees, slack, remote windows, shapes and accumulator spill: reason codes 0x0301 to 0x0503 (R206 to R214, R220, R223, R230, R233, R385, R390). -/

namespace Sys2Proof.Machine

/-! ### Entries -/

/-- PLACEMENT entry (R207): hearth, core, image; its key in order. -/
def plHearth (e : Nat) : Nat := slice e 12 0
def plCore (e : Nat) : Nat := slice e 22 16
def plImage (e : Nat) : Nat := slice e 47 32
def plKey (e : Nat) : Nat := cid (plHearth e) (plCore e)

/-- QUEUES entry (R210): its queue's number among all. -/
def quId (e : Nat) : Nat := qid (cid (slice e 16 4) (slice e 23 17)) (slice e 25 24)
def quIn (e : Nat) : Bool := slice e 3 0 = 1
def quOut (e : Nat) : Bool := slice e 3 0 = 2
/-- Detail that names a QUEUES entry's queue (R219). -/
def quLoc (e : Nat) : Nat := packLoc (slice e 16 4) (slice e 23 17) (slice e 25 24)

def cPlace (c : List Byte) : List Nat := cRecs c 2 8
def cQueues (c : List Byte) : List Nat := cRecs c 5 16
def cHbm (c : List Byte) : List Nat := cRecs c 0x11 32

/-- The cord places a core. -/
def cPlaces (c : List Byte) (h core : Nat) : Bool := (cPlace c).any fun e => plKey e = cid h core

/-- A queue number that a core of the cord has: a core not placed is parked and accepts no token, so it has none (R32, R172;
log entry 73). -/
def cHasIn (c : List Byte) (h core q : Nat) : Bool := cPlaces c h core && decide (q < inQueues core)
def cHasOut (c : List Byte) (h core q : Nat) : Bool := cPlaces c h core && decide (q < outQueues core)

/-- The QUEUES entry of an input queue, if any. -/
def cInq (c : List Byte) (q : Nat) : Option Nat := (cQueues c).find? fun e => quIn e && quId e = q

/-- A queue that QUEUES declares tick-staged. -/
def cStaged (c : List Byte) (q : Nat) : Bool := (cInq c q).any fun e => bitAt e 26

/-- REGIONS entries of a hearth (R208), with kind, base and length. -/
def rgKind (e : Nat) : Nat := slice e 19 16
def rgBase (e : Nat) : Nat := slice e 48 32
def rgLen (e : Nat) : Nat := slice e 81 64
def cRegs (c : List Byte) (h : Nat) : List Nat := (cRecs c 3 16).filter fun e => slice e 12 0 = h

/-- n bytes at a lie in one declared region of the hearth, of a kind that `p` accepts (R40). -/
def cHsIn (c : List Byte) (h a n : Nat) (p : Nat → Bool) : Bool :=
  (cRegs c h).any fun e => p (rgKind e) && decide (rgBase e ≤ a ∧ a + n ≤ rgBase e + rgLen e)

/-- Bytes of the hearth's region of a kind; 0 where it has none. -/
def cRegLen (c : List Byte) (h kind : Nat) : Nat := ((cRegs c h).find? fun e => rgKind e = kind).elim 0 rgLen

/-- n bytes at a lie in one HBMMAP region of a kind that `p` accepts. -/
def cHbmIn (c : List Byte) (a n : Nat) (p : Nat → Bool) : Bool :=
  (cHbm c).any fun e => slice e 3 0 = 1 && p (slice e 11 4) && decide (slice e 55 16 ≤ a ∧ a + n ≤ slice e 55 16 + slice e 103 64)

/-! ### The cores of a cord, as installation would leave them -/

/-- One hearth with its regions and one core's program, on a module that runs nothing else (R206, R207, R213). -/
def dryCore (c : List Byte) (rnd e : Nat) : Mod :=
  let h := plHearth e
  let m : Mod := { cord := { inst := some 0, slot0 := { st := .staged, bytes := c }, rnd := rnd } }
  ((cRecs c 3 16).foldl (fun (m : Mod) r => m.putRegion (· = h) r) m).putCore c (· = h) e

/-- Block counts of a placed core: input and output counts of each block. -/
def coreBlocks (c : List Byte) (e : Nat) : List (List Nat × List Nat) :=
  let m := dryCore c 0 e
  (indices (m.blocks (plHearth e) (plCore e))).map fun b => m.counts (plHearth e) (plCore e) b

/-! ### 0x0301, 0x0302: placement and programs -/

/-- The image that a placement names exists and is of the core's kind (R207). -/
def imageOk (c : List Byte) (e : Nat) : Bool :=
  if plCore e = 0 then (seqEnts c).any fun s => slice s 3 0 = 1 && slice s 15 4 = plImage e
  else decide (plImage e < cCount c 1) && (imageOf c (plImage e)).1 = (if plCore e < 5 then 2 else 1)

/-- PLACEMENT entry i is out of order, repeated, or names no image of its kind (R207). -/
def placeBad (c : List Byte) (es : List Nat) (i e : Nat) : Bool :=
  (decide (0 < i) && decide (plKey e < plKey (nth 0 es (i - 1)))) || twin es plKey i e || !imageOk c e

/-- An IMAGES index entry has a reserved KIND, WORDS out of range, or words past the section's end (R206). -/
def imageBad (len e : Nat) : Bool :=
  let k := slice e 3 0
  let w := slice e 25 16
  decide ((k ≠ 1 ∧ k ≠ 2) ∨ w = 0 ∨ (if k = 1 then 128 else 512) < w ∨ len < slice e 63 32 + 4 * w)

/-- Block structure of a program (R65, R68 BLK_ORDER): no BLK inside a block, no END outside one, every block closed.
`skip` passes over the second word of a vector BLK. -/
def nestOk (vc : Bool) : List Word → Nat → Bool → Bool
  | [], _, inside => !inside
  | _ :: t, k + 1, inside => nestOk vc t k inside
  | w :: t, 0, inside =>
    if opOf w = (if vc then 0x24 else 0x33) then !inside && nestOk vc t (if vc then 1 else 0) true
    else if opOf w = (if vc then 0x25 else 0x34) then inside && nestOk vc t 0 false
    else nestOk vc t 0 inside

/-- A placed core's program begins with BLK, keeps the block structure and the limits of R182. -/
def progOk (c : List Byte) (e : Nat) : Bool :=
  let k := plCore e
  let p := (imageOf c (plImage e)).2
  decide ((coreBlocks c e).length ≤ if k < 5 then 32 else 16) &&
    (k = 0 || (opOf (nth 0 p 0) = (if k < 5 then 0x24 else 0x33) && nestOk (decide (k < 5)) p 0 false))

/-! ### 0x0303: regions and DATA -/

/-- Region kinds of which a hearth has at most one (R208). -/
def soleKinds : List Nat := [5, 6, 7, 8, 9, 0xA]

/-- A REGIONS entry breaks R40, R50 or R208. -/
def regionBad (es : List Nat) (i e : Nat) : Bool :=
  let k := rgKind e
  let n := rgLen e
  decide (k = 0 ∨ 12 < k ∨ rgBase e % 64 ≠ 0 ∨ n = 0 ∨ n % 64 ≠ 0 ∨ 131072 < rgBase e + n ∨
    (k = 5 ∧ (n % 4096 ≠ 0 ∨ 65536 < n)) ∨ (k = 9 ∧ n ≠ 64) ∨ (k = 0xA ∧ n < 1280)) ||
    (indices es).any fun j =>
      let x := nth 0 es j
      j ≠ i && slice x 12 0 = slice e 12 0 && (meet (rgBase e) n (rgBase x) (rgLen x) || (soleKinds.contains k && rgKind x = k))

/-- A DATA entry has a destination outside one region other than SPILL, a length or alignment out of range, or source bytes
past the section's end (R214). -/
def dataBad (c : List Byte) (e : Nat) : Bool :=
  let n := slice e 95 64
  decide (slice e 33 17 % 64 ≠ 0 ∨ n = 0 ∨ n % 64 ≠ 0 ∨ (cSect c 0x14).length < slice e 127 96 + n) ||
    !cHsIn c (slice e 16 4) (slice e 33 17) n (· ≠ 5)

/-- SCHEDULE static entry: its core's key; static entries only count in static firing (R183, R384). -/
def stKey (e : Nat) : Nat := cid (slice e 16 4) (slice e 23 17)
def cStatics (c : List Byte) : List Nat := if cStatic c then (cSched c).filter fun e => slice e 3 0 = 6 else []

def checkRegions (c : List Byte) : Refuse :=
  let es := cRecs c 3 16
  let h := fun e => slice e 12 0
  firstOf [
    refuseBy 0x303 es h (regionBad es),
    refuseBy 0x303 (cPlace c) plHearth (fun _ e => plCore e = 0 && cRegLen c (plHearth e) 1 = 0),
    refuseBy 0x303 (cStatics c) (fun e => slice e 16 4) (fun _ e => cRegLen c (slice e 16 4) 6 = 0),
    refuseBy 0x303 (cRecs c 0x14 16) (fun e => if slice e 3 0 = 1 then slice e 16 4 else noEntry)
      (fun _ e => slice e 3 0 ≠ 1 || dataBad c e)]

/-! ### 0x0304: windows -/

/-- The segment entry that a window with ENGINE 3 reaches: its BASE is the segment's directory record (R308). -/
def winSeg (c : List Byte) (base : Nat) : Option Nat :=
  let es := cRecs c 0x12 32
  let st := slice (nth 0 (cHbm c) (slice (es.headD 0) 79 64)) 55 16
  es.find? fun e => slice e 3 0 = 2 && base = st + 64 * slice e 11 4

/-- A WINDOWS entry breaks R69, R209, R220 or R308. -/
def windowBad (c : List Byte) (es : List Nat) (i e : Nat) : Bool :=
  let d := e / 2 ^ 128
  let eng := slice d 1 0
  let sz := slice d 4 2
  let base := slice d 55 16
  let n := slice d 95 64 * 2 ^ sz
  twin es (fun x => packLoc (slice x 12 0) 0 (slice x 19 16)) i e || decide (sz = 7) || (bitAt d 7 && decide (2 ≤ eng ∨ sz < 2)) ||
    match eng with
    | 0 => decide (0 < n) && !cHsIn c (slice e 12 0) base n (fun _ => true)
    | 1 => decide (131072 < base + n) && decide (0 < n)
    | 2 => decide (0 < n) && !cHbmIn c base n (fun _ => true)
    | _ =>
      match winSeg c base with
      | none => decide (0 < n)
      | some s => decide (16384 * slice s 127 96 < n) || (bitAt d 6 && !bitAt s 16)

/-! ### 0x0305: sequencer programs -/

/-- A SEQUENCER entry has a reserved ETYPE, repeats a program's number, or its descriptors are too many or pass the
section's end (R213). -/
def seqBad (c : List Byte) (es : List Nat) (i e : Nat) : Bool :=
  match slice e 3 0 with
  | 1 =>
    let n := slice e 24 16
    ((indices es).any fun j => j ≠ i && slice (nth 0 es j) 15 0 = slice e 15 0) ||
      decide (n = 0 ∨ 256 < n ∨ slice e 63 32 % 16 ≠ 0 ∨ (cSect c 7).length < slice e 63 32 + 16 * n)
  | 2 => false
  | _ => true

/-- Programs that some MC runs. -/
def mcPlaces (c : List Byte) : List Nat := (cPlace c).filter fun e => plCore e = 0

/-- Blocks of an MC's program. -/
def mcBlockCount (c : List Byte) (e : Nat) : Nat := (coreBlocks c e).length

/-- Tile-set entries of a block (R213). -/
def tsetsOf (c : List Byte) (prog b : Nat) : List Nat :=
  (indices (seqEnts c)).filter fun i =>
    let e := nth 0 (seqEnts c) i
    slice e 3 0 = 2 && slice e 15 4 = prog && slice e 20 16 = b

/-- The lowest tile-set entry of a block that has two, and whether a block has none. -/
def tsetTwo (c : List Byte) : Option Nat :=
  ((mcPlaces c).flatMap fun e => (List.range (mcBlockCount c e)).flatMap fun b =>
    let l := tsetsOf c (plImage e) b
    if 1 < l.length then [l.headD 0] else []).min?

def tsetNone (c : List Byte) : Bool :=
  (mcPlaces c).any fun e => (List.range (mcBlockCount c e)).any fun b => (tsetsOf c (plImage e) b).isEmpty

/-- What a descriptor leaves for the checks after it: the registers of TILE and its slots, a half's latched ROWS, RB and
scales, the init bits an MMA clears, the room a SIGNAL uses, a LOOP's count (R131). -/
def dryEff (e : MEnv) : Mod :=
  let half := fun (u : Nat) =>
    let l := loadF u e.d e.o
    let mc := e.mc.setHalf (u = 1) l.half { rows := l.rows, rb := l.rb, scales := if l.scl then some [] else none }
    (e.m.setMc e.c mc).mcNext e.h e.d
  match dOp e.d with
  | 1 => tileEff e
  | 2 => mcLoopEff e
  | 3 => half 0
  | 4 => half 1
  | 5 =>
    let l := mmaF e.d e.o
    (e.m.setMc e.c (if l.kv = 0 then e.mc else (mmaInit e.mc l).1)).mcNext e.h e.d
  | 7 =>
    let q := qid e.c (e.f 9 8)
    (e.m.setOutq q { e.m.outq q with room := (e.m.outq q).room - 1 }).mcNext e.h e.d
  | _ => e.m.mcNext e.h e.d

/-- The check of R130 that the descriptor at hand fails, or the module after it. -/
def dryIssue (h : Nat) (m : Mod) : Option Nat × Mod :=
  let x := m.hearth h
  let pc := (m.ctl (cid h 0)).pc
  let d := x.desc pc
  let mc := m.mc (cid h 0)
  let e : MEnv := { m := m, h := h, d := d, mc := mc, o := offsets x mc pc, stall := m }
  let cause := match dOp d with
    | 1 => tileCause e
    | 2 => mcLoopCause e
    | 3 => loadCause 0 e
    | 4 => loadCause 1 e
    | 5 => mmaCause e
    | 6 => drainCause e
    | 7 => signalCause e
    | _ => some 1
  match mcCheck cause (dOp d) e with
  | some k => (some k, m)
  | none => (none, dryEff e)

/-- Descriptors issue until the block ends or one fails; `fuel` is above any program's count of issues. -/
def dryBlock (h : Nat) : Nat → Mod → Option Nat × Mod
  | 0, m => (none, m)
  | fuel + 1, m =>
    match (m.ctl (cid h 0)).phase with
    | .ending _ => (none, m)
    | _ =>
      match dryIssue h m with
      | (some k, m) => (some k, m)
      | (none, m) => dryBlock h fuel m

/-- A block started with its declared counts (R117, R178). -/
def dryStart (h b : Nat) (m : Mod) : Mod :=
  let c := cid h 0
  let k := m.counts h 0 b
  let m := (List.range k.2.length).foldl (fun (m : Mod) q => m.setOutq (qid c q) { m.outq (qid c q) with room := nth 0 k.2 q }) m
  m.setCtl c { m.ctl c with phase := .started b, pc := (nth (0, 0) (m.blocks h 0) b).1, inCnt := k.1, outCnt := k.2 }

/-- The first failed check of R130 of an MC's program: its blocks in program order, twice (R131). -/
def dryWalk (h : Nat) : List Nat → Mod → Option Nat
  | [], _ => none
  | b :: t, m =>
    match dryBlock h (2 ^ 80) (dryStart h b m) with
    | (some k, _) => some k
    | (none, m) => dryWalk h t m

/-- The MC fault code that the loader finds in a placed MC's program (R131). -/
def mcFault (c : List Byte) (rnd e : Nat) : Option Nat :=
  let bs := List.range (mcBlockCount c e)
  dryWalk (plHearth e) (bs ++ bs) (dryCore c rnd e)

/-- LD_SEQ: the SEQUENCER entries in their order (R218), then a block without its entry, then the programs as placed. -/
def checkSeq (c : List Byte) (rnd : Nat) : Refuse :=
  let es := seqEnts c
  firstOf ([
    (([badIdx es (seqBad c es), tsetTwo c].filterMap id).min?).map (fun i => (0x305, 0x10000000 + i)),
    refuseIf (tsetNone c) 0x305 (0x10000000 + noEntry)] ++
    (mcPlaces c).map fun e =>
      if cRegLen c (plHearth e) 1 < 16 * (seqProg c (plImage e)).1 then some (0x305, plHearth e)
      else (mcFault c rnd e).map fun k => (0x305, 2 ^ 24 * k + plHearth e))

/-! ### 0x0401 to 0x0405: bindings, spill, trees, slack, contexts -/

/-- REMOTE entry (R390): its local queue. -/
def rmId (e : Nat) : Nat := qid (cid (slice e 45 33) (slice e 52 46)) (slice e 54 53)
def rmLoc (e : Nat) : Nat := packLoc (slice e 45 33) (slice e 52 46) (slice e 54 53)
def cRemote (c : List Byte) : List Nat := cRecs c 0x10 32

/-- A QUEUES entry is out of order, repeated, names a queue that does not exist, or binds to nothing (R172, R210). -/
def queueBad (c : List Byte) (es : List Nat) (i e : Nat) : Bool :=
  let key := fun x => slice x 3 0 * 2 ^ 32 + quId x
  let own := if quIn e then cHasIn c else cHasOut c
  (!quIn e && !quOut e) || (decide (0 < i) && decide (key e < key (nth 0 es (i - 1)))) || twin es key i e ||
    !own (slice e 16 4) (slice e 23 17) (slice e 25 24) ||
    (quOut e && match slice e 27 26 with
      | 1 => !cHasIn c (slice e 44 32) (slice e 51 45) (slice e 53 52)
      | 2 => !(cRecs c 6 16).any fun t => slice t 3 0 = 1 && slice t 15 4 = slice e 79 64
      | 3 => !(cRemote c).any fun r => slice r 3 0 = 1 && !bitAt r 4 && slice r 20 5 = slice e 79 64 && rmId r = quId e
      | _ => false)

/-- An output of a placed core that the cord binds to nothing. -/
def unbound (c : List Byte) (q : Nat) : Bool := !(cQueues c).any fun e => quOut e && quId e = q && slice e 27 26 ≠ 0

/-- The first unbound output of a placed core with a count other than 0 in some block (R172). -/
def unboundCount (c : List Byte) (e : Nat) : Option Nat :=
  let bs := coreBlocks c e
  (List.range (outQueues (plCore e))).find? fun q => unbound c (qid (plKey e) q) && bs.any fun k => nth 0 k.2 q ≠ 0

/-- A REMOTE entry repeats, is not bound to its queue, is inbound to a queue that is not tick-staged, or its ring leaves its
region (R390). -/
def remoteBad (c : List Byte) (es : List Nat) (i e : Nat) : Bool :=
  let n := slice e 76 64
  decide (slice e 3 0 ≠ 1 ∨ n < 16 ∨ 4096 < n) || twin es (fun x => slice x 20 4) i e ||
    (if bitAt e 4 then
      !cStaged c (rmId e) || slice e 119 80 % 64 ≠ 0 || !cHbmIn c (slice e 119 80) (72 * n) (· = 0xD)
    else !(cQueues c).any fun x => quOut x && quId x = rmId e && slice x 27 26 = 3 && slice x 79 64 = slice e 20 5)

def checkBind (c : List Byte) : Refuse :=
  let es := cQueues c
  firstOf ([refuseBy 0x401 es quLoc (queueBad c es)] ++
    ((cPlace c).map fun e => (unboundCount c e).map fun q => (0x401, packLoc (plHearth e) (plCore e) q)) ++
    [refuseBy 0x401 (cRemote c) rmLoc (remoteBad c (cRemote c))])

/-- Depths a hearth's queues declare, in bytes of spill area (R50). -/
def spillNeed (c : List Byte) (h : Nat) : Nat :=
  (((cQueues c).filter fun e => quIn e && slice e 16 4 = h).map fun e => 68 * slice e 40 32).sum

def checkSpill (c : List Byte) : Refuse :=
  let es := (cQueues c).filter quIn
  let h := fun e => slice e 16 4
  refuseBy 0x402 es h fun _ e =>
    decide (256 < slice e 40 32 ∨ (0 < slice e 40 32 ∧ cRegLen c (h e) 5 < spillNeed c (h e)))

/-- Tree number of a TREES entry. -/
def trNo (e : Nat) : Nat := slice e 15 4

/-- Outputs that the cord binds to a tree. -/
def treeSrc (c : List Byte) (t : Nat) : List Nat :=
  (cQueues c).filter fun e => quOut e && slice e 27 26 = 2 && slice e 79 64 = t

/-- Trees that divide at each router of a tree (R187). -/
def treeRouters (c : List Byte) (t : Nat) : List Nat :=
  match treeSrc c t with
  | s :: _ => (splitNodes (slice s 16 4) (treeTargets (cRecs c 6 16) t)).map fun n => n.router
  | [] => []

/-- A TREES entry breaks R187 or R211: a header by its tree, a target by its place after its header. -/
def treeBad (c : List Byte) (es : List Nat) (i e : Nat) : Bool :=
  let heads := es.filter fun x => slice x 3 0 = 1
  match slice e 3 0 with
  | 1 =>
    let t := trNo e
    let ts := es.filter fun x => slice x 3 0 = 2 && trNo x = t
    let n := slice e 22 16
    twin heads trNo (heads.findIdx (· = e)) e || (treeSrc c t).length ≠ 1 || ts.length ≠ n || decide (n < 2 ∨ 64 < n) ||
      (indices ts).any (fun j =>
        let x := nth 0 ts j
        twin ts (fun y => slice y 37 16) j x || !cHasIn c (slice x 28 16) (slice x 35 29) (slice x 37 36)) ||
      (treeRouters c t).any fun r => decide (4 < (heads.filter fun y => (treeRouters c (trNo y)).contains r).length)
  | 2 => i = 0 || trNo (nth 0 es (i - 1)) ≠ trNo e
  | _ => true

/-- A SLACK entry has a reserved ETYPE, a queue that QUEUES does not name, or a slack above its depth (R191, R212). -/
def slackBad (c : List Byte) (e : Nat) : Bool :=
  slice e 3 0 ≠ 1 || match cInq c (quId e) with
    | none => true
    | some x => decide (16 + slice x 40 32 < slice e 34 26)

/-- Ranks that SELF's groups join it with (R358). -/
def groupPeers (c : List Byte) : List Nat :=
  let mem := (cRecs c 0xB 32).filter fun e => slice e 3 0 = 3
  let mine := (mem.filter fun e => slice e 39 28 = cSelf c).map fun e => slice e 15 4
  (((mem.filter fun e => mine.contains (slice e 15 4)).map fun e => slice e 39 28).filter (· ≠ cSelf c)).eraseDups

/-- Partition numbers of the FALLBACK section (R399). -/
def cParts (c : List Byte) : List Nat := ((cRecs c 0xD 64).filter fun e => slice e 3 0 = 5).map fun e => slice e 13 4

/-- Contexts of the cord pool that the cord and its partitions need: a queue pair to each exchange peer, one to each remote
window (R390, R448). -/
def poolNeed (c : List Byte) : Nat :=
  let all := c :: (cParts c).map (cPatch c)
  ((all.flatMap groupPeers).eraseDups).length +
    ((all.flatMap fun x => (cRemote x).map fun e => slice e 32 4).eraseDups).length

/-! ### 0x0306: the schedule (R183, R384, R385) -/

/-- Kind of entry: 1 header, 2 stage, 3 slot, 4 update, 5 gather, 6 static; entries stand in this order, the header once. -/
def ordered (top : Nat) (es : List Nat) (i e : Nat) : Bool :=
  let t := slice e 3 0
  decide (1 ≤ t ∧ t ≤ top) && (decide (t = 1) == decide (i = 0)) &&
    (i = 0 || decide (slice (nth 0 es (i - 1)) 3 0 ≤ t))

def headerBad (c : List Byte) (e : Nat) : Bool :=
  let two := fun n => decide (n ≠ 1 ∧ n ≠ 2)
  two (slice e 9 8) || two (slice e 11 10) || decide (slice e 15 12 = 0 ∨ slice e 31 16 = 0 ∨
    cTickUs c < slice e 31 16 * (slice e 7 4 + 1) ∨ slice e 57 32 = 0 ∨ slice e 79 72 = 0 ∨ slice e 95 80 = 0)

/-- Stage rectangles share a hearth. -/
def rectsMeet (a b : Nat) : Bool :=
  decide (slice a 12 12 = slice b 12 12 ∧ slice a 18 13 ≤ slice b 24 19 ∧ slice b 18 13 ≤ slice a 24 19 ∧
    slice a 30 25 ≤ slice b 36 31 ∧ slice b 30 25 ≤ slice a 36 31)

def stageBad (c : List Byte) (es : List Nat) (e : Nat) : Bool :=
  decide (cNstage c ≤ slice e 11 4 ∨ slice e 24 19 < slice e 18 13 ∨ slice e 36 31 < slice e 30 25 ∨
    cDies c = 2 - slice e 12 12) ||
    es.any fun x => slice x 3 0 = 2 && slice x 11 4 ≠ slice e 11 4 && rectsMeet x e

def slKind (e : Nat) : Nat := slice e 30 28

/-- Ticks of the slots of a kind for a stage and microbatch. -/
def slTicks (es : List Nat) (kind stage mb : Nat) : List Nat :=
  (es.filter fun e => slice e 3 0 = 3 && slKind e = kind && slice e 27 20 = stage && slice e 47 32 = mb).map fun e => slice e 19 4

/-- Every tick of the first list lies below every tick of the second. -/
def allBefore (a b : List Nat) : Bool := a.all fun x => b.all fun y => decide (x < y)

def slotBad (c : List Byte) (es : List Nat) (i e : Nat) : Bool :=
  let k := slKind e
  let st := slice e 27 20
  let mb := slice e 47 32
  let t := [slice e 19 4]
  let same := fun j =>
    let x := nth 0 es j
    j ≠ i && slice x 3 0 = 3 && slice x 27 4 = slice e 27 4 && (decide (slKind x = 4) == decide (k = 4))
  decide (k = 0 ∨ 4 < k ∨ cStepTicks c ≤ slice e 19 4 ∨ cNstage c ≤ st ∨ (k ≠ 4 ∧ cMbatch c ≤ mb)) || (indices es).any same ||
    (k ≠ 4 && (slTicks es k st mb).length ≠ 1) ||
    (k = 1 && !(allBefore t (slTicks es 2 st mb) && allBefore t (slTicks es 1 (st + 1) mb))) ||
    (k = 2 && (!allBefore t (slTicks es 3 st mb) || (decide (0 < st) && !allBefore t (slTicks es 2 (st - 1) mb))))

/-- Flat elements of a tensor entry, rounded up to 32 (R336). -/
def tnElems (e : Nat) : Nat :=
  32 * ceilDiv (((List.range (slice e 33 32 + 1)).map fun i => slice e (95 + 32 * i) (64 + 32 * i)).foldl (· * ·) 1) 32

/-- SHARDS tensor entries of a cord. -/
def cTensors (c : List Byte) : List Nat := (cRecs c 0xC 64).filter fun e => slice e 3 0 = 4
def tnId (e : Nat) : Nat := slice e 31 16

/-- Bytes of a working copy of n elements: 2 B each in BF16 and FP16; in FP8, 1 B and a scale for each 32 (R333). -/
def workBytes (wfmt n : Nat) : Nat := if wfmt = 1 || wfmt = 2 then 2 * n else n + n / 32

/-- Bytes of the whole copy that a gather writes. -/
def gatherLen (c : List Byte) (e : Nat) : Nat :=
  ((cTensors c).find? fun t => tnId t = slice e 35 20).elim 0 fun t => workBytes (slice t 37 34) (tnElems t)

def gatherBad (c : List Byte) (es : List Nat) (i e : Nat) : Bool :=
  let dst := slice e 103 64
  let n := gatherLen c e
  decide (cStepTicks c ≤ slice e 19 4 ∨ slice e 19 4 ≤ slice ((cRecs c 0xE 64).headD 0) 367 352 ∨ dst % 64 ≠ 0) ||
    !cHbmIn c dst n (· = 5) || !cStaged c (qid (cid (slice e 116 104) (slice e 123 117)) (slice e 125 124)) ||
    (indices es).any fun j =>
      let x := nth 0 es j
      j ≠ i && slice x 3 0 = 5 && (bitAt e 48 || bitAt x 48) && meet dst n (slice x 103 64) (gatherLen c x)

/-- The 32-bit schedule entries of a static entry. -/
def staticWords (c : List Byte) (e : Nat) : List Nat :=
  entriesOf 4 (slice e 49 41) ((cSect c 8).drop (slice e 95 64))

/-- Offsets rise strictly and lie below the tick's end. -/
def rising (top : Nat) : List Nat → Bool
  | [] => true
  | [a] => decide (a < top)
  | a :: b :: t => decide (a < b) && rising top (b :: t)

/-- NENT of a static entry is in its range (R384, R385). -/
def nentBad (e : Nat) : Bool := decide (slice e 49 41 = 0 ∨ 256 < slice e 49 41)

def staticBad (c : List Byte) (es : List Nat) (i e : Nat) : Bool :=
  let n := slice e 49 41
  let ws := staticWords c e
  let blocks := ((cPlace c).find? fun p => plKey p = stKey e).elim 0 fun p => (coreBlocks c p).length
  decide ((cSect c 8).length < slice e 95 64 + 4 * n) || !rising (cTend c) (ws.map fun w => slice w 25 0) ||
    ws.any (fun w => decide (blocks ≤ slice w 30 26)) || !cHsIn c (slice e 16 4) (slice e 40 24) (4 * n) (· = 6) ||
    (indices es).any fun j => j ≠ i && slice (nth 0 es j) 3 0 = 6 && stKey (nth 0 es j) = stKey e

/-- Hearth and core that an entry of SCHEDULE names, for the detail (R385). -/
def scLoc (e : Nat) : Nat :=
  match slice e 3 0 with
  | 5 => packLoc (slice e 116 104) (slice e 123 117) 0
  | 6 => packLoc (slice e 16 4) (slice e 23 17) 0
  | _ => noEntry

def schedBad (c : List Byte) (es : List Nat) (i e : Nat) : Bool :=
  !ordered 6 es i e || match slice e 3 0 with
    | 1 => headerBad c e
    | 2 => stageBad c es e
    | 3 => slotBad c es i e
    | 4 => decide (cStepTicks c ≤ slice e 19 4) ||
      (indices es).any fun j => j ≠ i && slice (nth 0 es j) 3 0 = 4 && slice (nth 0 es j) 35 20 = slice e 35 20
    | 5 => gatherBad c es i e
    | _ => nentBad e || (cStatic c && staticBad c es i e)

/-- A slot that a stage lacks, or the last stage's input gradient not after its forward, or a tensor without an update
entry, or no header (R385). -/
def schedLacks (c : List Byte) : Bool :=
  let es := cSched c
  es.isEmpty ||
    ((List.range (cNstage c)).any fun st => (List.range (cMbatch c)).any fun mb =>
      [1, 2, 3].any fun k => (slTicks es k st mb).isEmpty) ||
    (cTensors c).any fun t => !es.any fun e => slice e 3 0 = 4 && slice e 35 20 = tnId t

def checkSched (c : List Byte) : Refuse :=
  let es := cSched c
  firstOf [refuseBy 0x306 es scLoc (schedBad c es), refuseIf (schedLacks c) 0x306 noEntry]

/-! ### 0x05: shapes and accumulator spill -/

/-- A SHAPES entry breaks R223. -/
def shapeBad (es : List Nat) (i e : Nat) : Bool :=
  let dim := fun k => slice e (95 + 32 * k) (64 + 32 * k)
  let r := slice e 17 16 + 1
  slice e 15 0 = 0 || twin es (fun x => slice x 15 0) i e ||
    (List.range 4).any fun k => if k < r then dim k = 0 else dim k ≠ 0

/-- Pairs of tile set and slot that a placed MC's blocks can name (R230, R233). -/
def accPairs (c : List Byte) (e : Nat) : List (Nat × Nat) :=
  let m := dryCore c 0 e
  let h := plHearth e
  let mc := m.mc (cid h 0)
  ((indices (m.blocks h 0)).flatMap fun b =>
    let d := (m.hearth h).desc (nth (0, 0) (m.blocks h 0) b).1
    if dOp d = 1 then (slotsOf (slice d 18 11)).map fun t => (mc.tset b, t) else []).eraseDups

/-- Exact mode: two tile sets of one MC name one slot (R230). -/
def accShared (c : List Byte) (e : Nat) : Bool :=
  let l := accPairs c e
  l.any fun p => l.any fun r => p.2 = r.2 && p.1 ≠ r.1

/-- Compact mode: more than 64 pairs, or the ACC spill region too small for them (R233). -/
def accSpills (c : List Byte) (e : Nat) : Bool :=
  let n := (accPairs c e).length
  decide (64 < n ∨ cRegLen c (plHearth e) 8 < 4096 * n)

/-- Reason codes 0x0301 to 0x0503. -/
def checkCode (c : List Byte) (rnd : Nat) : Refuse :=
  let pl := cPlace c
  let wn := cRecs c 4 32
  let tr := cRecs c 6 16
  let sh := cRecs c 9 32
  firstOf [
    refuseAt 0x301 0 pl (placeBad c pl),
    refuseAt 0x302 1 (cRecs c 1 16) (fun _ e => imageBad (cSect c 1).length e),
    refuseBy 0x302 pl (fun e => packLoc (plHearth e) (plCore e) 0) (fun _ e => !progOk c e),
    checkRegions c,
    refuseBy 0x304 wn (fun e => packLoc (slice e 12 0) 0 (slice e 19 16)) (windowBad c wn),
    checkSeq c rnd,
    checkSched c,
    checkBind c,
    checkSpill c,
    refuseAt 0x403 0 tr (treeBad c tr),
    refuseAt 0x404 0 (cRecs c 0xA 16) (fun _ e => slackBad c e),
    refuseIf (decide (63488 < poolNeed c)) 0x405 0,
    refuseAt 0x501 0 sh (shapeBad sh),
    refuseBy 0x502 (mcPlaces c) plHearth (fun _ e => !cCompact c && accShared c e),
    refuseBy 0x503 (mcPlaces c) plHearth (fun _ e => cCompact c && accSpills c e)]

end Sys2Proof.Machine
end

