-- ==== Sys2Proof/Machine/CheckStore.lean ====
section
/-! DEFINITION. Checks of a cord's HBM map and moves, its peat tier and its host-visible regions: reason codes 0x0601 to 0x0603 (R280 to R293, R306 to R309, R451). -/

namespace Sys2Proof.Machine

/-! ### 0x0601: HBMMAP -/

/-- Region fields (R280). -/
def hbBase (e : Nat) : Nat := slice e 55 16
def hbLen (e : Nat) : Nat := slice e 103 64
def hbKind (e : Nat) : Nat := slice e 11 4

/-- Logical sets that a run of bytes touches (R277); the set map joins each to a physical set. -/
def setsOf (a n : Nat) : List Nat := (List.range 32).filter fun s => meet a n (24000000000 * s) 24000000000

/-- A region breaks R280 to R282: kind, alignment, a reserved area or the end, overlap, a retired set, a die not in use. -/
def hbRegionBad (m : Mod) (c : List Byte) (es : List Nat) (i e : Nat) : Bool :=
  let b := hbBase e
  let n := hbLen e
  decide (hbKind e = 0 ∨ 13 < hbKind e ∨ b % 256 ≠ 0 ∨ n = 0 ∨ n % 256 ≠ 0 ∨ 768000000000 < b + n) ||
    meet b n 383000000000 1000000000 || meet b n 767000000000 1000000000 ||
    (indices es).any (fun j => j ≠ i && slice (nth 0 es j) 3 0 = 1 && meet b n (hbBase (nth 0 es j)) (hbLen (nth 0 es j))) ||
    (setsOf b n).any fun s =>
      let p := nth 0 m.hbm.setMap s
      m.hbm.retired.contains p || !m.dieUsed c (p / 16)

/-- A move breaks R287, R288 or R293. -/
def moveBad (c : List Byte) (e : Nat) : Bool :=
  let op := mvOp e
  let rb := mvRb e
  let w := mvW e
  let rows := mvRows e
  let pitchBad := fun (p least top : Nat) => decide (p ≠ 0 ∧ (p % 64 ≠ 0 ∨ p < least ∨ top < p))
  decide (op = 0 ∨ 5 < op ∨ mvHs e % 64 ≠ 0 ∨ mvHbm e % 64 ≠ 0 ∨ rb % 64 ≠ 0 ∨ rb < 64 ∨ 4096 < rb ∨
      (w = 1 ∧ rows % 64 ≠ 0) ∨ (w = 2 ∧ rows % 32 ≠ 0) ∨ cStepTicks c ≤ mvTick e) ||
    pitchBad (slice e 172 160) (mvHsRow e) 4096 || pitchBad (slice e 207 176) rb (2 ^ 32) ||
    !cPlaces c (mvHearth e) (slice e 21 15) || !cStaged c (mvQueue e) ||
    !cHsIn c (mvHearth e) (mvHs e) ((mvHsRows e - 1) * mvHsPitch e + mvHsRow e) (· ≠ 5) ||
    !cHbmIn c (mvHbm e) ((rows - 1) * mvHbmPitch e + rb) (fun k => op ≠ 5 || k = 7)

def hbmBad (m : Mod) (c : List Byte) (es : List Nat) (i e : Nat) : Bool :=
  match slice e 3 0 with
  | 1 => hbRegionBad m c es i e
  | 2 => moveBad c e
  | _ => true

/-! ### 0x0602: the peat tier -/

/-- A segment entry breaks R307. -/
def segBad (c : List Byte) (es : List Nat) (dies i e : Nat) : Bool :=
  let per := 16384 / (32 * 2 ^ slice e 15 12)
  let n := slice e 127 96
  let f := slice e 94 64
  decide (slice e 3 0 ≠ 2 ∨ 9 < slice e 15 12) || twin (es.drop 1) (fun x => slice x 11 4) (i - 1) e ||
    decide (n < ceilDiv (slice e 191 128) per ∨ 16777216 < n ∨ usable dies < f + n) ||
    (bitAt e 17 && (!bitAt e 16 || cSingle c)) ||
    (indices es).any fun j => 0 < j && j ≠ i && meet f n (slice (nth 0 es j) 94 64) (slice (nth 0 es j) 127 96)

/-- The staging entry or its region breaks R306 or R309. -/
def stagingBad (c : List Byte) (es : List Nat) : Bool :=
  let e := es.headD 0
  let l := slice e 31 16
  let r := nth 0 (cHbm c) (slice e 79 64)
  let turves := ((es.drop 1).map fun x => slice x 127 96).sum
  let off := 16384 + 32 * l + 16384 * ceilDiv (8 * turves) 16384
  slice e 3 0 ≠ 1 || decide (l % 8 ≠ 0 ∨ l < 64 ∨ 65528 < l) || slice r 3 0 ≠ 1 || hbKind r ≠ 0xA ||
    decide (hbLen r < off + 16384 * (2 * l + 2 * slice e 63 32))

def peatBad (m : Mod) (c : List Byte) : Bool :=
  let es := cRecs c 0x12 32
  (cPeat c && (m.peat.state != .on || !cHas c 0x12)) ||
    (cHas c 0x12 && (stagingBad c es || (indices es).any fun i => 0 < i && segBad c es m.retiredDies i (nth 0 es i)))

/-! ### 0x0603: HOSTVIS -/

/-- A HOSTVIS entry breaks R451. -/
def hostvisBad (c : List Byte) (e : Nat) : Bool :=
  match slice e 3 0 with
  | 1 =>
    let r := nth 0 (cHbm c) (slice e 19 4)
    slice r 3 0 ≠ 1 || (hbKind r ≠ 0xC && hbKind r ≠ 0xB) || (hbKind r = 0xB && (bitAt e 20 || bitAt e 22))
  | 2 => !cPlaces c (slice e 16 4) (slice e 23 17) || !cStaged c (quId e)
  | _ => true

/-- Reason codes 0x0601 to 0x0603. -/
def Mod.checkStore (m : Mod) (c : List Byte) : Refuse :=
  let es := cHbm c
  firstOf [
    refuseAt 0x601 0 es (hbmBad m c es),
    refuseIf (peatBad m c) 0x602 0,
    refuseAt 0x603 0 (cRecs c 0xF 16) (fun _ e => hostvisBad c e)]

end Sys2Proof.Machine
end

