-- ==== Sys2Proof/Machine/CheckTrain.lean ====
section
/-! DEFINITION. Checks of a cord's training sections, reason code 0x0604 with the section type as sub-code (R326, R335, R336, R340, R355, R358, R359, R398 to R401). -/

namespace Sys2Proof.Machine

/-- Runs (first, count) tile 0 up to `total` exactly once. -/
def tiles (runs : List (Nat × Nat)) (total : Nat) : Bool :=
  (runs.map Prod.snd).sum = total && runs.all (fun r => decide (r.1 + r.2 ≤ total)) &&
    (indices runs).all fun i => (List.range i).all fun j =>
      !meet (nth (0, 0) runs i).1 (nth (0, 0) runs i).2 (nth (0, 0) runs j).1 (nth (0, 0) runs j).2

/-- A run lies wholly in runs that do not overlap. -/
def coveredBy (runs : List (Nat × Nat)) (a n : Nat) : Bool :=
  decide (n ≤ (runs.map fun r => Nat.min (a + n) (r.1 + r.2) - Nat.max a r.1).sum)

/-- Entries of a kind. -/
def ofType (t : Nat) (es : List Nat) : List Nat := es.filter fun e => slice e 3 0 = t

/-! ### 0x0C: SHARDS -/

def cShards (c : List Byte) : List Nat := cRecs c 0xC 64
def cEmb (c : List Byte) (n : Nat) : Nat := if bitAt (cShHdr c) 44 then 2 * n else 4 * n
def cDelta (c : List Byte) : Nat := slice (cShHdr c) 103 64

/-- Byte runs of a shard entry with the region kind of each: masters, moments, ember copy, stage, working copy (R329, R332,
R333, R335). -/
def shRuns (c : List Byte) (e : Nat) : List (Nat × Nat × Nat) :=
  let n := shCount e
  let wf := ((cTensors c).find? fun t => tnId t = shTensor e).elim 1 fun t => slice t 37 34
  [(shMaster e, 4 * n, 1), (shMom e, momBytes n, 3), (shEmb e, cEmb c n, 4), (shStage e, momBytes n + cEmb c n, 0xD),
    (shWork e, workBytes wf n, 5)]

/-- Every run of a shard that this module owns lies in a region of its kind, aligned, and meets no run of the others. -/
def shPlaced (c : List Byte) (es : List Nat) (i e : Nat) : Bool :=
  let runs := shRuns c e
  let flat := fun (l : List (Nat × Nat × Nat)) => l.map fun r => (r.1, r.2.1)
  runs.all (fun r => cHbmIn c r.1 r.2.1 (· = r.2.2) && (r.2.2 = 5 || r.1 % 64 = 0)) &&
    (indices runs).all (fun a => (List.range a).all fun b =>
      !meet (nth (0, 0, 0) runs a).1 (nth (0, 0, 0) runs a).2.1 (nth (0, 0, 0) runs b).1 (nth (0, 0, 0) runs b).2.1) &&
    (indices es).all fun j =>
      let x := nth 0 es j
      j = i || !isShard x || shOwner x ≠ cSelf c ||
        (flat runs).all fun r => (flat (shRuns c x)).all fun q => !meet r.1 r.2 q.1 q.2

/-- A SHARDS entry breaks R335 or R336. -/
def shardsBad (m : Mod) (c : List Byte) (es : List Nat) (i e : Nat) : Bool :=
  match slice e 3 0 with
  | 1 => decide (i ≠ 0)
  | 2 =>
    let r := slice e 15 4
    r + 1 ≠ i || decide (cNmod c ≤ r) ||
      ((indices es).any fun j => j ≠ i && slice (nth 0 es j) 3 0 = 2 && slice (nth 0 es j) 127 64 = slice e 127 64) ||
      (r ≠ cSelf c && slice e 255 128 = 0 && tGet 0 m.eth.peers r = 0)
  | 4 =>
    let t := tnId e
    let w := slice e 37 34
    decide (slice e 39 38 = 1 ∨ slice e 39 38 = 3 ∨ w = 0 ∨ 4 < w) ||
      ((indices es).any fun j => j ≠ i && slice (nth 0 es j) 3 0 = 4 && tnId (nth 0 es j) = t) ||
      !((cRecs c 9 32).any fun s => slice s 15 0 = t) ||
      decide (2 ^ 31 < tnElems e) ||
      !tiles ((es.filter fun x => isShard x && shTensor x = t).map fun x => (shFirst x, shCount x)) (tnElems e)
  | 3 =>
    decide (shFirst e % 32 ≠ 0 ∨ shCount e = 0 ∨ shCount e % 32 ≠ 0 ∨ 2 ^ 31 < shFirst e + shCount e) ||
      !((cTensors c).any fun t => tnId t = shTensor e) || (shOwner e = cSelf c && !shPlaced c es i e)
  | _ => true

/-- SIDE_A regions and SIDE_B regions correspond under SIDE_DELTA (R326). -/
def sidesOk (c : List Byte) : Bool :=
  let d := cDelta c
  let of := fun (k : Nat) => (ofType 1 (cHbm c)).filter fun e => hbKind e = k
  d ≠ 0 && d % 256 = 0 &&
    (of 1).all (fun a => (of 2).any fun b => hbBase b = hbBase a + d && hbLen b = hbLen a) &&
    (of 2).all fun b => (of 1).any fun a => hbBase b = hbBase a + d && hbLen b = hbLen a

def checkShards (m : Mod) (c : List Byte) : Refuse :=
  let es := cShards c
  firstOf [
    refuseAt 0x604 0xC es (shardsBad m c es),
    refuseIf (slice (cShHdr c) 3 0 ≠ 1 || decide (cNmod c = 0 ∨ 4096 < cNmod c ∨ cNmod c ≤ cSelf c) ||
      (ofType 2 es).length ≠ cNmod c || !sidesOk c) 0x604 (0xC000000 + noEntry)]

/-! ### 0x0B: BUCKETS -/

def cBuckets (c : List Byte) : List Nat := cRecs c 0xB 32

/-- Ranks of a group's members, in position order of the entries. -/
def groupRanks (es : List Nat) (g : Nat) : List Nat := ((ofType 3 es).filter fun e => slice e 15 4 = g).map fun e => slice e 39 28

/-- Runs that an owner has of a tensor. -/
def ownedRuns (c : List Byte) (t r : Nat) : List (Nat × Nat) :=
  ((cShards c).filter fun e => isShard e && shTensor e = t && shOwner e = r).map fun e => (shFirst e, shCount e)

/-- Two pieces' locations share a byte. -/
def locsMeet (a b : Nat) : Bool :=
  (pcHs a == pcHs b) && (!pcHs a || pcHearth a = pcHearth b) && meet (pcAddr a) (4 * pcCount a) (pcAddr b) (4 * pcCount b)

/-- A piece entry breaks R355 or R359. -/
def pieceBad (c : List Byte) (es : List Nat) (i e : Nat) : Bool :=
  let n := pcCount e
  match (ofType 4 es).find? fun b => slice b 19 4 = pcBucket e with
  | none => true
  | some b =>
    !(groupRanks es (bkGroup b)).contains (pcOwner e) || !coveredBy (ownedRuns c (pcTensor e) (pcOwner e)) (pcFirst e) n ||
      decide (n < 32 ∨ 2 ^ 31 - 32 < n ∨ n % 32 ≠ 0 ∨ pcFirst e % 32 ≠ 0 ∨ pcAddr e % 64 ≠ 0) ||
      (if pcHs e then !cHsIn c (pcHearth e) (pcAddr e) (4 * n) (fun _ => true) else !cHbmIn c (pcAddr e) (4 * n) (· = 7)) ||
      (indices es).any fun j =>
        let x := nth 0 es j
        j ≠ i && slice x 3 0 = 5 && (slice x 35 4 = slice e 35 4 || locsMeet e x)

/-- The update tick that SCHEDULE gives a tensor. -/
def updTick (c : List Byte) (t : Nat) : Option Nat :=
  ((cSched c).find? fun e => slice e 3 0 = 4 && slice e 35 20 = t).map fun e => slice e 19 4

/-- A bucket entry breaks R355, R358 or R359. -/
def bucketBad (c : List Byte) (es : List Nat) (i e : Nat) : Bool :=
  let ps := (ofType 5 es).filter fun p => pcBucket p = slice e 19 4
  let size := (ps.map fun p => 4 * pcCount p).sum
  decide (cStepTicks c ≤ bkTick e ∨ slice e 63 48 = 0 ∨ ps.length ≠ slice e 63 48 ∨ size < 4096 ∨ 67108864 < size ∨
      slice e 93 77 % 4 ≠ 0) ||
    (indices es).any (fun j => j ≠ i && slice (nth 0 es j) 3 0 = 4 && slice (nth 0 es j) 19 4 = slice e 19 4) ||
    !(groupRanks es (bkGroup e)).contains (cSelf c) ||
    ps.any (fun p => decide (slice e 63 48 ≤ pcPiece p) || (updTick c (pcTensor p)).any fun u => decide (u < bkTick e + 2)) ||
    !cHsIn c (slice e 76 64) (slice e 93 77) 4 (fun _ => true)

def bucketsBad (c : List Byte) (es : List Nat) (i e : Nat) : Bool :=
  let other := fun (hi lo : Nat) => (indices es).any fun j =>
    j ≠ i && slice (nth 0 es j) 3 0 = slice e 3 0 && slice (nth 0 es j) hi lo = slice e hi lo
  !ordered 5 es i e || match slice e 3 0 with
    | 2 =>
      let ms := (ofType 3 es).filter fun x => slice x 15 4 = slice e 15 4
      other 15 4 || slice e 27 16 = 0 || ms.length ≠ slice e 27 16
    | 3 =>
      let g := (ofType 2 es).find? fun x => slice x 15 4 = slice e 15 4
      decide (cNmod c ≤ slice e 39 28) || other 27 4 || g.all (fun x => decide (slice x 27 16 ≤ slice e 27 16)) ||
        (indices es).any fun j => j ≠ i && slice (nth 0 es j) 3 0 = 3 && slice (nth 0 es j) 15 4 = slice e 15 4 &&
          slice (nth 0 es j) 39 28 = slice e 39 28
    | 4 => bucketBad c es i e
    | 5 => pieceBad c es i e
    | _ => false

/-- Conditions of R359 that no single entry shows: every tensor's elements lie in exactly one piece, in buckets of one group;
the receive area. -/
def bucketsLack (c : List Byte) : Bool :=
  let es := cBuckets c
  let hd := es.headD 0
  let ps := ofType 5 es
  let groupOf := fun (p : Nat) => ((ofType 4 es).find? fun b => slice b 19 4 = pcBucket p).map bkGroup
  slice hd 3 0 ≠ 1 ||
    ((cTensors c).any fun t =>
      let mine := ps.filter fun p => pcTensor p = tnId t
      !tiles (mine.map fun p => (pcFirst p, pcCount p)) (tnElems t) || decide (1 < ((mine.map groupOf).eraseDups).length)) ||
    decide (slice hd 59 44 < Nat.max 2 (2 * (groupPeers c).length) ∨ slice hd 43 4 % 64 ≠ 0) ||
    !cHbmIn c (slice hd 43 4) (69632 * slice hd 59 44) (· = 0xD)

def checkBuckets (c : List Byte) : Refuse :=
  let es := cBuckets c
  if cHas c 0xB then firstOf [refuseAt 0x604 0xB es (bucketsBad c es), refuseIf (bucketsLack c) 0x604 (0xB000000 + noEntry)]
  else refuseIf (!(cTensors c).isEmpty) 0x604 (0xB000000 + noEntry)

/-! ### 0x0E: PARAMS -/

/-- An FP32 field that is finite and satisfies `p` as the pair (sign, is zero or above). -/
def f32is (e hi lo : Nat) (p : Word → Bool) : Bool := let w := wf e hi lo; !f32nonfin w && p w

/-- 0 ≤ x. -/
def f32nneg (w : Word) : Bool := !f32lt w 0
/-- 0 < x. -/
def f32pos (w : Word) : Bool := f32lt 0 w
/-- 0 ≤ x < 1. -/
def f32frac (w : Word) : Bool := f32nneg w && f32lt w f32one

/-- A PARAMS entry breaks R340. -/
def paramsBad (c : List Byte) (es : List Nat) (i e : Nat) : Bool :=
  match slice e 3 0 with
  | 1 =>
    let lo := wf e 159 128
    let hi := wf e 191 160
    i ≠ 0 || !f32is e 159 128 (fun w => !f32lt hi w) || !f32is e 191 160 (fun _ => true) ||
      !f32is e 63 32 (fun w => !f32lt w lo && !f32lt hi w)
  | 2 =>
    let before := (ofType 2 (es.take i)).getLast?
    before.any fun k => decide (slice e 95 32 ≤ slice k 95 32)
  | 3 =>
    slice e 33 32 = 3 || !f32is e 159 128 f32frac || !f32is e 191 160 f32frac || !f32is e 223 192 f32pos ||
      !f32is e 255 224 f32nneg
  | 4 =>
    let s := nth 0 (cShards c) (slice e 81 50)
    slice e 33 17 % 64 ≠ 0 || !cHsIn c (slice e 16 4) (slice e 33 17) 64 (fun _ => true) ||
      !isShard s || shOwner s ≠ cSelf c ||
      (indices es).any fun j =>
        let x := nth 0 es j
        j ≠ i && slice x 3 0 = 4 && slice x 16 4 = slice e 16 4 && meet (slice x 33 17) 64 (slice e 33 17) 64
  | _ => true

def checkParams (c : List Byte) : Refuse :=
  let es := cRecs c 0xE 64
  firstOf [
    refuseAt 0x604 0xE es (paramsBad c es),
    refuseIf (slice (es.headD 0) 3 0 ≠ 1 || (ofType 2 es).isEmpty ||
      (cTensors c).any (fun t => !(ofType 3 es).any fun e => tnId e = tnId t)) 0x604 (0xE000000 + noEntry)]

/-- The training sections but FALLBACK, up to it and after it (R218). -/
def checkTrainLow (m : Mod) (c : List Byte) : Refuse := firstOf [checkBuckets c, checkShards m c]

/-- DIGESTS holds 128 entries for each schedule tick (R243). -/
def checkDigests (c : List Byte) : Refuse := refuseIf (cCount c 0x13 ≠ 128 * cStepTicks c) 0x701 0

/-! ### 0x0D: FALLBACK -/

def cFall (c : List Byte) : List Nat := cRecs c 0xD 64

/-- The partner of SELF in a cord (R398). -/
def cPartner (c : List Byte) : Option Nat :=
  ((ofType 2 (cFall c)).find? fun e => slice e 15 4 = cSelf c || slice e 27 16 = cSelf c).map fun e =>
    if slice e 15 4 = cSelf c then slice e 27 16 else slice e 15 4

/-- Byte runs of a mirror entry, without the alignment that masters alone are given (R399). -/
def mirRuns (c : List Byte) (e : Nat) : List (Nat × Nat) :=
  let n := shCount (nth 0 (cShards c) (slice e 47 16))
  if bitAt e 4 then [(slice e 87 48, slice e 317 278)]
  else [(slice e 87 48, 4 * n), (slice e 87 48 + cDelta c, 4 * n), (slice e 127 88, momBytes n), (slice e 167 128, cEmb c n),
    (slice e 207 168, momBytes n + cEmb c n), (slice e 247 208, 4 * n)]

/-- A mirror entry breaks R399 or R401. -/
def mirrorBad (c : List Byte) (es : List Nat) (i e : Nat) : Bool :=
  let runs := mirRuns c e
  let s := nth 0 (cShards c) (slice e 47 16)
  let clash := fun (a b : List (Nat × Nat)) => a.any fun r => b.any fun q => meet r.1 r.2 q.1 q.2
  slice e 87 48 % 64 ≠ 0 || runs.any (fun r => !cHbmIn c r.1 r.2 (· = 6)) ||
    (indices runs).any (fun k => clash [nth (0, 0) runs k] (runs.take k)) ||
    (!bitAt e 4 && (!isShard s || some (shOwner s) ≠ cPartner c)) ||
    (indices es).any fun j =>
      let x := nth 0 es j
      j ≠ i && slice x 3 0 = 3 &&
        (clash runs (mirRuns c x) || (!bitAt e 4 && !bitAt x 4 && slice x 47 16 = slice e 47 16))

/-- Lost ranks of a partition entry (R399). -/
def lostOf (e : Nat) : List Nat := (List.range (slice e 16 14 + 1)).map fun i => slice e (107 + 12 * i) (96 + 12 * i)

/-- FALLBACK's own conditions of a cord as a partition leaves it: pairs of participating ranks, and the mirrors, whose lengths
partition 0's SHARDS give, within MIRROR regions of the HBMMAP in force (R399, R401). -/
def partFallBad (c p : List Byte) : Bool :=
  (ofType 3 (cFall c)).any (fun e => (mirRuns c e).any fun r => !cHbmIn p r.1 r.2 (· = 6)) ||
    (ofType 2 (cFall c)).any fun e => decide (cNmod p ≤ slice e 27 16)

/-- A cord as a partition leaves it fails some check of R220 (R401). -/
def partFails (m : Mod) (c : List Byte) (rnd slot part : Nat) : Bool :=
  let p := cPatch c part
  (firstOf [m.checkModes p slot, checkCode p rnd, m.checkStore p, checkTrainLow m p, checkParams p, checkDigests p]).isSome ||
    partFallBad c p

/-- The replacement table of a partition entry (R400), and whether an entry of it is of a reserved type, or breaks the
table's rules or its HASH. -/
def replBad (c : List Byte) (e : Nat) : Bool :=
  let fb := cSect c 0xD
  let stop := slice e 63 32 + slice e 95 64
  let es := replEnts fb 32 (slice e 63 32) stop
  decide (fb.length < stop) || (indices es).any fun i =>
    let x := nth 0 es i
    !replTypes.contains (slice x 15 0) || tableBad (slice e 63 32) stop es i x || hashBad fb x

/-- Shards of SELF under a partition: each one kept keeps its addresses, each one gained lies within one shard of partition 0
that SELF or a lost rank owned; no shard has a lost owner (R401). -/
def partShardsBad (c : List Byte) (e : Nat) : Bool :=
  let lost := lostOf e
  let now := (cShards (cPatch c (slice e 13 4))).filter isShard
  let was := (cShards c).filter isShard
  let same := fun (a b : Nat) => shTensor a = shTensor b && shFirst a = shFirst b && shCount a = shCount b
  now.any (fun x => lost.contains (shOwner x)) ||
    (now.filter fun x => shOwner x = cSelf c).any fun x =>
      match was.find? fun y => same x y && shOwner y = cSelf c with
      | some y => slice x 343 144 ≠ slice y 343 144
      | none => !was.any fun y => shTensor y = shTensor x && (shOwner y = cSelf c || lost.contains (shOwner y)) &&
          decide (shFirst y ≤ shFirst x ∧ shFirst x + shCount x ≤ shFirst y + shCount y)

/-- A partition entry breaks R399 or R401. -/
def partBad (m : Mod) (c : List Byte) (rnd slot : Nat) (es : List Nat) (i e : Nat) : Bool :=
  let lost := lostOf e
  let pairs := ofType 2 es
  let set := fun (l : List Nat) (r : List Nat) => l.all r.contains && r.all l.contains
  slice e 13 4 = 0 ||
    (indices es).any (fun j =>
      let x := nth 0 es j
      j ≠ i && slice x 3 0 = 5 && (slice x 13 4 = slice e 13 4 || set (lostOf x) lost)) ||
    pairs.any (fun p => lost.contains (slice p 15 4) && lost.contains (slice p 27 16)) ||
    (if lost.contains (cSelf c) then slice e 95 64 ≠ 0
     else replBad c e || partShardsBad c e || partFails m c rnd slot (slice e 13 4))

/-- A pair entry is not two ranks in order, or a rank of it lies in another pair. -/
def pairBad (c : List Byte) (es : List Nat) (i e : Nat) : Bool :=
  let a := slice e 15 4
  let b := slice e 27 16
  decide (b ≤ a ∨ cNmod c ≤ b) || (indices es).any fun j =>
    let x := nth 0 es j
    j ≠ i && slice x 3 0 = 2 && (slice x 15 4 = a || slice x 15 4 = b || slice x 27 16 = a || slice x 27 16 = b)

def fallBad (m : Mod) (c : List Byte) (rnd slot : Nat) (es : List Nat) (i e : Nat) : Bool :=
  !ordered 5 es i e || match slice e 3 0 with
    | 2 => cSingle c || pairBad c es i e
    | 3 => cSingle c || mirrorBad c es i e
    | 5 => cSingle c || partBad m c rnd slot es i e
    | _ => false

/-- Conditions of R398, R399 and R401 that no single entry shows: a rank in no pair, a shard of the partner without a mirror,
NPART against the partition entries. -/
def fallLacks (c : List Byte) : Bool :=
  let es := cFall c
  let inPair := fun (r : Nat) => (ofType 2 es).any fun e => slice e 15 4 = r || slice e 27 16 = r
  let sh := cShards c
  slice (es.headD 0) 3 0 ≠ 1 || slice (es.headD 0) 13 4 ≠ (ofType 5 es).length ||
    (!cSingle c && ((List.range (cNmod c)).any (fun r => !inPair r) ||
      (indices sh).any fun i => isShard (nth 0 sh i) && some (shOwner (nth 0 sh i)) = cPartner c &&
        !(ofType 3 es).any fun e => !bitAt e 4 && slice e 47 16 = i))

/-- FALLBACK (R398 to R401) of a cord in staging slot `slot`, with the default rounding mode of its LOAD. -/
def checkFallback (m : Mod) (c : List Byte) (rnd slot : Nat) : Refuse :=
  let es := cFall c
  if cHas c 0xD then
    firstOf [refuseAt 0x604 0xD es (fallBad m c rnd slot es), refuseIf (fallLacks c) 0x604 (0xD000000 + noEntry)]
  else refuseIf (!cSingle c) 0x604 (0xD000000 + noEntry)

end Sys2Proof.Machine
end

