-- ==== Sys2Proof/Machine/Checks.lean ====
section
/-! DEFINITION. The checks of the loader in ascending order of reason code (R215, R218 to R220), with those of a successor (R573). -/

namespace Sys2Proof.Machine

/-- A successor keeps its predecessor's SHARDS section and FIRING, REDUND, PEAT and DIES (R220, R573). The detail is the bit
offset of the first differing field of MODES, or 0 for SHARDS. -/
def checkHandover (old c : List Byte) : Refuse :=
  firstOf [
    refuseIf (cStatic old != cStatic c) 0x801 0,
    refuseIf (cSingle old != cSingle c) 0x801 2,
    refuseIf (cPeat old != cPeat c) 0x801 3,
    refuseIf (cDies old ≠ cDies c) 0x801 6,
    refuseIf (cSect old 0xC ≠ cSect c 0xC) 0x801 0]

/-- The first check that the cord of a staging slot fails (R218). -/
def Mod.loadCheck (m : Mod) (slot : Nat) : Option (Nat × Nat) :=
  let c := (m.slot slot).bytes
  let rnd := (m.cord.load.map fun l => l.rnd).getD m.kop.rnd
  let old := (m.cord.inst.map fun n => (m.slot n).bytes).getD []
  firstOf [
    m.checkObj c, m.checkModes c slot, checkCode c rnd, m.checkStore c, checkTrainLow m c, checkFallback m c rnd slot,
    checkParams c, checkDigests c, if cPred c = 0 then none else checkHandover old c]

end Sys2Proof.Machine
end

