-- ==== Sys2Proof/Machine/Loader.lean ====
section
/-! DEFINITION. Staging, loading and switching cords (R215 to R221, R234 to R241, R453), START, STOP, UNLOAD (R379, R480). -/

namespace Sys2Proof.Machine

/-! ### STAGE (R453) -/

/-- A slot holds the installed cord, or a cord that a switch uses (R216). R216 names the installed cord and a predecessor that a
switch still needs; a successor that a switch carries in counts here as well, so no STAGE overwrites it (log entry 118). -/
def Mod.slotUsed (m : Mod) (n : Nat) : Bool := m.cord.inst = some n || m.cord.succ = some n

/-- The module-pool context of a cord fetch (R448, R453): the named one where it is of that pool, else the lowest free one, toward the
far end of the named queue pair. -/
def Mod.fetchCtx (m : Mod) (ctx : Nat) : Option Nat := if ctx < 1024 then some ctx else m.freeCtx 0 1024

/-- The fetch of a cord begins (R453); with no module-pool context free it cannot be served. -/
def Mod.fetchCord (m : Mod) (n ctx rkey addr len : Nat) : Mod :=
  match m.fetchCtx ctx with
  | none => m.setSlot n { st := .fetching, ctx := 65536 }
  | some c =>
    let m := if c = ctx then m
      else m.setQp c { run := (m.qp ctx).run, gid := (m.qp ctx).gid, qpn := (m.qp ctx).qpn, paths := (m.qp ctx).paths }
    (m.setSlot n { st := .fetching, ctx := c }).rdmaIn c rkey addr len

/-- The context that a fetch took is free again. -/
def Mod.dropFetch (m : Mod) (n ctx : Nat) : Mod :=
  let c := (m.slot n).ctx
  if c = ctx || decide (1024 ≤ c) then m else { m with eth := { m.eth with qps := m.eth.qps.filter fun p => p.1 ≠ c } }

/-- 0x1400: STAGE. A slot that a load is checking is refused as busy (log entry 55). -/
def execStage (ses seq : BitVec 32) (s : State) : Host.Outcome State Fault Refusal :=
  lift (fun m => m.invoke ses.toNat seq.toNat 0x1400 [2] false (fun a => a.length = 19) fun m a =>
    let n := beNat (a.take 1)
    let len := beNat (a.drop 15)
    let ctx := beNat ((a.drop 1).take 2)
    if 1 < n || len = 0 || decide (268435456 < len) || (tGet {} m.eth.qps ctx).run == .free then .no m 0xF05 0
    else if !m.dieRuns n then .no m 0xF06 0
    else if m.slotUsed n then .no m 0xF07 0
    else if m.cord.load.any (fun l => l.slot = n) then .no m 0x1A 0
    else .go (m.fetchCord n ctx (byteN a 3 4) (byteN a 7 8) len)) s

/-- R453: the cord fetch of an accepted STAGE ends, with the bytes of the slot, or failed, as one that no context serves or whose queue
pair has completed in error. -/
def execCordFetchDone (bytes : Option (List Byte)) (s : State) : Host.Outcome State Fault Refusal :=
  lift (fun m =>
    let a := (m.cmd 0x1400).arg
    let n := beNat (a.take 1)
    if !(m.cmd 0x1400).busy || (m.slot n).st != .fetching then m
    else
      let x := m.slot n
      let bad := decide (1024 ≤ x.ctx) || (m.qp x.ctx).run != .ready
      let m := m.dropFetch n (byteN a 1 2)
      match bytes with
      | none => (m.setSlot n {}).finish 0x1400 0xF08 0 []
      | some b =>
        if bad then (m.setSlot n {}).finish 0x1400 0xF08 0 []
        else (m.setSlot n { st := .staged, bytes := b.take (beNat (a.drop 15)) }).finish 0x1400 0 0 []) s

/-! ### LOAD -/

/-- A refused cord: the slot is marked, the event raised (R219). A slot that holds no cord stays empty (R279), and one whose cord a
switch carries in keeps it (log entry 118). -/
def Mod.reject (m : Mod) (slot code detail : Nat) : Mod :=
  let m := if (m.slot slot).st = .empty || m.slotUsed slot then m
    else m.setSlot slot { m.slot slot with st := .rejected, reason := code }
  m.event 0x8102 detail code

/-- A refusal of LOAD at its acceptance. -/
def Mod.loadNo (m : Mod) (slot code detail : Nat) : CmdOut := { status := code, detail := detail, m := m.reject slot code detail }

/-- 0x1401: LOAD is accepted in a case of R215; the loader's checks follow. The installed cord's slot holds no staged cord (R216,
R490); that of a successor on its switch does until R240, and a LOAD of it, as of any staged cord then, is LD_BUSY; the slot of a
die that does not run is LD_DIE (R279). -/
def execLoad (ses seq : BitVec 32) (s : State) : Host.Outcome State Fault Refusal :=
  lift (fun m => m.invoke ses.toNat seq.toNat 0x1401 [2] false (fun a => a.length = 1) fun m a =>
    let n := beNat a
    if m.tst.scan.isSome then .no m 0x1204 0
    else if 1 < n || m.cord.inst = some n || (m.dieRuns n && (m.slot n).st != .staged) then .no m 0xF05 0
    else if (m.slot n).st != .staged then m.loadNo n 0x204 (0x1000000 + n)
    else match m.loadCase (m.slot n).bytes with
      | none => m.loadNo n 0x108 m.pow.state.num
      | some k =>
        if m.cord.load.isSome || m.cord.succ.isSome then m.loadNo n 0x109 0
        else if !m.dieRuns n then m.loadNo n 0x204 (0x1000000 + n)
        else .go { m with cord := { m.cord with load := some { slot := n, case := k, rnd := m.kop.rnd, tick := m.tick.cnt.toNat } } }) s

/-- The job area is written to zero (R593): everything but the reserved areas. -/
def Mod.zeroJob (m : Mod) : Mod :=
  { m with hbm := { m.hbm with mem := m.hbm.mem.filter (fun c => hbmReserved c.1),
                               bad := m.hbm.bad.filter (fun b => hbmReserved (64 * b)) } }

/-- What persistence C resets, and the state of training at the installation of a cord with PRED_ID 0 (R221, R343, R487). -/
def Mod.freshJob (m : Mod) : Mod :=
  let h := m.hbm
  let h := { h with side := false, moves := [], moveLate := 0, moved := [], movedLast := [], settle := [], pinned := [],
                    settleWait := 0, totals := [], totNow := [], capture := none }
  let p := { m.peat with slots := [], waitQ := [], miss := 0, late := 0, stale := 0, bad := 0, noslot := 0 }
  let hs := m.grid.hearths.map fun e =>
    (e.1, { e.2 with stopped := false, cause := 0, ce := 0, passes := 0, addrFlt := false, rep := [], repPrev := [], stale := [], voted := false })
  let g := { m.grid with hearths := hs.filter (fun e => e.2 ≠ {}), vcs := [], mcs := [] }
  { m with hbm := h, peat := p, train := {}, exch := {}, rem := {}, flt := {}, clus := {}, grid := g,
           tick := { m.tick with ovr := 0, k := 0 } }

/-- Static firing runs with both dies in use at the slower of their settings (R270, R576). -/
def Mod.staticClock (m : Mod) : Mod :=
  if cStatic m.img then
    let n := m.dieUsed m.img 0
    let s := m.dieUsed m.img 1
    let k := Nat.min (if n then m.dieN.base else 16) (if s then m.dieS.base else 16)
    ({ m with dieN := if n then { m.dieN with base := k, want := k } else m.dieN,
              dieS := if s then { m.dieS with base := k, want := k } else m.dieS }).settleK
  else m

/-- Installation of a cord with PRED_ID 0 (R221): generation 0 on every hearth, pairing and sessions begin. -/
def Mod.installFirst (m : Mod) (n rnd : Nat) : Mod :=
  let m := m.zeroJob.freshJob
  let m := { m with cord := { m.cord with inst := some n, gen := 0, rnd := rnd, dumps := [], succ := none, switched := [] } }
  let m := { m with tick := { m.tick with us := cTickUs m.img } }
  let m := { m with train := { m.train with ls := wf m.parHdr 63 32 }, clus := { m.clus with startNs := m.tick.now } }
  let m := ((((m.staticClock).installOn m.img 0 (fun _ => true)).newRkeys).nullRings).event 0x8101 n (cId m.img)
  m.openSessions.pairStart

/-- Installation of a successor in place (R217): generation h + 1 on every hearth at once; what a step commits or counts stays;
the predecessor's slot reads empty. -/
def Mod.installNext (m : Mod) (n rnd : Nat) : Mod :=
  let old := m.cord.inst
  let m := m.emptyHearths (fun _ => true)
  let m := { m with cord := { m.cord with inst := some n, gen := m.cord.gen + 1, rnd := rnd, dumps := [], succ := none,
                                          switched := [] } }
  let m := match old with
    | some o => m.setSlot o {}
    | none => m
  let m := { m with train := { m.train with stopAt := 0, pressure := false }, hbm := { m.hbm with capture := none } }
  let m := m.staticClock
  let m := ((((m.installOn m.img m.cord.gen (fun _ => true)).newRkeys).rehome).nullRings).tickKept
  m.openSessions.event 0x8101 n (cId m.img)

/-! ### A switch (R234 to R241) -/

/-- Early tokens of a queue, with whether they are visible: those of the next generation, spilled ones read back. -/
def Mod.earlyTokens (m : Mod) (q : Nat) (g : BitVec 2) : List QTok :=
  let x := m.inq q
  let hs := (m.hearth (qHearth q)).hs
  let back := (indices x.spill).map fun i =>
    let t := nth {} x.spill i
    let p := m.spillAddr q (x.spillNo - x.spill.length + i)
    { t with tok := Token.ofHdr (mWord hs p.2) (mWords hs p.1 t.tok.words.length) }
  (x.router ++ back).filter fun t => t.tok.gen == g

/-- A queue as it stands after its hearth's switch: the successor's depth, the early tokens, credits counted afresh less what
is held or on its way (R236, R237). -/
def Mod.keepEarly (m : Mod) (q : Nat) (old : InQ) (early : List QTok) : Mod :=
  let x := m.inq q
  let used := old.size - old.credit
  let m := m.setInq q { x with credit := x.size - used, back := old.back }
  let m := early.foldl (fun (m : Mod) t => m.enterQ q t) m
  let y := m.inq q
  let see := fun (p : QTok × QTok) => { p.1 with vis := p.2.vis }
  m.setInq q { y with router := (List.zip y.router early).map see,
                      spill := (List.zip y.spill (early.drop y.router.length)).map see }

/-- A hearth switches to the successor (R238): its images, windows, regions, core state and generation; early tokens stay in
their queues, tokens in flight and the predecessor's trees stay on the mesh, contributions to the sync tree and an urgent condition
stand. -/
def Mod.switchHearth (m : Mod) (h : Nat) : Mod :=
  match m.cord.succ with
  | none => m
  | some n =>
    let c := m.cordIn n
    let g := m.cord.gen + 1
    let olds := m.grid.inqs.filter fun p => qHearth p.1 = h
    let early := olds.map fun p => (p.1, p.2, m.earlyTokens p.1 g)
    let flights := m.grid.flights
    let trees := m.grid.trees
    let cord := m.cord
    let x := m.hearth h
    let m := { m with cord := { cord with inst := some n } }
    let m := m.installOn c g (fun x => x = h)
    let new := m.grid.trees.filter fun t => !trees.any fun u => u.1 = t.1
    let m := { m with cord := { cord with switched := cord.switched ++ [h] },
                      grid := { m.grid with flights := flights, trees := new.foldl (fun (t : Tbl Tree) (u : Nat × Tree) => tSet {} t u.1 u.2) trees } }
    let m := m.setHearth h { m.hearth h with sync := x.sync, syncPrev := x.syncPrev, urgent := x.urgent }
    early.foldl (fun (m : Mod) p => m.keepEarly p.1 p.2.1 p.2.2) m

/-- Every hearth that predecessor or successor places. -/
def Mod.switchSet (m : Mod) : List Nat :=
  match m.cord.succ with
  | none => []
  | some n => (cPlaced m.img ++ cPlaced (m.cordIn n)).eraseDups

/-- The last hearth has switched: the successor is installed (R240); hearths that neither cord places take what
it declares there. -/
def Mod.switchDone (m : Mod) : Mod :=
  if m.cord.succ.isSome && m.switchSet.all m.cord.switched.contains then
    let set := m.switchSet
    let m := m.takeOver
    m.installOn m.img m.cord.gen fun h => !set.contains h
  else m

/-- DATA of a successor in regions that meet no region of the predecessor on their hearth: the Hub's DMA engine writes them while
the predecessor runs (R214, R238). -/
def Mod.earlyData (m : Mod) (c : List Byte) : Mod :=
  let own := fun (h a n : Nat) => (cRecs c 3 16).find? fun r =>
    slice r 12 0 = h && decide (slice r 48 32 ≤ a ∧ a + n ≤ slice r 48 32 + slice r 81 64)
  let free := fun (e : Nat) => match own (slice e 16 4) (slice e 33 17) (slice e 95 64) with
    | some r => !(m.hearth (slice e 16 4)).regions.any fun x => overlap x.base x.len (slice r 48 32) (slice r 81 64)
    | none => false
  ((cRecs c 0x14 16).filter free).foldl (fun m e => m.putData c (fun _ => true) e) m

/-- The conditions of R238. -/
def Mod.maySwitch (m : Mod) (h : Nat) : Bool :=
  let ks := m.coresOf h
  let g := (m.hearth h).gen
  ks.all (fun k => (List.range (inQueues k)).all fun q => m.drained (qid (cid h k) q)) &&
    ks.all (fun k => (m.ctl (cid h k)).phase == .idle && (List.range (outQueues k)).all fun q =>
      let o := m.outq (qid (cid h k) q)
      o.bind == .none || o.marker) &&
    (m.hearth h).reqs.isEmpty &&
    (m.repsAt h).all fun p => (nth {} (m.tree p.1).nodes p.2).entries.all fun e => e.1.gen != g

/-- R238: a hearth switches once its part of the predecessor has drained. -/
def execHearthSwitch (h : BitVec 13) (s : State) : Host.Outcome State Fault Refusal :=
  lift (fun m =>
    let h := h.toNat
    if m.cord.succ.isNone || m.cord.holdOff.isSome || m.cord.switched.contains h || !m.switchSet.contains h || !m.coresRun || !m.maySwitch h then m
    else (m.switchHearth h).switchDone) s

/-- R240: HANDOVER ticks have passed and a hearth has not switched: both cords stop at the end of the tick. SWITCH_TIMEOUT names the
first such hearth and its first undrained queue; where every queue there is drained, core 0 and queue 0 (log entry 119). -/
def execSwitchTimeout (s : State) : Host.Outcome State Fault Refusal :=
  lift (fun m =>
    if m.cord.succ.isNone || m.cord.handLeft ≠ 0 || m.train.stop.isSome then m
    else
      let left := m.switchSet.filter fun h => !m.cord.switched.contains h
      let h := left.foldl Nat.min (left.headD 0)
      let q := ((m.coresOf h).flatMap fun k => (List.range (inQueues k)).map fun q => (k, q)).find? fun p =>
        !m.drained (qid (cid h p.1) p.2)
      let p := q.getD (0, 0)
      (m.event 0x8104 (packLoc h p.1 p.2) m.train.step).stopAtEnd 0x8104 true) s

/-- The successor begins to switch in: hearths that only it places switch at once (R238). HANDOVER counts from the acceptance of the
LOAD at TICK_CNT `at'` (R240). DATA that overlap no region of the predecessor on the hearth are written now (R214, R238). -/
def Mod.beginSwitch (m : Mod) (n rnd at' : Nat) : Mod :=
  let m := { m with cord := { m.cord with succ := some n, succRnd := rnd, switched := [], holdOff := none,
                                          handLeft := cHandover (m.slot n).bytes - (m.tick.cnt.toNat - at') } }
  let m := m.earlyData (m.cordIn n)
  let only := (cPlaced (m.cordIn n)).filter fun h => !(cPlaced m.img).contains h
  (only.foldl Mod.switchHearth m).switchDone

/-- R218 to R221, R217: the loader's checks of an accepted LOAD end, after a set's retirement in progress (R299). The
command's verdict `_sigOk` has no effect: the signature is verified here, from the bytes (R204). -/
def execLoadChecksDone (_sigOk : Bool) (s : State) : Host.Outcome State Fault Refusal :=
  lift (fun m =>
    match (if m.hbm.ret.isSome then none else m.cord.load) with
    | none => m
    | some l =>
      let bad := m.loadCheck l.slot
      let m := { m with cord := { m.cord with load := none } }
      match bad with
      | some r => (m.reject l.slot r.1 r.2).finish 0x1401 r.1 r.2 []
      | none =>
        let m := match m.loadCase (m.slot l.slot).bytes with
          | some 1 => m.installFirst l.slot l.rnd
          | some 2 => m.beginSwitch l.slot l.rnd l.tick
          | some _ => m.installNext l.slot l.rnd
          | none => m
        m.finish 0x1401 0 0 []) s

/-! ### START, STOP, UNLOAD -/

/-- The seed of the job (R339): rank 0 draws it at START and sends it, sealed, to every participating module. Another rank takes
the value that arrives; until it does, its seed is open. The four bytes are in network byte order (log entry 56). -/
def Mod.seedJob (m : Mod) : Mod :=
  if !cSrSeed m.img || (m.self ≠ 0 && m.train.seed.isSome) then m
  else
    let d := m.draw 32
    let m : Mod := { d.2 with train := { d.2.train with seed := some (BitVec.ofNat 32 d.1) } }
    let m : Mod := if m.self = 0 then
        (m.ranks.filter (· ≠ 0)).foldl (fun (m : Mod) r => m.sendTo r 0 (beBytes 4 d.1)) m
      else m
    m.putEntries (fun _ => true)

/-- 0x1402: START (R221, R379, R407, R480). -/
def execStart (ses seq : BitVec 32) (s : State) : Host.Outcome State Fault Refusal :=
  lift (fun m => m.invoke ses.toNat seq.toNat 0x1402 [2] false (fun a => a.length = 8) fun m a =>
    let t := beNat a
    if m.tst.scan.isSome then .no m 0x1204 0
    else if m.cord.inst.isNone then .no m 0xF02 0
    else if m.pow.state != .damped || m.train.asked then .no m 0xF03 0
    else if m.tick.src ≠ 0 && decide (t < m.tick.cnt.toNat + 2) then .no m 0xC01 0
    else if m.tick.src = 1 && !m.tick.locked then .no m 0xC02 0
    else if !cSingle m.img && m.clus.pair != .paired && m.clus.pair != .widowed then .no (m.event 0x8501 (m.partner.getD 0) 0xD06) 0xD06 0
    else
      let m := m.seedJob
      .ok { m with train := { m.train with asked := true, startAt := if m.tick.src = 0 then none else some t } }) s

/-- 0x1403: STOP at the end of the tick that flips AT_STEP (R480). -/
def execStop (ses seq : BitVec 32) (s : State) : Host.Outcome State Fault Refusal :=
  lift (fun m => m.invoke ses.toNat seq.toNat 0x1403 [2] false (fun a => a.length = 8) fun m a =>
    let n := beNat a
    if m.cord.inst.isNone then .no m 0xF02 0
    else if m.pow.state != .running then .no m 0xF03 0
    else if decide (n ≤ m.train.last) || (m.train.stopAt ≠ 0 && decide (n ≤ m.train.stopAt)) then .no m 0xF01 0
    else .ok { m with train := { m.train with stopAt := n } }) s

/-- 0x1404: UNLOAD leaves the module Damped without a cord (R480). -/
def execUnload (ses seq : BitVec 32) (s : State) : Host.Outcome State Fault Refusal :=
  lift (fun m => m.invoke ses.toNat seq.toNat 0x1404 [2] false (fun a => a.isEmpty) fun m _ =>
    if m.cord.inst.isNone then .no m 0xF02 0
    else if m.pow.state != .damped then .no m 0xF03 0
    else .ok m.uninstall) s

end Sys2Proof.Machine
end

