-- ==== Sys2Proof/Machine/Owner.lean ====
section
/-! DEFINITION. Commands of the Owner, the Operator and the Service role that act on state and memory: EXPORT, IMPORT (R351, R353, R514, R515), DIGEST_NOW, DECLARE_LOST, REPLACE (R414, R418, R424), CAPTURE (R247), retirement of HBM sets, flash dies and columns (R298, R300, R322, R564), the peat tier's switch (R323). -/

namespace Sys2Proof.Machine

/-! ### EXPORT -/

/-- n SHARDS indices of a command's argument. -/
def idxList : Nat → List Byte → List Nat
  | 0, _ => []
  | n + 1, l => beNat (l.take 2) :: idxList n (l.drop 2)

/-- An export or an import is in progress (R351). -/
def Mod.stateBusy (m : Mod) : Bool := (m.cmd 0x1405).busy || (m.cmd 0x1406).busy

/-- What the settle must leave until an export of shards has ended: moments and ember copies (R331, R351). -/
def Mod.pinsOf (m : Mod) (shs : List Nat) : List SettleSeg :=
  shs.flatMap fun e =>
    [{ src := 0, dst := shMom e, len := momBytes (shCount e) }, { src := 0, dst := shEmb e, len := m.embBytes (shCount e) }]

/-- 0x1405: EXPORT (R351, R514). The state committed now is read and sent; the settle waits for EXPORT_DONE. -/
def execExport (ses seq : BitVec 32) (s : State) : Host.Outcome State Fault Refusal :=
  lift (fun m => m.invoke ses.toNat seq.toNat 0x1405 [2] false
    (fun a => decide (17 ≤ a.length) && a.length = 17 + 2 * byteN a 15 2) fun m a =>
    let content := byteN a 0 1
    let names := idxList (byteN a 15 2) (a.drop 17)
    let owns := fun (i : Nat) => decide (i < m.shards.length) && isShard (nth 0 m.shards i) && shOwner (nth 0 m.shards i) = m.self
    let shs := if names.isEmpty then m.owned else names.map fun i => nth 0 m.shards i
    if m.cord.inst.isNone then .no m 0xF02 0
    else if !m.train.haveState then .no m 0xB01 0
    else if names.any fun i => decide (m.shards.length ≤ i) then .no m 0xF05 0
    else if !names.all owns then .no m 0xB02 0
    else if m.stateBusy then .no m 0xB03 0
    else if content = 0 || 7 < content then .no m 0xB04 0
    else if (m.qp (byteN a 1 2)).run == .free then .no m 0xF05 0
    else if m.sec.job.isNone then .no m 0x1009 0
    else if !m.canSeal then .no m 0x100A 0
    else
      let q := m.expReqs (byteN a 1 2) (byteN a 3 4) (byteN a 7 8) content false shs
      .go (({ m with hbm := { m.hbm with pinned := m.hbm.pinned ++ m.pinsOf shs },
                     train := { m.train with exports := m.train.exports ++ q } }).exportPump)) s

/-- R351: the last record has been read and sent; the settle that waited runs on. Records that wait are tried again. -/
def execExportDone (s : State) : Host.Outcome State Fault Refusal :=
  lift (fun m =>
    if !(m.cmd 0x1405).busy then m
    else
      let m := m.exportPump
      if m.train.exports.any fun q => !q.ck then m
      else ({ m with hbm := { m.hbm with pinned := [] } }).runSettle.finish 0x1405 0 0 []) s

/-! ### IMPORT -/

/-- 0x1406: IMPORT (R353). -/
def execImport (ses seq : BitVec 32) (s : State) : Host.Outcome State Fault Refusal :=
  lift (fun m => m.invoke ses.toNat seq.toNat 0x1406 [2] false (fun a => a.length = 18) fun m a =>
    if m.cord.inst.isNone then .no m 0xF02 0
    else if m.pow.state != .damped then .no m 0xB11 0
    else if m.stateBusy then .no m 0xB03 0
    else if (m.qp (byteN a 0 2)).run == .free then .no m 0xF05 0
    else .go (m.rdmaIn (byteN a 0 2) (byteN a 2 4) (byteN a 6 8) (byteN a 14 4))) s

/-- The header of an envelope is as R515 asks: MAGIC, KIND, SUITE, OWNER_KEY_ID, and the job key's identifier for a record. -/
def Mod.envOk (m : Mod) (kind : Nat) (e : List Byte) : Bool :=
  let h := leNat (e.take 128)
  slice h 31 0 = 0x4C414553 && slice h 39 32 = kind && slice h 47 40 = 1 && slice h 895 384 = leNat (m.sec.ownerId.take 64) &&
    (kind ≠ 1 || (m.sec.job.isSome && slice h 127 64 = m.sec.jobId))

/-- The body of an envelope. -/
def envBody (e : List Byte) : List Byte := (e.drop 128).take (slice (leNat (e.take 128)) 383 320)

/-- Fields of a record header (R352). -/
def rhTensor (h : Nat) : Nat := slice h 79 64
def rhContent (h : Nat) : Nat := slice h 50 48
def rhFirst (h : Nat) : Nat := slice h 423 384
def rhCount (h : Nat) : Nat := slice h 463 424
def rhStep (h : Nat) : Nat := slice h 159 96

/-- Bytes of a record's payload parts: masters, moments, ember. -/
def Mod.partLens (m : Mod) (content n : Nat) : Nat × Nat × Nat :=
  (if bitAt content 0 then 4 * n else 0, if bitAt content 1 then 2 * n + 2 * (n / 32) else 0, if bitAt content 2 then m.ew * n else 0)

/-- The owned shard that a record matches (R353). -/
def Mod.recShard (m : Mod) (r : List Byte) : Option Nat :=
  let h := leNat (r.take 128)
  let l := m.partLens (rhContent h) (rhCount h)
  if slice h 31 0 ≠ 0x44524853 || slice h 52 52 ≠ b2n m.emberBf16 || r.length ≠ 128 + l.1 + l.2.1 + l.2.2 then none
  else m.owned.find? fun sh =>
    shTensor sh = rhTensor h && shFirst sh = rhFirst h && shCount sh = rhCount h &&
      slice (m.tensorEnt (shTensor sh)) 191 64 = slice h 383 256

/-- A manifest entry for a record (R428). -/
def manEntry (ents : List Nat) (h : Nat) : Bool :=
  ents.any fun e => slice e 31 16 = rhTensor h && slice e 34 32 = rhContent h && slice e 103 64 = rhFirst h && slice e 143 104 = rhCount h

/-- One record written: masters to the committed side, moments and ember to their regions; a shard without ember bytes takes
them from its masters, rounded to nearest even. -/
def Mod.importRec (m : Mod) (r : List Byte) : Mod :=
  match m.recShard r with
  | none => m
  | some sh =>
    let h := leNat (r.take 128)
    let n := shCount sh
    let c := m.ownCopy sh
    let l := m.partLens (rhContent h) n
    let b := r.drop 128
    let m := m.payWrite c 0 n 0 (b.take l.1)
    let m := m.payWrite c 0 n (4 * n) ((b.drop l.1).take l.2.1)
    let m := m.payWrite c 0 n (6 * n + 2 * (n / 32)) ((b.drop (l.1 + l.2.1)).take l.2.2)
    let t := m.tensor (shTensor sh)
    m.setTensor (shTensor sh) { t with upd := slice h 191 160, skips := slice h 223 192 }

/-- The ember copy of a shard from its masters (R353 action 4). -/
def Mod.emberFill (m : Mod) (sh : Nat) : Mod :=
  let c := m.ownCopy sh
  let f : Fmt := if m.emberBf16 then .bf16 else .fp32
  m.hbmPut c.emb ((bytesWords c.cnt (m.hbmRaw c.mas (4 * c.cnt))).flatMap fun w => leBytes c.ew (Fmt.enc f .rne (f32 w)).1)

/-- x multiplied n times by b, each product rounded (R353 action 3). -/
def mulTimes (b : Word) : Nat → Word → Word
  | 0, x => x
  | n + 1, x => mulTimes b n (f32mul x b)

/-- Update counts give the bias products (R341, R353). -/
def Mod.redoBias (m : Mod) (t : Nat) : Mod :=
  let x := m.tensor t
  let r := m.tensorRec t
  m.setTensor t { x with bp1 := mulTimes (wf r 159 128) x.upd 0x3F800000#32, bp2 := mulTimes (wf r 191 160) x.upd 0x3F800000#32 }

/-- What refuses an import: code and record index (R353, R515); none when every check passes. -/
def Mod.importBad (m : Mod) (man : List Byte) (manOk : Bool) (recs : List (List Byte × Bool)) : Option (Nat × Nat) :=
  let body := envBody man
  let mh := leNat (body.take 128)
  let ents := entriesOf 128 (slice mh 255 224) (body.drop 128)
  let hd := fun (e : List Byte × Bool) => leNat ((envBody e.1).take 128)
  if !manOk || !m.envOk 2 man || slice mh 31 0 ≠ 0x54504B43 then some (0xB14, 0)
  else match recs.findIdx? (fun e => !e.2 || !m.envOk 1 e.1 || !manEntry ents (hd e)) with
    | some i => some (0xB14, i)
    | none => match recs.findIdx? (fun e => (m.recShard (envBody e.1)).isNone) with
      | some i => some (0xB12, i)
      | none =>
        let has := fun (sh bit : Nat) => recs.any fun e => m.recShard (envBody e.1) = some sh && bitAt (rhContent (hd e)) bit
        if recs.all (fun e => rhStep (hd e) = slice mh 191 128) && m.owned.all (fun sh => has sh 0 && has sh 1) then none
        else some (0xB13, 0)

/-- R353, R428, R515: the import ends. `man` and `recs` are the envelopes fetched, their bodies in plaintext, each with whether
its tag, signature, certificate and hash verify. -/
def execImportDone (man : List Byte) (manOk : Bool) (recs : List (List Byte × Bool)) (s : State) : Host.Outcome State Fault Refusal :=
  lift (fun m =>
    if !(m.cmd 0x1406).busy || !m.owned.all (fun sh => m.copyOn (m.ownCopy sh)) then m
    else match m.importBad man manOk recs with
      | some p => m.finish 0x1406 p.1 p.2 []
      | none =>
        let mh := leNat ((envBody man).take 128)
        let bodies := recs.map fun e => envBody e.1
        let m := bodies.foldl Mod.importRec m
        let bare := m.owned.filter fun sh => !bodies.any fun b =>
          m.recShard b = some sh && bitAt (rhContent (leNat (b.take 128))) 2
        let m := bare.foldl Mod.emberFill m
        let m := (m.owned.map shTensor).eraseDups.foldl Mod.redoBias m
        let n := slice mh 191 128
        let m := { m with train := { m.train with step := n + 1, last := n, haveState := true, audited := none,
                                                  ls := BitVec.ofNat 32 (slice mh 287 256), clean := slice mh 319 288 } }
        m.finish 0x1406 0 0 []) s

/-! ### The cluster -/

/-- 0x1407: DIGEST_NOW asks for a digest round (R414). -/
def execDigestNow (ses seq : BitVec 32) (s : State) : Host.Outcome State Fault Refusal :=
  lift (fun m => m.invoke ses.toNat seq.toNat 0x1407 [2] false (fun a => a.isEmpty) fun m _ =>
    if m.cord.inst.isNone then .no m 0xF02 0 else .ok m.wantRound) s

/-- 0x1408: DECLARE_LOST (R418); it needs no quorum (R419). -/
def execDeclareLost (ses seq : BitVec 32) (s : State) : Host.Outcome State Fault Refusal :=
  lift (fun m => m.invoke ses.toNat seq.toNat 0x1408 [1] false (fun a => a.length = 2) fun m a =>
    if m.cord.inst.isNone || decide (m.nmod ≤ beNat a) then .no m 0xF05 0 else .ok (m.declareLost (beNat a) false)) s

/-- 0x1409: REPLACE (R424). A survivor takes the rank back with its new MODULE_ID, opens sessions and, as the lost rank's
partner, pairs; else it casts its restart vote once no rank is lost and no pairing of its own runs (log entry 114). The replacement itself applies it to its own entry. -/
def execReplace (ses seq : BitVec 32) (s : State) : Host.Outcome State Fault Refusal :=
  lift (fun m => m.invoke ses.toNat seq.toNat 0x1409 [2] false (fun a => a.length = 18) fun m a =>
    let r := byteN a 0 2
    let me := m.cord.inst.isSome && r = m.self
    if m.cord.inst.isSome && decide (m.nmod ≤ r) then .no m 0xF05 0
    else if m.cord.inst.isNone || (!me && (!m.clus.lost.contains r || !m.clus.repair)) || m.idOf r ≠ byteN a 2 8 then .no m 0xD11 0
    else if cPhase m.img = 1 then .no m 0xD12 0
    else
      let m := { m with clus := { m.clus with ids := tSet 0 m.clus.ids r (byteN a 10 8), lost := m.clus.lost.filter (· ≠ r),
                                              badQps := m.clus.badQps.filter (· ≠ r) } }
      let m := m.openSessions
      if me then .ok ({ m with clus := { m.clus with repl := true } }).pairStart
      else if m.partner = some r then .ok m.pairStart
      else if !m.clus.lost.isEmpty || m.clus.pair == .pairing then .ok m
      else .ok ({ m with clus := { m.clus with repair := false } }).restartVote) s

/-- 0x140A: CAPTURE (R247). -/
def execCapture (ses seq : BitVec 32) (s : State) : Host.Outcome State Fault Refusal :=
  lift (fun m => m.invoke ses.toNat seq.toNat 0x140A [2] false (fun a => a.length = 14) fun m a =>
    let hv := byteN a 0 2
    let off := byteN a 2 8
    let g0 := byteN a 10 1
    let ng := byteN a 11 1
    let n := byteN a 12 2
    let e := nth 0 m.hostvis hv
    if decide (m.hostvis.length ≤ hv) || slice e 3 0 ≠ 1 || slice (nth 0 m.hbmmap (slice e 19 4)) 11 4 ≠ 0xC || ng = 0 ||
        decide (128 < g0 + ng) then .no m 0xF05 0
    else if n = 0 || 4096 < n then .no m 0x16 0
    else if (m.hvRegion e).2 < off + 14336 * ng * n then .no m 0xF04 0
    else .ok { m with hbm := { m.hbm with capture := some { hv := hv, off := off, g0 := g0, ng := ng, left := n } } }) s

/-! ### Retirement -/

/-- States in which R564 lets HBM sets and flash dies be retired. -/
def Mod.mayRetire (m : Mod) : Bool := m.pow.state == .running || m.pow.state == .damped

/-- 0x140F: HBM_RETIRE (R297, R298). A return pending for the set is cancelled (R300). -/
def execHbmRetire (ses seq : BitVec 32) (s : State) : Host.Outcome State Fault Refusal :=
  lift (fun m => m.invoke ses.toNat seq.toNat 0x140F [3] true (fun a => a.length = 2) fun m a =>
    let c := beNat a
    if 384 ≤ c then .no m 0xF05 0
    else if !m.mayRetire then .no m 0x1201 0
    else
      .ok ((m.holdBack (psetOf c) false).retireChan c 0)) s

/-- 0x1410: HBM_RETURN (R300): while the set's retirement is in progress it is held pending. -/
def execHbmReturn (ses seq : BitVec 32) (s : State) : Host.Outcome State Fault Refusal :=
  lift (fun m => m.invoke ses.toNat seq.toNat 0x1410 [3] true (fun a => a.length = 1) fun m a =>
    let p := beNat a
    if 32 ≤ p then .no m 0xF05 0
    else if m.pow.state != .damped then .no m 0x1201 0
    else if m.retiring p then { status := 1, m := m.holdBack p true }
    else .ok { m with hbm := { m.hbm with retired := m.hbm.retired.filter (· ≠ p) } }) s

/-- 0x1411: FLASH_DIE_RETIRE (R322). -/
def execFlashDieRetire (ses seq : BitVec 32) (s : State) : Host.Outcome State Fault Refusal :=
  lift (fun m => m.invoke ses.toNat seq.toNat 0x1411 [3] true (fun a => a.length = 1) fun m a =>
    if 64 ≤ beNat a then .no m 0xF05 0
    else if !m.mayRetire then .no m 0x1201 0
    else .ok (m.retireFlash (beNat a) false)) s

/-- A die returns to f = 64 (R564): the hearths behind the retired column lie on their own columns again, the spare column is
unused. -/
def Mod.unmap (m : Mod) (d : Nat) : Mod :=
  let x := m.die d
  let moved := (m.movers d x.f).map fun h => (h, m.physHearth d (hRow h) (hCol h))
  let last := fun (h : Nat) => { (m.hearth h).kept with scrub := (m.hearth h).scrub }
  let ends := (m.grid.hearths.map Prod.fst).filter fun h => decide (h < 8192 ∧ hDie h = d ∧ hCol h = 63)
  let spares := ends.foldl (fun t h => tSet {} t (hRow h) (last h)) []
  let m := (m.setDie d { x with f := 64, cause := [], spares := spares }).event 0x8203 d 64
  moved.foldl (fun m p => m.settleOn p.1 p.2) m

/-- 0x1412: COLUMN_RETIRE (R564). `fails`: the retired column fails the self-test that PCOL 64 runs. -/
def execColumnRetire (ses seq : BitVec 32) (fails : Bool) (s : State) : Host.Outcome State Fault Refusal :=
  lift (fun m => m.invoke ses.toNat seq.toNat 0x1412 [3] true (fun a => a.length = 2) fun m a =>
    let d := byteN a 0 1
    let p := byteN a 1 1
    let x := m.die d
    if 1 < d || 64 < p then .no m 0xF05 0
    else if m.pow.state != .damped then .no m 0x1201 0
    else if m.cord.inst.isSome then .no m 0x1202 0
    else if p < 64 then (if x.f = 64 && x.sound then .ok (m.remap d p []) else .no m 0x1203 0)
    else if x.f = 64 then .ok m
    else if fails then .no m 0x1206 0
    else .ok (m.unmap d)) s

/-! ### The peat tier's switch (R323) -/

/-- PEAT_EN. -/
def Mod.writePeatEn (m : Mod) (v : Nat) : WOut :=
  let p := m.peat
  let put := fun (q : PeatSt) => { m with peat := q }
  if v = 0 then
    if m.cord.inst.isSome && cPeat m.img then { status := 0xA01, m := m }
    else match p.state with
      | .on => { status := 0, m := put { p with state := .shutting } }
      | .shutting => { status := 0, m := put { p with pendOn := false } }
      | .off => { status := 0, m := m }
  else match p.state with
    | .on => { status := 0, m := m }
    | .shutting => { status := 1, m := put { p with pendOn := true } }
    | .off => { status := 0, m := put { p with state := .on } }

/-- R323: every dirty turf is written back and no rebuild runs: the flash is powered down; a pending request takes effect. -/
def execPeatOffDone (s : State) : Host.Outcome State Fault Refusal :=
  lift (fun m =>
    let p := m.peat
    if p.state != .shutting || p.rebuild.isSome || p.slots.any (fun q => q.2.dirty || q.2.wb) then m
    else { m with peat := { p with state := if p.pendOn then .on else .off, pendOn := false } }) s

end Sys2Proof.Machine
end

