-- ==== Sys2Proof/Machine/Ptp.lean ====
section
/-! DEFINITION. PTP and the tick source (R377 to R379, R447, R551): synchronisation, locking, holdover, the leader's messages, PPS_IN and PPS_OUT. -/

namespace Sys2Proof.Machine

/-- A PTP message of the module on an interface (R447): its type, domain, clock identity and PTP time; two-step, so a Sync and a
Delay_Req only mark an instant. -/
def Mod.ptpOut (m : Mod) (i kind : Nat) : Mod :=
  m.put (.ptp i kind m.tick.domain (eui64 m.eth.mac.toNat) (m.tick.epoch.getD 0 + m.tick.now))

/-- The interface of the best Announce, the lowest rank of the best master clock algorithm; 255 with none. -/
def bestIface (l : Tbl (BitVec 144)) : Nat :=
  (l.foldl (fun (b : Nat × BitVec 144) p => if p.2.ult b.2 then p else b) (255, BitVec.allOnes 144)).1

/-- Calendar time becomes known: a locked follower whose leader announces the PTP timescale (R551). -/
def Mod.learnTime (m : Mod) : Mod :=
  let t := m.tick
  if t.date.isSome || t.src ≠ 1 || !t.locked || !t.scale.contains t.iface then m
  else
    let e := t.epoch.getD 0
    (({ m with tick := { t with date := some e } }).journal 5 (leBytes 8 e)).event 0x8A09 m.pow.powerUps 0

/-- A synchronisation of a follower (R378): `off` is the measured offset in ns from the leader, `time` the leader's time. The
clock steps only with no cord installed; else it slews by at most 100 ppm of the Sync interval (log entry 61). -/
def Mod.synchronise (m : Mod) (off : Int) (time : Nat) : Mod :=
  let t := m.tick
  let n := if off.natAbs ≤ 40 then Nat.min 16 (t.inLock + 1) else 0
  let most := 100000 / 2 ^ (0 - t.syncLog).toNat
  let slew : Int := if (most : Int) < -off then most else if -off < -(most : Int) then -(most : Int) else -off
  let e : Nat := if m.cord.inst.isNone then time - t.now else ((t.epoch.getD 0 : Nat) + slew).toNat
  ({ m with tick := { t with offset := off, inLock := n, locked := decide (16 ≤ n), hold := false, holdNs := 0,
                             holdEnd := false, epoch := some e } }).learnTime

/-- R377, R378, R447: a PTP event arrives on an interface, by its message type: 0xB an Announce of some rank (`ptp`: it
announces the PTP timescale), 0x8 the Follow_Up that completes a synchronisation with its measured offset and the leader's
time, which a follower follows with a Delay_Req, 0x1 a Delay_Req that a leader answers. A Sync and a Delay_Resp only carry timestamps for those (log entry 61). -/
def execPtpMessageReceive (i : Fin 32) (domain : BitVec 8) (type : BitVec 4) (rank : BitVec 144) (ptp : Bool) (off : BitVec 64)
    (time : BitVec 63) (s : State) : Host.Outcome State Fault Refusal :=
  lift (fun m =>
    let t := m.tick
    if !m.pow.collier || !(m.iface i.val).up || domain.toNat ≠ t.domain then m
    else match type.toNat with
      | 0xB =>
        if t.src ≠ 1 then m
        else
          let ann := tSet 0 t.ann i.val rank
          let rest := t.scale.filter (· ≠ i.val)
          { m with tick := { t with ann := ann, iface := bestIface ann, scale := if ptp then rest ++ [i.val] else rest } }
      | 0x8 => if t.src = 1 && t.iface = i.val then (m.synchronise off.toInt time.toNat).ptpOut i.val 0x1 else m
      | 0x1 => if t.src = 2 then m.ptpOut i.val 0x9 else m
      | _ => m) s

/-- R378, R447: the Announces of an interface have stopped: synchronisation moves to another, or holdover begins. -/
def execPtpAnnounceTimeout (i : Fin 32) (s : State) : Host.Outcome State Fault Refusal :=
  lift (fun m =>
    let t := m.tick
    let ann := tSet 0 t.ann i.val 0
    let best := bestIface ann
    if t.src ≠ 1 || t.ann = ann then m
    else
      let lost := best = 255
      { m with tick := { t with ann := ann, scale := t.scale.filter (· ≠ i.val), iface := best, hold := lost || t.hold,
                                locked := t.locked && !lost, inLock := if lost then 0 else t.inLock } }) s

/-- R447: as leader the module sends Sync, its Follow_Up and Announce on every up interface. -/
def execPtpSyncSend (s : State) : Host.Outcome State Fault Refusal :=
  lift (fun m =>
    if m.tick.src ≠ 2 || !m.pow.collier then m
    else (m.eth.ifs.filter fun p => p.2.up).foldl (fun (m : Mod) p =>
      ((m.ptpOut p.1 0x0).ptpOut p.1 0x8).ptpOut p.1 0xB) m) s

/-- The tick is the update tick of some tensor in an attempt (R384). -/
def Mod.updateTick (m : Mod) : Bool :=
  m.train.tickK.isSome && m.sched.any fun e => slice e 3 0 = 4 && slice e 19 4 = m.tick.k

/-- R378, R397: after 10 s of holdover the module departs, in an update tick at its end, and stops its cord at the end of the tick. -/
def execHoldoverEnd (s : State) : Host.Outcome State Fault Refusal :=
  lift (fun m =>
    let t := m.tick
    if !t.hold || t.holdEnd || decide (t.holdNs < 10000000000) then m
    else
      let m := ({ m with tick := { t with holdEnd := true } }).event 0x810C 0 t.cnt.toNat
      let m := if m.updateTick then { m with train := { m.train with departDue := true } } else m.depart
      if m.pow.state = .running then m.stopAtEnd 0x810C false else m) s

/-- TICK_SRC (R379). -/
def Mod.writeTickSrc (m : Mod) (v : Nat) : WOut :=
  if 2 < v then { status := 0x16, m := m }
  else if v = m.tick.src then { status := 0, m := m }
  else if m.cord.inst.isSome then { status := 0xC03, m := m }
  else
    let t := { m.tick with src := v, locked := false, inLock := 0, hold := false, holdNs := 0, holdEnd := false, ann := [],
                           scale := [], iface := 255 }
    { status := 0, m := { m with tick := t } }

/-- R377: a rising edge of PPS_IN. With PPS_IN enabled and 1 s a whole multiple of T a local tick source puts a boundary on it;
a leader takes its second from it. -/
def execPpsInEdge (s : State) : Host.Outcome State Fault Refusal :=
  lift (fun m =>
    if !m.pow.collier || !m.tick.ppsEn then m
    else
      let t := m.tick
      let e := match t.src with
        | 2 =>
          let n := (t.epoch.getD 0 + t.now + 500000000) / 1000000000 * 1000000000
          some (if n < t.now then 1000000000 - t.now % 1000000000 else n - t.now)
        | _ => t.epoch
      { m with tick := { t with ppsEdge := some t.now, epoch := e } }) s

/-- R543: at a PTP second PPS_OUT is high for 100 ms while the module is locked or leader (`on`), then low again. -/
def execPpsOutPulse (on : Bool) (s : State) : Host.Outcome State Fault Refusal :=
  lift (fun m =>
    if m.pow.pps == .z then m
    else { m with pow := { m.pow with pps := if on && (m.tick.locked || m.tick.src = 2) then .high else .low } }) s

end Sys2Proof.Machine
end

