-- ==== Sys2Proof/Machine/Trust.lean ====
section
/-! DEFINITION. Trust (chapter 17): KEX between modules, binding, attestation, the job key, debug states, zeroisation, firmware updates. What a cipher, a signature or a certificate verifies comes as an operand (log entry 40). -/

namespace Sys2Proof.Machine

/-! ### KEX (R507 to R510); the layout of its messages is log entry 42 -/

def kexType (k : List Byte) : Nat := leNat (k.take 1)
def kexRank (k : List Byte) : Nat := beNat ((k.drop 9).take 2)
/-- Ephemeral point, nonce and address list of a KEX2, which follow its rank; their length and count of addresses. -/
def kex2Naddr (k : List Byte) : Nat := leNat ((k.drop 176).take 1)
def kex2Part (k : List Byte) : List Byte := (k.drop 11).take (166 + 17 * kex2Naddr k)
/-- Certificate and signed report that end a KEX2 or a KEX3, from offset `o`. -/
def kexProof (k : List Byte) (o : Nat) : List Byte := k.drop o
def kexReport (p : List Byte) : List Byte := (p.drop (2 + beNat (p.take 2))).take 256

/-- Certificate with its length, and a signed report over a transcript. -/
def Mod.kexTell (m : Mod) (t : List Byte) : List Byte × Mod :=
  let g := m.signedReport (sha512 t)
  (beBytes 2 m.cert.length ++ m.cert ++ g.1, g.2)

/-- The address list that a peer has sent. -/
def Mod.learnAddrs (m : Mod) (r n : Nat) (l : List Byte) : Mod :=
  { m with eth := { m.eth with addrs := tSet [] m.eth.addrs r (addrsOf n l) } }

/-- A KEX fails (R508, R509): SESSION_FAIL, and when the peer is the partner PAIR_RANK where its identity is not the MODULE_ID of the rank,
else PAIR_SESSION (R407); it is tried again 1 s later at the peer's next address (R442). -/
def Mod.kexFail (m : Mod) (r code : Nat) : Mod :=
  let x := m.msess r
  let m := ((m.setMsess r { x with kex := .none, kexAt := m.tick.now, trans := [], tryNo := x.tryNo + 1 }).dropKex r).event 0x8B02 r code
  if m.partner = some r && m.clus.pair == .pairing then m.failPair (if code = 0x1013 then 0xD02 else 0xD07) else m

/-- R509: what refuses a peer's certificate and report over a transcript, in ascending order of code. -/
def Mod.peerBad (m : Mod) (r : Nat) (rep t : List Byte) (certOk sigOk : Bool) : Option Nat :=
  let n := leNat rep
  let cords := [cId m.img] ++ match m.cord.succ with
    | some k => [cId (m.cordIn k)]
    | none => []
  let st := slice n 55 48
  if !certOk then some 0x1011
  else if !sigOk || slice n 1919 1408 ≠ leNat (sha512 t) then some 0x1012
  else if slice n 127 64 ≠ m.idOf r then some 0x1013
  else if slice n 895 384 ≠ leNat (m.sec.ownerId.take 64) then some 0x1014
  else if st ≠ m.sec.state || 1 < st then some 0x1015
  else if !cords.contains (slice n 255 192) then some 0x1016
  else none

/-- A KEX message is for this module: a cord is installed, its rank participates and is another. -/
def Mod.kexFor (m : Mod) (r : Nat) : Bool :=
  m.cord.inst.isSome && decide (r < m.nmod) && r != m.self && !m.clus.lost.contains r

/-- R508 step 2: KEX1 from a lower rank is answered with KEX2. -/
def execKex1Receive (k : List Byte) (s : State) : Host.Outcome State Fault Refusal :=
  lift (fun m =>
    let r := kexRank k
    if kexType k ≠ 1 || !m.kexFor r || decide (m.self ≤ r) then m
    else
      let m := m.learnAddrs r (leNat ((k.drop 184).take 1)) (k.drop 185)
      let e := m.draw 1056
      let n := e.2.draw 256
      let m := n.2
      let part := pointBytes e.1 ++ leBytes 32 n.1 ++ leBytes 1 m.addrCount ++ m.addrList
      let p := m.kexTell (k ++ part)
      let m := p.2
      let msg := leBytes 1 2 ++ beBytes 8 m.sec.id ++ beBytes 2 m.self ++ part ++ p.1
      (m.setMsess r { m.msess r with kex := .sent2, kexAt := m.tick.now, trans := k ++ part ++ p.1 }).sendKex r msg) s

/-- R508 step 3: the lower rank checks KEX2 and sends KEX3. -/
def execKex2Receive (k : List Byte) (certOk sigOk : Bool) (s : State) : Host.Outcome State Fault Refusal :=
  lift (fun m =>
    let r := kexRank k
    let x := m.msess r
    if kexType k ≠ 2 || !m.kexFor r || x.kex != .sent1 then m
    else
      let part := kex2Part k
      let proof := kexProof k (11 + part.length)
      let t2 := x.trans ++ part
      match m.peerBad r (kexReport proof) t2 certOk sigOk with
      | some c => m.kexFail r c
      | none =>
        let m := m.learnAddrs r (kex2Naddr k) (part.drop 166)
        let t3 := t2 ++ proof
        let p := m.kexTell t3
        let m := p.2
        let msg := leBytes 1 3 ++ beBytes 8 m.sec.id ++ beBytes 2 m.self ++ p.1
        (m.setMsess r { m.msess r with kex := .sent3, trans := t3 ++ p.1 }).sendKex r msg) s

/-- The session is open at this end; pairing goes on when it is the partner's (R405, R508). -/
def Mod.kexDone (m : Mod) (r : Nat) : Mod := ((m.sessionOpen r).sendHello).pairCheck

/-- R508 step 4: the higher rank checks KEX3, derives the keys and sends an empty sealed message. -/
def execKex3Receive (k : List Byte) (certOk sigOk : Bool) (s : State) : Host.Outcome State Fault Refusal :=
  lift (fun m =>
    let r := kexRank k
    let x := m.msess r
    if kexType k ≠ 3 || !m.kexFor r || x.kex != .sent2 then m
    else
      match m.peerBad r (kexReport (kexProof k 11)) x.trans certOk sigOk with
      | some c => m.kexFail r c
      | none =>
        let late := x.out.filter fun p => p.2.1.isSome
        let m := ((m.setMsess r { x with out := late }).sessionOpen r).sendTo r 0 []
        let m := m.sendHello.pairCheck
        (x.out.filter fun p => p.2.1.isNone).foldl (fun (m : Mod) p => m.sendOut r p) m) s

/-- R508 step 5: the empty sealed message verifies and the session is open at the lower rank too. -/
def execKexConfirmReceive (r : BitVec 12) (ok : Bool) (s : State) : Host.Outcome State Fault Refusal :=
  lift (fun m =>
    let r := r.toNat
    if (m.msess r).kex != .sent3 || !ok then m
    else
      let m := m.kexDone r
      m.setMsess r { m.msess r with rx := tSet 0 (m.msess r).rx 0 1 }) s

/-- R508: a KEX not complete in 2 s fails; 1 s after a failure the next one begins. -/
def execKexTimeout (r : BitVec 12) (s : State) : Host.Outcome State Fault Refusal :=
  lift (fun m =>
    let r := r.toNat
    let x := m.msess r
    if x.kex != .none then (if x.kexAt + 2000000000 ≤ m.tick.now then m.kexFail r 0x1017 else m)
    else if m.cord.inst.isSome && !x.open' && m.needs.contains r && decide (x.kexAt + 1000000000 ≤ m.tick.now) then m.startKex r
    else m) s

/-! ### Zeroisation (R520, R521) -/

/-- Steps 1 and 2 of R520: the marker, the keys, the turf map, on-die memories, module sessions, the cord. Counters stand (R487; log entry 115). -/
def Mod.zeroStart (m : Mod) (cmd : Nat) : Mod :=
  let m := ((m.journal 6 (leBytes 4 cmd)).uninstall).clearArrays fun _ => true
  let s := m.sec
  { m with sec := { s with job := none, jobId := 0, sealed := 0, peat := none, sess := [], zero := some cmd },
           dieN := { m.dieN with words := [] }, dieS := { m.dieS with words := [] },
           peat := { m.peat with flash := [], map := [], slots := [], waitQ := [], lost := [] },
           hbm := { m.hbm with settle := [], pinned := [], restore := [], wrote := [] },
           cord := { m.cord with slot0 := {}, slot1 := {}, load := none },
           train := { m.train with haveState := false, exports := [], decided := [] } }

/-- Steps 3 and 4: HBM, a fresh peat key unless the module is being unbound; the marker is cleared. -/
def Mod.zeroEnd (m : Mod) (cmd : Nat) : Mod :=
  let m := { m with hbm := { m.hbm with mem := [], bad := [], totals := [], totNow := [] } }
  let m : Mod := if cmd = 0x1414 || m.sec.owner.isEmpty then m
    else
      let d := m.openVal
      { d.2 with sec := { d.2.sec with peat := some d.1 } }
  ({ m with sec := { m.sec with zero := none } }).event 0x8B05 cmd 0

/-- UNBIND erases the binding (R504). -/
def Mod.unbind (m : Mod) : Mod :=
  ({ m with sec := { m.sec with owner := [], ownerId := [], opList := [], hosts := [], peat := none, job := none, jobId := 0 } }).event
    0x8B01 0 0

/-- R520 steps 3 to 5: HBM zeroing ends, the command's own effect follows, its RESULT is sent, other sessions close. -/
def execZeroiseDone (s : State) : Host.Outcome State Fault Refusal :=
  lift (fun m => match m.sec.zero with
    | none => m
    | some cmd =>
      let c := m.cmd cmd
      let target := beNat (c.arg.take 1)
      let m := m.zeroEnd cmd
      match cmd with
      | 0x1414 => (m.unbind.finish cmd 0 0 []).closeAllKop
      | _ =>
        let m : Mod := match cmd with
          | 0x1419 => ({ m with sec := { m.sec with state := target, dbgBind := true } }).event 0x8B04 target 0
          | 0x141A => ({ m with sec := { m.sec with state := 0 } }).event 0x8B04 0 0
          | _ => m
        let m := m.finish cmd 0 0 []
        (m.kop.sess.map Prod.fst).foldl (fun (m : Mod) n => if n = c.ses then m else m.closeKop n) m) s

/-- Damped or Fault: the states that R520 asks for. -/
def Mod.mayZero (m : Mod) : Bool := m.pow.state == .damped || m.pow.state == .fault

/-- 0x141B: ZEROISE. -/
def execZeroise (ses seq : BitVec 32) (s : State) : Host.Outcome State Fault Refusal :=
  lift (fun m => m.invoke ses.toNat seq.toNat 0x141B [2] true (fun a => a.isEmpty) fun m _ =>
    if !m.mayZero then .no m 0x1004 0 else .go (m.zeroStart 0x141B)) s

/-- 0x1414: UNBIND (R504). -/
def execUnbind (ses seq : BitVec 32) (s : State) : Host.Outcome State Fault Refusal :=
  lift (fun m => m.invoke ses.toNat seq.toNat 0x1414 [2] true (fun a => a.isEmpty) fun m _ =>
    if m.sec.owner.isEmpty then .no m 0x1002 0
    else if !m.mayZero then .no m 0x1004 0 else .go (m.zeroStart 0x1414)) s

/-- 0x141A: DEBUG_LOCK (R519). -/
def execDebugLock (ses seq : BitVec 32) (s : State) : Host.Outcome State Fault Refusal :=
  lift (fun m => m.invoke ses.toNat seq.toNat 0x141A [2, 3] true (fun a => a.isEmpty) fun m _ =>
    if !m.mayZero then .no m 0x1004 0 else .go (m.zeroStart 0x141A)) s

/-- 0x1418: DEBUG_CHALLENGE returns a nonce; a newer one voids it (R519). -/
def execDebugChallenge (ses seq : BitVec 32) (s : State) : Host.Outcome State Fault Refusal :=
  lift (fun m => m.invoke ses.toNat seq.toNat 0x1418 [3] true (fun a => a.isEmpty) fun m _ =>
    let d := m.draw 256
    let n := leBytes 32 d.1
    { status := 0, result := n, m := { d.2 with sec := { d.2.sec with nonce := some (n, d.2.tick.now) } } }) s

/-- The owner's signature of a DEBUG_UNLOCK over MODULE_ID, TARGET, the nonce in force and its text verifies (R519). -/
def Mod.unlockSigned (m : Mod) (a : List Byte) : Bool :=
  ecdsaOk m.sec.owner (beBytes 8 m.sec.id ++ a.take 1 ++ (match m.sec.nonce with | some p => p.1 | none => []) ++ ascii "IL4800 debug")
    ((a.drop 1).take 132)

/-- 0x1419: DEBUG_UNLOCK (R519). `svcOk`: the Service signature verifies over the same bytes, under the key of the session's credential. -/
def execDebugUnlock (ses seq : BitVec 32) (svcOk : Bool) (s : State) : Host.Outcome State Fault Refusal :=
  lift (fun m => m.invoke ses.toNat seq.toNat 0x1419 [3] true (fun a => a.length = 265) fun m a =>
    let t := byteN a 0 1
    let live := match m.sec.nonce with
      | some p => decide (m.tick.now ≤ p.2 + 300000000000)
      | none => false
    if m.sec.owner.isEmpty then .no m 0x1002 0
    else if !m.mayZero then .no m 0x1004 0
    else if t = 0 || 2 < t then .no m 0x16 0
    else if !live || !svcOk || !m.unlockSigned a then .no { m with sec := { m.sec with nonce := none } } 0x1006 0
    else .go ({ m with sec := { m.sec with nonce := none } }.zeroStart 0x1419)) s

/-! ### Binding, attestation, the job key -/

/-- The proof of a BIND verifies: the point is on the curve and has signed MODULE_ID, itself and the text of R502. -/
def Mod.bindProof (m : Mod) (a : List Byte) : Bool :=
  let p := a.take 133
  ecOn p && ecdsaOk p (beBytes 8 m.sec.id ++ p ++ ascii "IL4800 bind") (a.drop 133)

/-- 0x1413: BIND (R502). `kept`: the journal takes the owner's point; where that write fails the module stays unbound (R476; log
entry 132). -/
def execBind (ses seq : BitVec 32) (kept : Bool) (s : State) : Host.Outcome State Fault Refusal :=
  lift (fun m => m.invoke ses.toNat seq.toNat 0x1413 anyRole true (fun a => a.length = 265) fun m a =>
    if !m.sec.owner.isEmpty then .no m 0x1001 0
    else if !m.bindProof a then .no m 0x1003 0
    else if m.pow.state != .damped || m.cord.inst.isSome then .no m 0x1004 0
    else if !kept then .no m 0x1D 0
    else
      let p := a.take 133
      let d := m.openVal
      let m := { d.2 with sec := { d.2.sec with owner := p, ownerId := sha512 p, peat := some d.1, dbgBind := false },
                          peat := { d.2.peat with flash := [], map := [], slots := [], waitQ := [], lost := [] } }
      .ok (m.event 0x8B01 1 0)) s

/-- 0x1415: ATTEST (R511). During a zeroisation it waits for its last step (R527). -/
def execAttest (ses seq : BitVec 32) (s : State) : Host.Outcome State Fault Refusal :=
  lift (fun m =>
    if m.sec.zero.isSome then m
    else m.invoke ses.toNat seq.toNat 0x1415 anyRole true (fun a => a.length = 64) fun m a =>
      let g := m.signedReport a
      { status := 0, result := g.1, m := g.2 }) s

/-- The job key may change: Damped, and nothing that uses it runs (R523). -/
def Mod.mayKey (m : Mod) : Bool :=
  m.pow.state == .damped && !(m.cmd 0x1405).busy && !(m.cmd 0x1406).busy && m.clus.ckpt.isNone

/-- 0x1416: JOB_KEY_SET (R516). `opens`: WRAPPED opens and JOB_KEY_ID is that of the key. -/
def execJobKeySet (ses seq : BitVec 32) (opens : Bool) (s : State) : Host.Outcome State Fault Refusal :=
  lift (fun m => m.invoke ses.toNat seq.toNat 0x1416 [2] false (fun a => a.length = 189) fun m a =>
    if m.sec.owner.isEmpty then .no m 0x1002 0
    else if !m.mayKey then .no m 0x1004 0
    else if !opens then .no m 0x1005 0
    else
      let d := m.openVal
      let id := byteN a 133 8
      let m := { d.2 with sec := { d.2.sec with job := some d.1, jobId := id, sealed := 0 } }
      .ok (m.event 0x8B09 (id % 2 ^ 32) 0)) s

/-- 0x1417: JOB_KEY_CLEAR. -/
def execJobKeyClear (ses seq : BitVec 32) (s : State) : Host.Outcome State Fault Refusal :=
  lift (fun m => m.invoke ses.toNat seq.toNat 0x1417 [2] false (fun a => a.isEmpty) fun m _ =>
    if !m.mayKey then .no m 0x1004 0
    else .ok (({ m with sec := { m.sec with job := none, jobId := 0, sealed := 0 } }).event 0x8B09 0 0)) s

/-! ### Firmware (R499, R500) -/

/-- Header fields of a firmware image. -/
def fwKind (h : Nat) : Nat := slice h 39 32
def fwVersion (h : Nat) : Nat := slice h 95 64
def fwRoll (h : Nat) : Nat := slice h 127 96
def fwLen (h : Nat) : Nat := slice h 159 128

/-- Bytes of a firmware image: header, body, signature (R499). -/
def fwSize (h : Nat) : Nat := 128 + fwLen h + 132

/-- Bytes of an image pair. -/
def fwPair (l : List Byte) : Nat :=
  let n1 := fwSize (leNat (l.take 128))
  n1 + fwSize (leNat ((l.drop n1).take 128))

/-- Bytes of a bank (R498). -/
def bankBytes : Nat := 33554432

/-- An image pair, kindling first: what R499 finds wrong of it, besides the signatures of which `sigOk` tells; a pair that a bank does
not hold is none (log entry 127). -/
def fwBad (l : List Byte) (sigOk : Bool) (roll : Nat) : Option Nat :=
  let h1 := leNat (l.take 128)
  let h2 := leNat ((l.drop (fwSize h1)).take 128)
  let good := fun (h kind : Nat) => slice h 31 0 = 0x4D524946 && fwKind h = kind
  if !sigOk || !good h1 1 || !good h2 2 || decide (l.length < fwPair l) || decide (bankBytes < fwPair l) then some 0x1007
  else if fwRoll h1 < roll || fwRoll h2 < roll then some 0x1008
  else none

/-- A bank that holds an image pair (R498): VERSION and ROLLBACK of the collier image, the SHA-512 of both images. -/
def fwBank (l : List Byte) : BankSt :=
  let h2 := leNat ((l.drop (fwSize (leNat (l.take 128)))).take 128)
  let l := l.take (fwPair l)
  { words := bytesWords (ceilDiv l.length 4) l, good := true, ver := fwVersion h2, roll := fwRoll h2, hash := sha512 l }

def Mod.bank (m : Mod) (n : Nat) : BankSt := if n = 0 then m.sec.bank0 else m.sec.bank1
def Mod.setBank (m : Mod) (n : Nat) (b : BankSt) : Mod :=
  { m with sec := if n = 0 then { m.sec with bank0 := b } else { m.sec with bank1 := b } }

/-- 0x141C: FW_UPDATE (R500). In Fault an Owner's is answered with KOP_STATE (R486). -/
def execFwUpdate (ses seq : BitVec 32) (s : State) : Host.Outcome State Fault Refusal :=
  lift (fun m => m.invoke ses.toNat seq.toNat 0x141C [2, 3] true (fun a => a.length = 18) fun m a =>
    if m.pow.state = .fault && (m.ksess ses.toNat).role = 2 then .no m 0x1B 0
    else if (m.qp (byteN a 0 2)).run == .free then .no m 0xF05 0
    else .go (m.rdmaIn (byteN a 0 2) (byteN a 2 4) (byteN a 6 8) (byteN a 14 4))) s

/-- R500: the fetched pair (none: the fetch failed) is verified and written to the inactive bank, which is marked trial. -/
def execFwStaged (img : Option (List Byte)) (sigOk : Bool) (s : State) : Host.Outcome State Fault Refusal :=
  lift (fun m =>
    if !(m.cmd 0x141C).busy then m
    else match img with
      | none => m.finish 0x141C 0x1007 0 []
      | some l => match fwBad l sigOk m.sec.roll with
        | some c => m.finish 0x141C c 0 []
        | none =>
          let n := 1 - m.sec.active
          let b := fwBank l
          let m := m.setBank n b
          let m := ({ m with sec := { m.sec with trial := true } }).event 0x8B06 b.ver n
          m.finish 0x141C 0 0 []) s

end Sys2Proof.Machine
end

