-- ==== Sys2Proof/Machine/Power.lean ====
section
/-! DEFINITION. Power, states, reset and lifetime (chapter 18): caps and the power loop, temperature, dips and input loss, start-up with the boot chain of R498 and the self-test of R562, resets, draining, the lifetime journal. -/

namespace Sys2Proof.Machine

/-! ### Caps (R530) -/

/-- The derate caps of R530 at an input of mv millivolts: V squared in 10⁻⁶ V². -/
def derateCap (mv : Nat) : Nat := 2600 * (mv * mv - 2500000000) / 1596000000
def autoCap (mv : Nat) : Nat := Nat.min 2600 (975 * (mv * mv - 2500000000) / 1000000000)

/-- The caps that apply, each with its number in the order of R530. -/
def PowSt.caps (p : PowSt) : List (Nat × Nat) :=
  [(0, 2600)] ++ (if p.policy ≠ 2 ∧ 60000 ≤ p.inMv ∧ p.inMv < 64000 then [(1, derateCap p.inMv)] else []) ++
    (if p.policy = 2 ∧ 60000 ≤ p.inMv then [(2, autoCap p.inMv)] else []) ++
    (if p.policy = 1 then [(3, p.capW)] else []) ++ (if p.recover then [(4, 1000)] else [])

/-- The lowest cap and its number. -/
def PowSt.least (p : PowSt) : Nat × Nat := p.caps.foldl (fun a c => if c.2 < a.2 then c else a) (0, 2600)

/-- The number of POWER_STATE (R552). -/
def PowSt.mode (p : PowSt) : Nat :=
  if p.swOpen then 3 else if p.recover then 4 else if p.inClass == .derated then 1 else if p.least.1 = 3 then 2 else 0

/-- An event that R530 and R545 let be raised once per second at most may be raised. -/
def Mod.secondOver (m : Mod) (t : Option Nat) : Bool :=
  match t with
  | none => true
  | some t => decide (t + 1000000000 ≤ m.tick.now)

/-- The cap in force and POWER_STATE after a change of what they follow; CAP_CHANGE. -/
def Mod.setCap (m : Mod) : Mod :=
  let c := m.pow.least
  let old := m.pow.cap
  let m := { m with pow := { m.pow with cap := c.2, pstate := m.pow.mode } }
  if old ≠ c.2 && m.pow.collier && m.secondOver m.pow.capAt then
    ({ m with pow := { m.pow with capAt := some m.tick.now } }).event 0x8A05 c.2 c.1
  else m

/-- A static cord is installed: caps and throttling act through the setting of both dies (R531, R545). -/
def Mod.staticOn (m : Mod) : Bool := m.cord.inst.isSome && cStatic m.img

/-- The setting that the power loop holds both dies at, one step down while the average exceeds the cap, one step up while it
stays below 90 % of it (R531). -/
def Mod.powerStep (m : Mod) (w : Nat) : Mod :=
  let k := Nat.min (m.dieN.powK.getD m.dieN.k) (m.dieS.powK.getD m.dieS.k)
  let aim : Option Nat :=
    if m.pow.cap < w then some (k - 1) else if 10 * w < 9 * m.pow.cap then (if 15 ≤ k then none else some (k + 1)) else m.dieN.powK
  (m.protect 0 m.dieN.prot aim).protect 1 m.dieS.prot aim

/-- R528, R530, R531, R535: the power loop's measurement every 10 us: filtered input in mV, input current in mA, the 1 ms
average in W, the bus in mV. `dN`, `dS` are the duties its control sets in dataflow firing, in 256ths, which the manual leaves
open; `step`: 100 us have passed since the setting last fell, 10 ms for a rise. Recovery ends at a bus of 64.0 V. -/
def execPowerLoopUpdate (inMv inMa w busMv : BitVec 17) (dN dS : Fin 257) (step : Bool) (s : State) :
    Host.Outcome State Fault Refusal :=
  lift (fun m =>
    if m.pow.state = .off then m
    else
      let p := { m.pow with inMv := inMv.toNat, inMa := inMa.toNat, inW := w.toNat, busMv := busMv.toNat,
                            recover := m.pow.recover && decide (busMv.toNat < 64000) }
      let m := ({ m with pow := p }).setCap
      if m.staticOn then
        let m := { m with pow := { m.pow with dutyN := 256, dutyS := 256 } }
        if step then m.powerStep w.toNat else m
      else
        let m := { m with pow := { m.pow with dutyN := dN.val, dutyS := dS.val } }
        (m.protect 0 m.dieN.prot none).protect 1 m.dieS.prot none) s

/-! ### Temperature (R544 to R546) -/

/-- The highest of some readings, in tenths of a degree. -/
def hottest (l : List (BitVec 12)) (d : Int) : Int := (l.map BitVec.toInt).foldl max d

/-- Thermal duty in 256ths at T tenths of a degree, in steps of 1/16 (R545). -/
def thermDuty (t : Int) : Nat := if t < 950 then 256 else 16 * (16 * (1050 - t) / 100).toNat

/-- The setting that static firing is held at (R545). -/
def thermK (t : Int) : Option Nat := if t < 950 then none else some (16 - (t.toNat - 950 + 9) / 10)

/-- Thermal cycles (R553): a rise of 40 degrees or more and then a fall of as much is one. -/
def PowSt.cycle (p : PowSt) (t : Int) : PowSt :=
  if p.cycUp then
    if t + 400 ≤ p.cycHigh then { p with cycles := p.cycles + 1, cycUp := false, cycLow := some t }
    else { p with cycHigh := max p.cycHigh t }
  else
    let low := min (p.cycLow.getD t) t
    if low + 400 ≤ t then { p with cycUp := true, cycHigh := t, cycLow := some low } else { p with cycLow := some low }

/-- Both gates at duty 0, both dies at setting 0 (R546). -/
def Mod.coolDown (m : Mod) : Mod :=
  let m := { m with pow := { m.pow with thermN := 0, thermS := 0 } }
  (m.protect 0 (some 0) m.dieN.powK).protect 1 (some 0) m.dieS.powK

/-- A thermal trip (R546); before the collier starts it is held. -/
def Mod.tripAt (m : Mod) (d : Nat) (t : Int) : Mod :=
  let m := { m with pow := { m.pow with trips := m.pow.trips + 1 } }.coolDown
  if m.pow.collier then (m.event 0x8A07 d t.toNat).enterFault 0x1125
  else { m with pow := { m.pow with trip := true, tripOf := (d, t.toNat), faultN := .low } }

/-- THERMAL_THROTTLE of the dies whose throttling changed. -/
def Mod.throttled (m : Mod) (old : PowSt) (kOld : Option Nat × Option Nat) (tN tS : Int) : Mod :=
  let dn := decide (old.thermN ≠ m.pow.thermN) || decide (kOld.1 ≠ m.dieN.prot)
  let ds := decide (old.thermS ≠ m.pow.thermS) || decide (kOld.2 ≠ m.dieS.prot)
  if (dn || ds) && m.pow.collier && m.secondOver m.pow.thermAt then
    let m := { m with pow := { m.pow with thermAt := some m.tick.now } }
    m.event 0x8A06 (if dn then 0 else 1) (if dn then tN else tS).toNat
  else m

/-- R544 to R546: the sensors are read every 100 us, in tenths of a degree: junctions of North, South and Hub, stacks of North
and South. Two readings in a row at 105 degrees or above make a trip. -/
def execThermalSample (jN jS jHub hN hS : List (BitVec 12)) (s : State) : Host.Outcome State Fault Refusal :=
  lift (fun m =>
    let p := m.pow
    if p.state = .off || jN.isEmpty || jS.isEmpty || jHub.isEmpty then m
    else
      let n := hottest jN (-2048)
      let o := hottest jS (-2048)
      let u := hottest jHub (-2048)
      let b := hottest (hN ++ hS) (-2048)
      let tN := max (hottest hN n) u
      let tS := max (hottest hS o) u
      let q := { p with tN := n, tS := o, tHub := u, tHbm := b, maxN := max p.maxN n, maxS := max p.maxS o,
                        maxHub := max p.maxHub u, maxHbm := max p.maxHbm b, govN := tN, govS := tS,
                        alert := decide (950 ≤ tN ∨ 950 ≤ tS) || (p.alert && decide (900 ≤ tN ∨ 900 ≤ tS)) }
      let q := q.cycle (max n (max o u))
      let ks := (m.dieN.prot, m.dieS.prot)
      let m := { m with pow := q }
      if p.state = .fault || p.trip then m
      else if 1050 ≤ tN ∧ 1050 ≤ p.govN then m.tripAt 0 tN
      else if 1050 ≤ tS ∧ 1050 ≤ p.govS then m.tripAt 1 tS
      else
        let st := m.staticOn
        let k := if st then thermK (max tN tS) else none
        let m := { m with pow := { m.pow with thermN := if st then 256 else thermDuty tN, thermS := if st then 256 else thermDuty tS } }
        ((m.protect 0 k m.dieN.powK).protect 1 k m.dieS.powK).throttled p ks tN tS) s

/-! ### What a reset and Off clear (R487, R541, R547) -/

/-- What the journal keeps of the hearths (R492). -/
def keptHearths (t : Tbl Hearth) : Tbl Hearth :=
  (t.map fun (p : Nat × Hearth) => (p.1, p.2.kept)).filter fun p => p.2 ≠ {}

/-- A die after a reset (R489): running at setting 16 unless self-test holds it; the column map and what the journal keeps of the spare
column stay. -/
def DieSt.fresh (x : DieSt) : DieSt :=
  { f := x.f, sound := x.sound, held := x.held, cause := x.cause, spares := keptHearths x.spares,
    run := if x.held then .stopped else .running }

def PortSt.fresh (x : PortSt) : PortSt :=
  { en := x.en, layout := x.layout, c2m := x.c2m, pfc := x.pfc, ignored := x.ignored }

def IfSt.fresh (x : IfSt) : IfSt :=
  { ip4 := x.ip4, ip6 := x.ip6, pre4 := x.pre4, pre6 := x.pre6, gw4 := x.gw4, gw6 := x.gw6, vlan := x.vlan, fec := x.fec }

/-- Every on-die array, every core, Hub state, sessions and contexts are cleared and HBM is not held; what the journal and the
fuses keep stays, and so do the time since the module left Off and its event log (log entry 67). A pending enable is given
up; retirements of HBM sets and flash dies wait for the next start (R555). -/
def Mod.clear (m : Mod) : Mod :=
  let t := m.tick
  let k := m.kop
  { tick := { src := t.src, ppsEn := t.ppsEn, domain := t.domain, syncLog := t.syncLog, now := t.now, date := t.date }
    pow := { m.pow with collier := false, trip := false, dutyN := 256, dutyS := 256, thermN := 256, thermS := 256, govN := 0,
                        govS := 0, reason := 0, faultN := .z, pps := .z, thermAt := none, capAt := none }
    dieN := m.dieN.fresh
    dieS := m.dieS.fresh
    log := m.log
    grid := { hearths := keptHearths m.grid.hearths }
    hbm := { setMap := m.hbm.setMap, retired := m.hbm.retired, chans := m.hbm.chans,
             retQ := (m.hbm.ret.toList ++ m.hbm.retQ).map fun r => { r with begun := false, copied := false, back := false } }
    peat := { flash := m.peat.flash, lost := m.peat.lost, locs := m.peat.locs, map := m.peat.map, erases := m.peat.erases, govFrac := m.peat.govFrac, wcnt := m.peat.wcnt, gov := m.peat.gov, dies := m.peat.dies, written := m.peat.written,
              rebuildQ := m.peat.rebuild.toList ++ m.peat.rebuildQ,
              state := if m.peat.state == .on then .on else .off }
    eth := { mac := m.eth.mac, ports := m.eth.ports.map (fun p => (p.1, p.2.fresh)),
             ifs := m.eth.ifs.map (fun p => (p.1, p.2.fresh)), dscp := m.eth.dscp, prio := m.eth.prio, peers := m.eth.peers,
             wire := m.eth.wire }
    kop := { rnd := k.rnd, feedOvr := k.feedOvr, ckCtx := k.ckCtx, ckRkey := k.ckRkey, ckBase := k.ckBase, ckLen := k.ckLen,
             manAddr := k.manAddr }
    sec := { m.sec with sess := [], replay := 0, nonce := none, onTrial := false, fwHash := [], fwVer := 0, hukIn := false, keysIn := false }
    tst := { ir := 1, bsr := (tapReset m.tst).bsr, failN := m.tst.failN, failS := m.tst.failS, lastT := m.tst.lastT }
    free := m.free }

/-- A reset (R541): open scan closes (R557), the module is in the first part of Kindling, its cause is held until the next start. -/
def Mod.hardReset (m : Mod) (cause : Nat) : Mod :=
  let new := m.pow.state != .kindling
  let m := m.closeScan.clear
  let m := { m with pow := { m.pow with state := .kindling, cause := some cause } }
  if new then m.setState .kindling 0 else m

/-- The straps are latched (R584). -/
def Mod.latch (m : Mod) (slot : BitVec 6) (feed : BitVec 3) : Mod :=
  { m with pow := { m.pow with slotPins := slot, feedPins := feed, slotCode := slot.toNat, feedCode := feed.toNat } }

/-! ### Self-test (R561, R562) -/

/-- Failing hearths of a die as the test finds them: physical row and column, a retired column is powered down. -/
def DieSt.failing (x : DieSt) (fs : List (Nat × Nat)) : List (Nat × Nat) :=
  (fs.filter fun p => decide (p.1 < 64 ∧ p.2 ≤ 64) && !(x.f < 64 && p.2 = x.f)).eraseDups

/-- The die is held (R562); `col` is the first failing physical column. -/
def Mod.holdDie (m : Mod) (d col : Nat) : Mod :=
  (m.setDie d { m.die d with held := true, run := .stopped, pend := false, req := none }).event 0x8C03 d col

/-- A failure is a hearth fault with code 8, recorded in the physical status word and in the journal (R561). -/
def Mod.testFail (m : Mod) (d : Nat) (p : Nat × Nat) : Mod :=
  let x := m.die d
  let mark := fun (y : Hearth) => { y with stopped := true, cause := 8 }
  let h := hPack d p.1 (if p.2 < x.f then p.2 else p.2 - 1)
  let m := if p.2 = x.f then m.setDie d { x with spares := tSet {} x.spares p.1 (mark (tGet {} x.spares p.1)) }
    else m.setHearth h (mark (m.hearth h))
  m.journal 2 (leBytes 4 (hPack d p.1 0 + 2 ^ 16 * p.2) ++ leBytes 4 8)

/-- The result of self-test for one die; `release`: it was asked for by SELFTEST_RUN, which releases a held die. -/
def Mod.selfTest (m : Mod) (d : Nat) (release : Bool) (fs : List (Nat × Nat)) : Mod :=
  let fs := (m.die d).failing fs
  let n := fs.length
  let cols := (fs.map Prod.snd).eraseDups
  let m := fs.foldl (fun (m : Mod) p => m.testFail d p) m
  let m := { m with tst := if d = 0 then { m.tst with failN := n, lastT := m.time } else { m.tst with failS := n, lastT := m.time } }
  let m := m.event 0x8C02 d n
  let free := fun (m : Mod) => if release then m.setDie d { m.die d with held := false } else m
  match cols with
  | [] => free m
  | [c] =>
    if (m.die d).f ≠ 64 then m.holdDie d c
    else if c = 64 then (free (m.setDie d { m.die d with sound := false })).event 0x8204 d 0
    else free (m.remap d c (fs.map fun p => (hPack d p.1 0, 8)))
  | c :: t => m.holdDie d (t.foldl Nat.min c)

/-- Failures named by die, row and column, of one die. -/
def ofDie (d : Nat) (fs : List (Nat × Nat × Nat)) : List (Nat × Nat) := (fs.filter fun p => p.1 = d).map fun p => p.2

/-! ### Boot (R498 to R501, R540) -/

/-- A bank whose images verify (R499). -/
def Mod.bootable (m : Mod) (n : Nat) : Bool := (m.bank n).good && decide (m.sec.roll ≤ (m.bank n).roll)

/-- The bank that boots: a trial bank first, else the active one; the other when it does not verify. -/
def Mod.bootBank (m : Mod) : Option Nat :=
  let a := m.sec.active
  (if m.sec.trial then [1 - a, a] else [a, 1 - a]).find? m.bootable

/-- An unfinished zeroisation is completed (R521). -/
def Mod.finishZero (m : Mod) : Mod :=
  match m.sec.zero with
  | none => m
  | some c =>
    let m := m.zeroEnd c
    if c = 0x1414 then m.unbind else m

/-- Events held until the collier starts: INPUT_LOSS and RESET_CAUSE (R541, R554). -/
def Mod.raiseHeld (m : Mod) : Mod :=
  let m := match m.pow.lossNew with
    | some p => ({ m with pow := { m.pow with lossNew := none } }).event 0x8A02 p.1 (p.2 % 2 ^ 32)
    | none => m
  match m.pow.cause with
  | some c => ({ m with pow := { m.pow with cause := none } }).event 0x8A08 c 0
  | none => m

/-- R498 from step 2, where both images of bank n verify: HUK and the unwrapped keys are in the crypto engine, FW_HASH, an unfinished zeroisation, the collier starts, and with it the tick generator (R376). -/
def Mod.startCollier (m : Mod) (n : Nat) : Mod :=
  let b := m.bank n
  let c := { m.sec with onTrial := m.sec.trial && n ≠ m.sec.active, fwHash := b.hash, fwVer := b.ver, hukIn := true, keysIn := true }
  let m := { m with sec := c }
  let m := m.finishZero
  let m := m.journal 7 (leBytes 1 n ++ leBytes 4 b.ver ++ leBytes 1 (m.pow.cause.getD 255))
  let m := { m with pow := { m.pow with collier := true, faultN := .z, pps := .low }, tick := { m.tick with gen := true },
                    tst := { m.tst with recovery := false } }
  m.raiseHeld

/-- A trial boot that reached Damped (R500): its bank is active, the fuses follow its image. -/
def Mod.commitTrial (m : Mod) : Mod :=
  if !m.sec.onTrial then m
  else
    let n := 1 - m.sec.active
    let b := m.bank n
    ({ m with sec := { m.sec with active := n, trial := false, onTrial := false, roll := Nat.max m.sec.roll b.roll } }).event 0x8B07
      b.ver (Nat.max m.sec.roll b.roll)

/-- The retirements that a reset or the loss procedure broke off start again (R555). -/
def Mod.retireAgain (m : Mod) : Mod :=
  let h := m.hbm.retQ
  let f := m.peat.rebuildQ
  let m := ({ m with hbm := { m.hbm with retQ := [] }, peat := { m.peat with rebuildQ := [] } }).retireNext h
  f.foldl (fun m d => m.retireFlash d false) m

/-- Steps 6 to 8 of R540: ports come up, self-test, Damped or, with both dies held, Fault. -/
def Mod.startUp (m : Mod) (fails : List (Nat × Nat × Nat)) : Mod :=
  let ports := (List.range 8).foldl (fun (m : Mod) p =>
    let x := m.port p
    m.setPort p { x with run := if x.en then .starting else .down }) m
  let m := (ports.selfTest 0 false (ofDie 0 fails)).selfTest 1 false (ofDie 1 fails)
  if m.dieN.held && m.dieS.held then m.enterFault 0x1207 else (m.setState .damped 0).commitTrial.retireAgain

/-- The start from step 4 of R540. `start` is what the manual leaves to the hardware: 0 every step succeeds, 1 HBM training or
the journal's replay fails, 2 a rail fails, 3 the boot does not get past the collier's start. With no bank that verifies the
module stays in Kindling (R501). -/
def Mod.boot (m : Mod) (start : Nat) (fails : List (Nat × Nat × Nat)) : Mod :=
  match m.bootBank with
  | none =>
    let m := m.journal 7 (leBytes 1 255 ++ leBytes 4 0 ++ leBytes 1 (m.pow.cause.getD 255))
    { m with pow := { m.pow with faultN := .low }, tst := { m.tst with recovery := true } }
  | some n =>
    let m := m.startCollier n
    if m.pow.trip then (m.coolDown.event 0x8A07 m.pow.tripOf.1 m.pow.tripOf.2).enterFault 0x1125
    else match start with
      | 0 => m.startUp fails
      | 1 => m.enterFault 0x1128
      | 2 => m.enterFault 0x1126
      | _ => m

/-- Failing hearths as plain numbers. -/
def failList (l : List (Fin 2 × Fin 64 × Fin 65)) : List (Nat × Nat × Nat) := l.map fun p => (p.1.val, p.2.1.val, p.2.2.val)

/-- R529, R538, R540: an input between 64.0 V and 80.0 V has qualified: from Off through Kindling. With RESET_IN_N asserted the
start waits in its first part. -/
def execPowerUp (mv : BitVec 17) (slot : BitVec 6) (feed : BitVec 3) (start : Fin 4) (fails : List (Fin 2 × Fin 64 × Fin 65))
    (s : State) : Host.Outcome State Fault Refusal :=
  lift (fun m =>
    if m.pow.state != .off || decide (mv.toNat < 64000) || decide (80000 < mv.toNat) then m
    else
      let m := m.clear
      let m := { m with log := {}, tick := { m.tick with now := 0, date := none }
                        pow := { m.pow with state := .kindling, powerUps := m.pow.powerUps + 1, inClass := .full, swOpen := false,
                                            inMv := mv.toNat, busMv := mv.toNat, recover := false, pwrGood := .high } }
      let m := ((m.latch slot feed).setCap).setState .kindling 0
      if m.pow.held then m else m.boot start.val (failList fails)) s

/-! ### Resets (R541, R542) -/

/-- R541: RESET_IN_N has been asserted for 2 us: a reset, and the module holds in the first part of Kindling. In Off the pin is
only noted. -/
def execResetInAssert (s : State) : Host.Outcome State Fault Refusal :=
  lift (fun m =>
    if m.pow.held then m
    else
      let m := if m.pow.state = .off then m else m.hardReset 0
      { m with pow := { m.pow with held := true } }) s

/-- R541, R584, R585: RESET_IN_N is released: the straps are latched, the boot resumes. -/
def execResetInRelease (slot : BitVec 6) (feed : BitVec 3) (start : Fin 4) (fails : List (Fin 2 × Fin 64 × Fin 65)) (s : State) :
    Host.Outcome State Fault Refusal :=
  lift (fun m =>
    if !m.pow.held then m
    else
      let m := { m with pow := { m.pow with held := false } }
      if m.pow.state = .off then m else (m.latch slot feed).boot start.val (failList fails)) s

/-- 0x1420: RESET (R542) acts as RESET_IN_N for 10 us. -/
def execReset (ses seq : BitVec 32) (slot : BitVec 6) (feed : BitVec 3) (start : Fin 4) (fails : List (Fin 2 × Fin 64 × Fin 65))
    (s : State) : Host.Outcome State Fault Refusal :=
  lift (fun m =>
    let m := m.invoke ses.toNat seq.toNat 0x1420 [2, 3] true (fun a => a.isEmpty) fun m _ =>
      if m.mayZero then .go m else .no m 0x1101 0
    if (m.cmd 0x1420).busy then ((m.hardReset 1).latch slot feed).boot start.val (failList fails) else m) s

/-- R500: a trial boot has not reached Damped within 60 s, or has entered Fault: a reset into the former bank. -/
def execBootWatchdog (slot : BitVec 6) (feed : BitVec 3) (start : Fin 4) (fails : List (Fin 2 × Fin 64 × Fin 65)) (s : State) :
    Host.Outcome State Fault Refusal :=
  lift (fun m =>
    if !m.sec.onTrial || m.pow.held || (m.pow.state != .kindling && m.pow.state != .fault) then m
    else
      let gone := 1 - m.sec.active
      let m := (m.hardReset 2).latch slot feed
      let m := ({ m with sec := { m.sec with trial := false } }).boot start.val (failList fails)
      if m.pow.collier then m.event 0x8B08 gone 0 else m) s

/-- R541: a collier core has been silent for 1 s. -/
def execCollierWatchdog (slot : BitVec 6) (feed : BitVec 3) (start : Fin 4) (fails : List (Fin 2 × Fin 64 × Fin 65)) (s : State) :
    Host.Outcome State Fault Refusal :=
  lift (fun m =>
    if !m.pow.collier || m.pow.state = .off then m
    else ((m.hardReset 3).latch slot feed).boot start.val (failList fails)) s

/-! ### The input (R528, R533 to R536) -/

/-- R528, R533: the filtered input has left the window: the switch opens, the bus carries the load, the cord sees nothing of it
(R534). -/
def execInputOutOfWindow (mv : BitVec 17) (s : State) : Host.Outcome State Fault Refusal :=
  lift (fun m =>
    let high := decide (80000 < mv.toNat)
    if m.pow.state = .off || m.pow.swOpen || (!high && decide (60000 ≤ mv.toNat)) then m
    else
      ({ m with pow := { m.pow with swOpen := true, inClass := .out, inMv := mv.toNat, inMa := 0, lossWhy := b2n high,
                                    overs := m.pow.overs + b2n high } }).setCap) s

/-- R528, R535: the input has been back in window for 50 us after `us` microseconds, with the bus at its lowest at `low` mV: the
switch closes, the recovery cap applies until the bus reaches 64.0 V. -/
def execInputReturn (mv low : BitVec 17) (us : BitVec 32) (s : State) : Host.Outcome State Fault Refusal :=
  lift (fun m =>
    if m.pow.state = .off || !m.pow.swOpen || decide (mv.toNat < 60500) || decide (80000 < mv.toNat) then m
    else
      let m := ({ m with pow := { m.pow with swOpen := false, inClass := .full, inMv := mv.toNat, busMv := low.toNat,
                                             recover := decide (low.toNat < 64000), dips := m.pow.dips + 1 } }).setCap
      if m.pow.collier then m.event 0x8A01 us.toNat low.toNat else m) s

/-- R528: below 64.0 V for 1 ms the derated class is entered, at 64.5 V it is left. -/
def execDerateChange (mv : BitVec 17) (s : State) : Host.Outcome State Fault Refusal :=
  lift (fun m =>
    let v := mv.toNat
    let say := fun (m : Mod) (d : Nat) => if m.pow.collier then m.event 0x8A03 d v else m
    if m.pow.state = .off || m.pow.swOpen then m
    else if m.pow.inClass == .full && decide (60000 ≤ v ∧ v < 64000) then
      say ({ m with pow := { m.pow with inClass := .derated, inMv := v, derates := m.pow.derates + 1 } }).setCap 1
    else if m.pow.inClass == .derated && decide (64500 ≤ v ∧ v ≤ 80000) then
      say ({ m with pow := { m.pow with inClass := .full, inMv := v } }).setCap 0
    else m) s

/-- R528, R555: a surge to `peak` mV for `us` microseconds, at most 10 ms, is run through. -/
def execSurge (peak : BitVec 17) (us : BitVec 32) (s : State) : Host.Outcome State Fault Refusal :=
  lift (fun m =>
    if m.pow.state = .off || decide (peak.toNat ≤ 80000) || decide (100000 < peak.toNat) || decide (10000 < us.toNat) then m
    else
      let m := { m with pow := { m.pow with surges := m.pow.surges + 1 } }
      if m.pow.collier then m.event 0x8A04 peak.toNat us.toNat else m) s

/-- The counters of R553 as a SNAPSHOT and a LOSS record hold them (log entry 68): 8 B each, little-endian. -/
def Mod.lifeCounts (m : Mod) : List Nat :=
  let p := m.pow
  [p.powered + m.tick.now / 1000000000, p.powerUps, p.ticks, p.flips, p.fires, p.cycles, p.remaps,
   (m.peat.written.map Prod.snd).sum, p.wear, p.dips, p.losses, p.derates, p.surges, p.overs, p.trips]

/-- Flash bytes written on each channel (R320). -/
def Mod.chanCounts (m : Mod) : List Byte := (List.range 16).flatMap fun c => leBytes 8 (tGet 0 m.peat.written c)

/-- Codewords that the FEC of each lane has corrected and left uncorrected (R437, R553). -/
def Mod.laneCounts (m : Mod) : List Byte :=
  (List.range 32).flatMap fun l => leBytes 8 (tGet (0, 0) m.pow.lanes l).1 ++ leBytes 8 (tGet (0, 0) m.pow.lanes l).2

/-- Payload of a SNAPSHOT record (log entry 68): the counters, the highest temperatures as F32, channels and lanes. -/
def Mod.snapshot (m : Mod) : List Byte :=
  m.lifeCounts.flatMap (leBytes 8) ++ ([m.pow.maxN, m.pow.maxS, m.pow.maxHub, m.pow.maxHbm].flatMap fun t => wBytes (f32ratio t 10)) ++
    m.chanCounts ++ m.laneCounts

/-- The erases of each flash block (R320): die, block and count, 254 to a record at most (R549, log entry 68). -/
def eraseParts : Nat → List (Nat × Nat) → List (List Byte)
  | 0, _ => []
  | _, [] => []
  | n + 1, l => ((l.take 254).flatMap fun p => leBytes 4 (p.1 / 2 ^ 32) ++ leBytes 4 p.1 ++ leBytes 8 p.2) :: eraseParts n (l.drop 254)

/-- The records of a SNAPSHOT (R320, R550): erases of blocks first, the counters last. -/
def Mod.takeSnapshot (m : Mod) : Mod :=
  ((eraseParts m.peat.erases.length m.peat.erases).foldl (fun m b => m.journal 1 b) m).journal 1 m.snapshot

/-- The counters of the newest SNAPSHOT. -/
def Mod.lastSnap (m : Mod) : List Nat :=
  match m.pow.journal.reverse.find? fun r => r.kind = 1 with
  | some r => (List.range 15).map fun i => leNat ((r.body.drop (8 * i)).take 8)
  | none => []

/-- Payload of a LOSS record (R550); its layout is log entry 68. -/
def Mod.lossBody (m : Mod) : List Byte :=
  let deltas := (indices m.lifeCounts).map fun i => nth 0 m.lifeCounts i - nth 0 m.lastSnap i
  leBytes 8 (cId m.img) ++ leBytes 2 m.self ++ leBytes 8 m.train.last ++ leBytes 2 m.clus.part ++ deltas.flatMap (leBytes 8) ++
    leBytes 8 (m.peat.gov + 2 ^ 64).toNat ++ ((List.range 64).flatMap fun d => leBytes 8 (m.erasesOf d)) ++
    m.chanCounts ++ leBytes 8 m.peat.wcnt ++ leBytes 1 m.pow.lossWhy

/-- Off (R536 step 4, R543): nothing is held but what the journal, the fuses and the flash keep. -/
def Mod.goOff (m : Mod) : Mod :=
  let s := m.tick.now / 1000000000
  let m := m.clear
  let chans := m.hbm.chans.map fun p => (p.1, { p.2 with ceAt := [], ueAt := [] })
  let dies := m.peat.dies.map fun p => (p.1, { p.2 with reads := [] })
  { m with hbm := { m.hbm with chans := chans.filter fun p => p.2 ≠ {} }
           peat := { m.peat with dies := dies.filter fun p => p.2 ≠ {} }
           pow := { m.pow with state := .off, powered := m.pow.powered + s, inClass := .out, swOpen := true, busMv := 0, inMa := 0,
                               inW := 0, recover := false, alert := false, cause := none, pwrGood := .z }
           tick := { m.tick with now := 0, date := none } }

/-- R536: the bus has fallen to 50.0 V: the loss procedure runs to Off. `written`: its LOSS record is complete (R555). -/
def execLossProcedure (written : Bool) (s : State) : Host.Outcome State Fault Refusal :=
  lift (fun m =>
    if m.pow.state = .off || !m.pow.swOpen then m
    else
      let rec' := m.pow.collier && written
      let m := if m.pow.collier && m.eth.ifs.any (fun p => p.2.up) then m.depart else m
      let b := m.lossBody
      let m := { m with pow := { m.pow with losses := m.pow.losses + 1, lossNew := some (m.pow.lossWhy, if rec' then m.train.last else 0) } }
      let m := if rec' then
          let m := m.journal 4 b
          { m with pow := { m.pow with lastLoss := b } }
        else m
      m.goOff) s

/-- R539: a rail has been out of regulation for 100 us while the input is in window. -/
def execRailFault (s : State) : Host.Outcome State Fault Refusal :=
  lift (fun m => if m.pow.state = .off || m.pow.swOpen || !m.pow.collier then m else m.enterFault 0x1126) s

/-! ### Draining (R539) -/

/-- Queues, mesh and replication buffers are empty, every credit is back. -/
def Mod.emptyQueues (m : Mod) : Mod :=
  let inqs := m.grid.inqs.map fun p => (p.1, { p.2 with router := [], spill := [], credit := p.2.size, back := 0 })
  let trees := m.grid.trees.map fun p =>
    (p.1, { p.2 with credit := 8, ret := 0, entered := p.2.entered.map (fun _ => 0), nodes := p.2.nodes.map fun n => { n with entries := [] } })
  { m with grid := { m.grid with inqs := inqs, trees := trees, flights := [] } }

/-- R539: Draining has ended: queues are empty, HBM is in self-refresh, the module is Damped. -/
def execDrainingComplete (s : State) : Host.Outcome State Fault Refusal :=
  lift (fun m =>
    if m.pow.state != .draining then m
    else
      let m := m.emptyQueues
      ({ m with hbm := { m.hbm with selfRef := true } }).setState .damped 0) s

/-- R539: Draining has not ended within 10 ms. -/
def execDrainTimeout (s : State) : Host.Outcome State Fault Refusal :=
  lift (fun m => if m.pow.state != .draining then m else m.enterFault 0x1127) s

/-! ### The journal (R548, R550, R554) -/

/-- Bytes whose writing wears the journal by 80 %: 2,048 sectors of 128 KiB, 100,000 erases each. -/
def journalWorn : Nat := 80 * 268435456000

/-- Codewords of a lane since the last count: corrected and uncorrected; the uncorrected count at the lane's interface (R437). -/
def Mod.countLane (m : Mod) (l ce ue : Nat) : Mod :=
  let x := tGet (0, 0) m.pow.lanes l
  let m := { m with pow := { m.pow with lanes := tSet (0, 0) m.pow.lanes l (x.1 + ce, x.2 + ue) } }
  let i := match (m.port (l / 4)).layout with
    | 0 => l / 4 * 4
    | 1 => l / 2 * 2
    | _ => l
  m.setIface i { m.iface i with fec := (m.iface i).fec + ue }

/-- R550: a SNAPSHOT every 60 s of powered time. `lanes`: the codewords that the lanes' decoders have counted since the last one
(log entry 69). -/
def execJournalSnapshot (lanes : List (Fin 32 × BitVec 64 × BitVec 64)) (s : State) : Host.Outcome State Fault Refusal :=
  lift (fun m =>
    if !m.pow.collier then m
    else
      let m := lanes.foldl (fun (m : Mod) l => m.countLane l.1.val l.2.1.toNat l.2.2.toNat) m
      let m := m.takeSnapshot
      if !m.pow.worn && decide (journalWorn ≤ m.pow.wear) then
        ({ m with pow := { m.pow with worn := true } }).event 0x8A0A 0 0
      else m) s

end Sys2Proof.Machine
end

