-- ==== Sys2Proof/Machine/Test.lean ====
section
/-! DEFINITION. Test and service (chapter 19): the test access port and its instructions, self-test on demand, the online test of spare columns, lane tests, firmware recovery; the status words of hearths and cores (R62, R63, R132, R164). -/

namespace Sys2Proof.Machine

/-! ### Status words -/

/-- The status word of a logical hearth (R62). -/
def Mod.hearthWord (m : Mod) (h : Nat) : Nat :=
  let x := m.hearth h
  let placed := m.placed.contains h
  let st := if x.stopped then 3 else if placed && m.coresRun then 2 else if placed then 1 else 0
  st + 4 * b2n (decide ((m.die (hDie h)).f ≤ hCol h)) + 8 * x.cause + 2 ^ 8 * x.ce + 2 ^ 16 * x.passes + 2 ^ 24 * b2n x.addrFlt

/-- The cause recorded for a row of a die's retired column: its own, else the first recorded (R63, log entry 75). -/
def DieSt.causeAt (x : DieSt) (row : Nat) : Nat :=
  if tGet 0 x.cause row = 0 then (x.cause.headD (0, 0)).2 else tGet 0 x.cause row

/-- The status word of a physical hearth (R63): a retired column reads stopped with the cause recorded. The unused spare column
reads parked. -/
def Mod.physWord (m : Mod) (d row col : Nat) : Nat :=
  let x := m.die d
  if col = x.f then
    let y := tGet {} x.spares row
    if x.f = 64 then 3 * b2n y.stopped + 8 * y.cause + 2 ^ 8 * y.ce + 2 ^ 16 * y.passes else 3 + 8 * x.causeAt row
  else m.hearthWord (hPack d row (if col < x.f then col else col - 1))

/-- A read of it clears the counts (R8). -/
def Mod.clearPhys (m : Mod) (d row col : Nat) : Mod :=
  let x := m.die d
  if col = x.f then
    if x.f = 64 then m.setDie d { x with spares := tSet {} x.spares row { tGet {} x.spares row with ce := 0, passes := 0 } } else m
  else
    let h := hPack d row (if col < x.f then col else col - 1)
    m.setHearth h { m.hearth h with ce := 0, passes := 0 }

/-- The status word of a hearth's matrix core (R132), the arithmetic status word of a vector core (R164). -/
def Mod.mcWord (m : Mod) (h : Nat) : Nat :=
  let x := m.mc (cid h 0)
  x.fault + 16 * b2n x.intOvf + 32 * b2n x.nonfin + 2 ^ 8 * x.emptyRed

/-! ### The test access port (R556 to R560) -/

/-- Scan is open, the module is powered. -/
def Mod.scanOn (m : Mod) : Bool := m.tst.scan.isSome && m.pow.state != .off

/-- An instruction in the instruction register; `takes`: it takes the pins. -/
def Mod.tap (m : Mod) (op : BitVec 8) (takes : Bool) : Mod := { m with tst := { m.tst with ir := op, takes := takes } }

/-- An opcode that acts as BYPASS (R557). -/
def Mod.asBypass (m : Mod) : Mod := if m.pow.state = .off then m else m.tap 0xFF false

/-- The pin FAULT_N: low or released, driven by the boundary register while an instruction takes the pins (R543, R559). -/
def openDrain (m : Mod) (d e : Nat) (f : Bool) : PinOut :=
  if m.tst.takes then (if m.tst.ir ≠ 6 && m.tst.bsr.getLsbD e && !m.tst.bsr.getLsbD d then .low else .z) else if f then .low else .z
def Mod.faultPin (m : Mod) : PinOut := openDrain m 131 132 (m.pow.faultN == .low)
def Mod.alertPin (m : Mod) : PinOut := openDrain m 133 134 m.pow.alert

/-- The pin PPS_OUT. -/
def Mod.ppsPin (m : Mod) : PinOut :=
  if m.tst.takes then (if m.tst.ir ≠ 6 && m.tst.bsr.getLsbD 137 then (if m.tst.bsr.getLsbD 136 then .high else .low) else .z) else m.pow.pps

/-- What the boundary register captures (R559): `pins` gives the levels that come from outside, lanes, PPS_IN and straps; a pin
released to its pull reads deasserted. -/
def Mod.capture (m : Mod) (pins : BitVec 147) : BitVec 147 :=
  let keep := pins.toNat
  let own := 2 ^ 129 * b2n (!m.pow.held) + 2 ^ 130 * b2n (m.pow.pwrGood == .high) + 2 ^ 131 * b2n (m.faultPin != .low) +
    2 ^ 132 * b2n (m.faultPin == .low) + 2 ^ 133 * b2n (m.alertPin != .low) + 2 ^ 134 * b2n (m.alertPin == .low) +
    2 ^ 136 * b2n (m.ppsPin == .high) + 2 ^ 137 * b2n (m.ppsPin != .z)
  BitVec.ofNat 147 (slice keep 127 0 + own + 2 ^ 135 * slice keep 135 135 + 2 ^ 138 * slice keep 146 138)

/-- A pass through the boundary register: Capture-DR, then the bits shifted in at Update-DR, into the cells that hold (R559). -/
def Mod.boundary (m : Mod) (pins din : BitVec 147) : Mod :=
  let c := m.capture pins
  let held := BitVec.ofNat 147 (2 ^ 128 - 2 ^ 64 + 15 * 2 ^ 131 + 3 * 2 ^ 136)
  { m with tst := { m.tst with cap := c, bsr := din &&& held },
           pow := { m.pow with slotPins := BitVec.ofNat 6 (slice pins.toNat 143 138), feedPins := BitVec.ofNat 3 (slice pins.toNat 146 144) } }

/-- An instruction on the boundary register. -/
def Mod.bscan (m : Mod) (op : BitVec 8) (takes : Bool) (pins din : BitVec 147) : Mod :=
  if m.scanOn then (m.tap op takes).boundary pins din else m.asBypass

/-- R556: TRST_N resets the TAP controller and nothing else. -/
def execTrst (s : State) : Host.Outcome State Fault Refusal := lift (fun m => { m with tst := tapReset m.tst }) s

/-- R558: BYPASS. -/
def execBypass (s : State) : Host.Outcome State Fault Refusal := lift (fun m => m.asBypass) s

/-- R556: IDCODE: the next Capture-DR takes 0x1480_0DCB. -/
def execIdcode (s : State) : Host.Outcome State Fault Refusal :=
  lift (fun m =>
    if m.pow.state = .off then m
    else { m.tap 1 false with tst := { (m.tap 1 false).tst with cap := 0x14800DCB } }) s

/-- R558: SAMPLE/PRELOAD; the functional logic keeps the pins. -/
def execSamplePreload (pins din : BitVec 147) (s : State) : Host.Outcome State Fault Refusal :=
  lift (fun m => m.bscan 2 false pins din) s

/-- R558: EXTEST. -/
def execExtest (pins din : BitVec 147) (s : State) : Host.Outcome State Fault Refusal := lift (fun m => m.bscan 0 true pins din) s

/-- R558: EXTEST_PULSE; how the AC lanes are pulsed is IEEE 1149.6's. -/
def execExtestPulse (pins din : BitVec 147) (s : State) : Host.Outcome State Fault Refusal := lift (fun m => m.bscan 3 true pins din) s

/-- R558: EXTEST_TRAIN. -/
def execExtestTrain (pins din : BitVec 147) (s : State) : Host.Outcome State Fault Refusal := lift (fun m => m.bscan 4 true pins din) s

/-- R558: CLAMP: the boundary register holds the pins, the bypass register is selected. -/
def execClamp (s : State) : Host.Outcome State Fault Refusal :=
  lift (fun m => if m.scanOn then m.tap 5 true else m.asBypass) s

/-- R558: HIGHZ: every output is high-impedance. -/
def execHighz (s : State) : Host.Outcome State Fault Refusal :=
  lift (fun m => if m.scanOn then m.tap 6 true else m.asBypass) s

/-! ### Debug instructions (R558) -/

/-- Scan is open and the security state is owner-debug or service. -/
def Mod.debugOn (m : Mod) : Bool := m.scanOn && decide (1 ≤ m.sec.state)

/-- HDBG_HALT freezes the cores of a hearth; a second one releases them. -/
def execHdbgHalt (h : BitVec 13) (s : State) : Host.Outcome State Fault Refusal :=
  lift (fun m =>
    if !m.debugOn then m.asBypass
    else
      let m := m.tap 0x20 false
      let x := m.hearth h.toNat
      m.setHearth h.toNat { x with halted := !x.halted }) s

/-- The two words at an even place of a list of words, as 64 bits, and the list with them written; it keeps its length. -/
def pairAt (l : List Word) (i : Nat) : Nat := (nth 0 l (2 * i)).toNat + 2 ^ 32 * (nth 0 l (2 * i + 1)).toNat
def setPair (l : List Word) (i v : Nat) : List Word :=
  setAt (setAt l (2 * i) (BitVec.ofNat 32 v)) (2 * i + 1) (BitVec.ofNat 32 (v / 2 ^ 32))

/-- The status words of a hearth by word number (R62, R132, R164), the matrix core's accumulator, operand halves and bias latch
(log entry 70). The reader clears RCL fields (R8). -/
def Mod.ringStatus (m : Mod) (h b : Nat) : Nat × Mod :=
  let mc := m.mc (cid h 0)
  let acc := fun (t : Tbl Word) (o : Nat) => (tGet 0 t (o / 4)).toNat + 2 ^ 32 * (tGet 0 t (o / 4 + 1)).toNat
  if b = 0 then (m.hearthWord h, m.setHearth h { m.hearth h with ce := 0, passes := 0 })
  else if b = 8 then (m.mcWord h, m.setMc (cid h 0) { mc with emptyRed := 0 })
  else if b < 48 then ((m.vc (cid h (b / 8 - 1))).st.toNat, m)
  else if b < 80 then ((m.vc (cid h (b / 8 - 5))).held, m.setVc (cid h (b / 8 - 5)) { m.vc (cid h (b / 8 - 5)) with held := 0 })
  else if b < 0x10000 then (0, m)
  else if b < 0x18000 then (acc mc.acc (b - 0x10000), m)
  else if b < 0x1C000 then (leNat (mRead (tGet {} mc.halves ((b - 0x18000) / 4096)).data ((b - 0x18000) % 4096) 8), m)
  else (acc mc.bias (b - 0x1C000), m)

/-- A write there: W1C fields are cleared by 1 (R8). -/
def Mod.ringSetStatus (m : Mod) (h b v : Nat) : Mod :=
  let c := cid h 0
  let mc := m.mc c
  let put := fun (t : Tbl Word) (o : Nat) => tSet 0 (tSet 0 t (o / 4) (BitVec.ofNat 32 v)) (o / 4 + 1) (BitVec.ofNat 32 (v / 2 ^ 32))
  if b = 0 then m.setHearth h { m.hearth h with addrFlt := (m.hearth h).addrFlt && !bitAt v 24 }
  else if b = 8 then m.setMc c { mc with intOvf := mc.intOvf && !bitAt v 4, nonfin := mc.nonfin && !bitAt v 5 }
  else if b < 48 then
    let k := cid h (b / 8 - 1)
    m.setVc k { m.vc k with st := (m.vc k).st &&& ~~~ BitVec.ofNat 4 v }
  else if b < 0x10000 then m
  else if b < 0x18000 then m.setMc c { mc with acc := put mc.acc (b - 0x10000) }
  else if b < 0x1C000 then
    let i := (b - 0x18000) / 4096
    let x := tGet {} mc.halves i
    m.setMc c { mc with halves := tSet {} mc.halves i { x with data := mWrite x.data ((b - 0x18000) % 4096) (leBytes 8 v) } }
  else m.setMc c { mc with bias := put mc.bias (b - 0x1C000) }

/-- A register of a vector or a scalar core by number (log entry 70): v lanes 0 to 127, a 128 to 135, k 136 to 139, latch words
144 to 159, the program counter 160; s 0 to 15, the program counter 16. -/
def Mod.ringReg (m : Mod) (h core i : Nat) : Nat :=
  let c := cid h core
  if core < 5 then
    let x := m.vc c
    if i < 128 then slice (x.getv (i / 8)).toNat (32 * (i % 8) + 31) (32 * (i % 8))
    else if i < 136 then (x.geta (i - 128)).toNat
    else if i < 140 then (x.getk (i - 136)).toNat
    else if i < 144 then 0
    else if i < 160 then slice x.latch.toNat (32 * (i - 144) + 31) (32 * (i - 144))
    else if i = 160 then (m.ctl c).pc else 0
  else if i < 16 then ((m.sc c).get i).toNat else if i = 16 then (m.ctl c).pc else 0

def Mod.ringSetReg (m : Mod) (h core i v : Nat) : Mod :=
  let c := cid h core
  let w := BitVec.ofNat 32 v
  if core < 5 then
    let x := m.vc c
    if i < 128 then
      let o := 32 * (i % 8)
      let old := (x.getv (i / 8)).toNat
      m.setVc c (x.putv (i / 8) (BitVec.ofNat 256 (old - 2 ^ o * slice old (o + 31) o + 2 ^ o * w.toNat)))
    else if i < 136 then m.setVc c (x.puta (i - 128) w)
    else if i < 140 then m.setVc c (x.putk (i - 136) w)
    else if i < 144 then m
    else if i < 160 then
      let o := 32 * (i - 144)
      let old := x.latch.toNat
      m.setVc c { x with latch := BitVec.ofNat 512 (old - 2 ^ o * slice old (o + 31) o + 2 ^ o * w.toNat) }
    else if i = 160 then m.setPc c (v % 512) else m
  else if i < 16 then m.setSc c ((m.sc c).put i w) else if i = 16 then m.setPc c (v % 128) else m

/-- One word of a hearth over the control ring (R260, R261); the ring address is log entry 70: hearth [12:0], space [31:30]: 0 the
hearth store and 1 the status words, at 8-byte word [29:16]; 2 the memory of core [19:13] and 3 its program and registers, at
word [29:20]. A read clears RCL fields (R8). -/
def Mod.ringRead (m : Mod) (a : Nat) : Nat × Mod :=
  let h := slice a 12 0
  let b := slice a 29 16 * 8
  let core := slice a 19 13
  let w := slice a 29 20
  let c := cid h core
  match slice a 31 30 with
  | 0 => (leNat (m.hsGet h b 8), m)
  | 1 => m.ringStatus h b
  | 2 => (if core = 0 then 0 else if core < 5 then leNat (mRead (m.vc c).mem (8 * w) 8)
      else if w < 64 then leNat (mRead (m.sc c).dmem (8 * w) 8) else 0, m)
  | _ => (if core = 0 then (if w = 512 then (m.ctl c).pc else 0)
      else if w < 512 then pairAt (if core < 5 then (m.vc c).prog else (m.sc c).prog) w
      else m.ringReg h core (w - 512), m)

def Mod.ringWrite (m : Mod) (a v : Nat) : Mod :=
  let h := slice a 12 0
  let b := slice a 29 16 * 8
  let core := slice a 19 13
  let w := slice a 29 20
  let c := cid h core
  match slice a 31 30 with
  | 0 => m.hsPut h b (leBytes 8 v)
  | 1 => m.ringSetStatus h b v
  | 2 =>
    if core = 0 then m
    else if core < 5 then m.setVc c { m.vc c with mem := mWrite (m.vc c).mem (8 * w) (leBytes 8 v) }
    else if w < 64 then m.setSc c { m.sc c with dmem := mWrite (m.sc c).dmem (8 * w) (leBytes 8 v) }
    else m
  | _ =>
    if core = 0 then (if w = 512 then m.setPc c (v % 2 ^ 16) else m)
    else if 512 ≤ w then m.ringSetReg h core (w - 512) v
    else if core < 5 then m.setVc c { m.vc c with prog := setPair (m.vc c).prog w v }
    else m.setSc c { m.sc c with prog := setPair (m.sc c).prog w v }

/-- The stop of an unused spare column's hearth that a ring address names (R259; log entry 70): bit 15 in the lower two spaces, with die
and row in the hearth's place. -/
def spareStop (a : Nat) : Bool := !bitAt a 31 && bitAt a 15

/-- Its word: the status word, or what stands at a place of its arrays. On a die whose spare is in use no stop answers, and the word comes
back as it was sent. -/
def Mod.spareRead (m : Mod) (a sent : Nat) : Nat × Mod :=
  let d := hDie (slice a 12 0)
  let row := hRow (slice a 12 0)
  if (m.die d).f ≠ 64 then (sent, m)
  else if slice a 31 13 = 2 ^ 17 + 4 then (m.physWord d row 64, m.clearPhys d row 64)
  else (tGet 0 (m.die d).words (row * 2 ^ 32 + slice a 31 13), m)

def Mod.spareWrite (m : Mod) (a v : Nat) : Mod :=
  let d := hDie (slice a 12 0)
  let x := m.die d
  if x.f ≠ 64 || slice a 31 13 = 2 ^ 17 + 4 then m
  else m.setDie d { x with words := tSet 0 x.words (hRow (slice a 12 0) * 2 ^ 32 + slice a 31 13) v }

/-- HDBG_RING: one READ or WRITE; a READ's data come back at the next Capture-DR. In a die that does not run the access is aborted with
a stopped-domain response: the ring carries only drain polls to it, or none (R268, R271). -/
def execHdbgRing (addr : BitVec 32) (write : Bool) (data : BitVec 64) (s : State) : Host.Outcome State Fault Refusal :=
  lift (fun m =>
    if !m.debugOn then m.asBypass
    else
      let m := m.tap 0x21 false
      if (m.die (hDie (slice addr.toNat 12 0))).run != .running then { m with tst := { m.tst with aborted := true } }
      else
        let m := { m with tst := { m.tst with aborted := false } }
        let spare := spareStop addr.toNat
        if write then (if spare then m.spareWrite addr.toNat data.toNat else m.ringWrite addr.toNat data.toNat)
        else
          let r := if spare then m.spareRead addr.toNat data.toNat else m.ringRead addr.toNat
          { r.2 with tst := { r.2.tst with ring := BitVec.ofNat 64 r.1 } }) s

/-- HDBG_HBM: one 64 B burst is read, or written with `data`; reserved areas (R278), addresses past the memory and the stacks of a
die that does not run (R267) are out of its reach. -/
def execHdbgHbm (addr : BitVec 40) (data : Option (BitVec 512)) (s : State) : Host.Outcome State Fault Refusal :=
  lift (fun m =>
    let a := addr.toNat / 64 * 64
    if !m.debugOn then m.asBypass
    else
      let m := m.tap 0x22 false
      if decide (768000000000 ≤ a) || hbmReserved a || !m.dieRuns (m.dieAt a) then m
      else match data with
        | some d => m.hbmPut a (leBytes 64 d.toNat)
        | none => { m with tst := { m.tst with hbmOut := m.hbmRaw a 64 } }) s

/-- COLLIER_DBG selects the debug port of a collier core (0 to 3, R15); another number acts as BYPASS. -/
def execCollierDbg (n : BitVec 8) (s : State) : Host.Outcome State Fault Refusal :=
  lift (fun m =>
    if m.scanOn && m.sec.state = 2 && decide (n.toNat < 4) then { m.tap 0x23 false with tst := { (m.tap 0x23 false).tst with dbgCore := some n.toNat } }
    else m.asBypass) s

/-! ### Commands (R557, R560, R564, R566) -/

/-- 0x1421: SCAN_OPEN. -/
def execScanOpen (ses seq : BitVec 32) (s : State) : Host.Outcome State Fault Refusal :=
  lift (fun m => m.invoke ses.toNat seq.toNat 0x1421 [3] true (fun a => a.isEmpty) fun m _ =>
    if m.pow.state = .damped && m.cord.inst.isSome then .no m 0x1202 0
    else if !m.mayZero then .no m 0x1201 0
    else .ok (({ m with tst := { m.tst with scan := some ses.toNat } }).event 0x8C01 1 ses.toNat)) s

/-- 0x1422: SCAN_CLOSE; every pin returns to its functional drive. -/
def execScanClose (ses seq : BitVec 32) (s : State) : Host.Outcome State Fault Refusal :=
  lift (fun m => m.invoke ses.toNat seq.toNat 0x1422 [3] true (fun a => a.isEmpty) fun m _ => .ok m.closeScan) s

/-- 0x1423: SELFTEST_RUN. -/
def execSelftestRun (ses seq : BitVec 32) (s : State) : Host.Outcome State Fault Refusal :=
  lift (fun m => m.invoke ses.toNat seq.toNat 0x1423 [3] true (fun a => a.length = 1) fun m a =>
    if 2 < beNat a then .no m 0xF05 0
    else if m.pow.state = .damped && m.cord.inst.isSome then .no m 0x1202 0
    else if !m.mayZero then .no m 0x1201 0
    else .go { m with tst := { m.tst with running := some (beNat a) } }) s

/-- Self-test leaves the arrays of a die's hearths zero (R561); status words, their counts and the scrub's place stay (R48, R62). -/
def Mod.zeroDie (m : Mod) (d : Nat) : Mod :=
  let m := m.emptyHearths fun h => hDie h = d
  let spares := (m.die d).spares.map fun (p : Nat × Hearth) => (p.1, { p.2 with stopped := false })
  let m := m.setDie d { m.die d with words := [], spares := spares.filter fun p => p.2 ≠ {} }
  m.clearArrays fun h => hDie h = d

/-- R562: the self-test of SELFTEST_RUN ends. -/
def execSelftestDone (fails : List (Fin 2 × Fin 64 × Fin 65)) (s : State) : Host.Outcome State Fault Refusal :=
  lift (fun m => match m.tst.running with
    | none => m
    | some w =>
      let ds := if w = 2 then [0, 1] else [w]
      let m := { m with tst := { m.tst with running := none } }
      let m := ds.foldl (fun (m : Mod) d => (m.zeroDie d).selfTest d true (ofDie d (failList fails))) m
      let m := if m.dieN.held && m.dieS.held then m.enterFault 0x1207 else m
      m.finish 0x1423 0 0 (ds.flatMap fun d => beBytes 2 (if d = 0 then m.tst.failN else m.tst.failS))) s

/-- 0x1424: LANE_TEST on a disabled port. -/
def execLaneTest (ses seq : BitVec 32) (s : State) : Host.Outcome State Fault Refusal :=
  lift (fun m => m.invoke ses.toNat seq.toNat 0x1424 [3] true (fun a => a.length = 4) fun m a =>
    let p := byteN a 0 1
    let secs := byteN a 2 2
    if 7 < p then .no m 0xF05 0
    else if 1 < byteN a 1 1 || secs = 0 || 3600 < secs then .no m 0x16 0
    else if m.pow.state = .draining then .no m 0x1201 0
    else if (m.port p).en then .no m 0x1205 0
    else
      let m := m.setPort p { m.port p with testing := true }
      .go { m with tst := { m.tst with lane := some (p, byteN a 1 1, secs) } }) s

/-- R566: SECONDS have passed, or the second boundary after a held enable has come: the errored bits of each lane in use; the
enable takes effect (R436). -/
def execLaneTestDone (errs : List (Fin 4 × BitVec 64)) (s : State) : Host.Outcome State Fault Refusal :=
  lift (fun m => match m.tst.lane with
    | none => m
    | some (p, _, _) =>
      let x := m.port p
      let y := { x with testing := false, pend := false }
      let m := m.setPort p (if x.pend then { y with en := true, run := .starting } else y)
      let m := { m with tst := { m.tst with lane := none } }
      let sum := (errs.map fun e => e.2.toNat).sum
      let m := m.event 0x8C04 p (Nat.min sum (2 ^ 32 - 1))
      m.finish 0x1424 0 0 (errs.flatMap fun e => beBytes 1 (4 * p + e.1.val) ++ beBytes 8 e.2.toNat)) s

/-! ### The online test of the spare columns (R563) -/

/-- The next hearth of a die's unused spare column is tested; a failure is recorded as R561 asks. -/
def Mod.spareTest (m : Mod) (d : Nat) (fails : Bool) : Mod :=
  let x := m.die d
  if x.f ≠ 64 || x.run != .running then m
  else
    let row := if d = 0 then m.tst.rowN else m.tst.rowS
    let next := (row + 1) % 64
    let t := { m.tst with passes := m.tst.passes + b2n (next = 0) }
    let m := { m with tst := if d = 0 then { t with rowN := next } else { t with rowS := next } }
    let m := if fails then m.testFail d (row, 64) else m
    if fails && x.sound then (m.setDie d { m.die d with sound := false }).event 0x8204 d 0 else m

/-- R563: 1,024 ticks after the last one, one hearth of each unused spare column is tested; `failN`, `failS`: it fails. -/
def execSpareOnlineTest (failN failS : Bool) (s : State) : Host.Outcome State Fault Refusal :=
  lift (fun m =>
    if m.pow.state != .running || decide (m.tst.sinceT < 1024) then m
    else
      let m := { m with tst := { m.tst with sinceT := m.tst.sinceT - 1024 } }
      (m.spareTest 0 failN).spareTest 1 failS) s

/-! ### Firmware recovery (R565) -/

/-- FW_LOAD enters the register: bank 0 is erased; each Update-DR appends a word, up to the bank's 32 MiB. -/
def execFwLoad (words : List Word) (s : State) : Host.Outcome State Fault Refusal :=
  lift (fun m =>
    if !m.tst.recovery || m.pow.state != .kindling then m.asBypass
    else
      (m.tap 0x30 false).setBank 0 { words := words.take 8388608 }) s

/-- FW_COMMIT: both images are verified (`sigOk`: their signatures); verified, bank 0 is active and the module resets into
Kindling; else bank 0 is erased and the module stays. -/
def execFwCommit (sigOk : Bool) (slot : BitVec 6) (feed : BitVec 3) (start : Fin 4) (fails : List (Fin 2 × Fin 64 × Fin 65))
    (s : State) : Host.Outcome State Fault Refusal :=
  lift (fun m =>
    if !m.tst.recovery || m.pow.state != .kindling then m.asBypass
    else
      let m := m.tap 0x31 false
      let l := wsBytes m.sec.bank0.words
      match fwBad l sigOk m.sec.roll with
      | some _ =>
        let m := m.setBank 0 {}
        { m with pow := { m.pow with faultN := .low } }
      | none =>
        let m := m.setBank 0 (fwBank l)
        let m := { m with sec := { m.sec with active := 0, trial := false } }.clear
        let m := ({ m with pow := { m.pow with state := .kindling } }).latch slot feed
        if m.pow.held then m
        else
          let m := m.boot start.val (failList fails)
          if m.pow.collier then m.event 0x8C05 0 0 else m) s

end Sys2Proof.Machine
end

