-- ==== Sys2Proof/Machine/Dict.lean ====
section
/-! DEFINITION. The object dictionary (R472 to R477, R485 to R493, R525, R552, R553, R568): every object with its type, access, rights class and value; GET, SET and subscriptions. -/

namespace Sys2Proof.Machine

/-! ### Objects -/

/-- The types of R472. -/
inductive KTy where
  | bool | u8 | u16 | u32 | u64 | i32 | i64 | f32 | bits32 | enum8 | str | bytes | record (n : Nat) | time | ipv4 | ipv6 | cmd
deriving DecidableEq, Repr

/-- Access of an object. -/
inductive KAcc where
  | ro | rw | wo | w1c | rcl
deriving DecidableEq, Repr

/-- Rights classes (R485). -/
inductive KCls where
  | p | c | o | s
deriving DecidableEq, Repr

/-- An object: type, access, class, kept in the journal, roles that may read it beside the class, value as it travels. -/
structure Obj where
  ty   : KTy
  acc  : KAcc := .ro
  cls  : KCls := .p
  jour : Bool := false
  who  : List Nat := [0, 1, 2, 3]
  val  : List Byte
deriving DecidableEq, Repr

/-- Bytes of a value of fixed size; 0 for those that carry their length. -/
def KTy.size : KTy → Nat
  | .bool => 1
  | .u8 => 1
  | .u16 => 2
  | .u32 => 4
  | .u64 => 8
  | .i32 => 4
  | .i64 => 8
  | .f32 => 4
  | .bits32 => 4
  | .enum8 => 1
  | .str => 0
  | .bytes => 0
  | .record n => n
  | .time => 8
  | .ipv4 => 4
  | .ipv6 => 16
  | .cmd => 0

/-- A read-only object with a numeric value. -/
def ob (ty : KTy) (n : Nat) : Obj := { ty := ty, val := beBytes ty.size n }
def obI (ty : KTy) (n : Int) : Obj := ob ty (n % (2 ^ (8 * ty.size) : Nat)).toNat
def obF (n : Int) (d : Nat) : Obj := ob .f32 (f32ratio n d).toNat
def obB (b : Bool) : Obj := ob .bool (b2n b)
def obBytes (l : List Byte) : Obj := { ty := .bytes, val := beBytes 2 l.length ++ l }
def obStr (l : List Byte) : Obj := { ty := .str, val := beBytes 1 l.length ++ l }
def obRec (l : List Byte) : Obj := { ty := .record l.length, val := l }

/-- Changes of an object's access, class, persistence. -/
def Obj.rw (x : Obj) : Obj := { x with acc := .rw }
def Obj.w1c (x : Obj) : Obj := { x with acc := .w1c }
def Obj.rcl (x : Obj) : Obj := { x with acc := .rcl }
def Obj.j (x : Obj) : Obj := { x with jour := true }
def Obj.cl (x : Obj) (k : KCls) : Obj := { x with cls := k }

/-- The ASCII bytes of PART_NUMBER. -/
def partNumber : List Byte := [0x49, 0x4C, 0x34, 0x38, 0x30, 0x30, 0x2D, 0x4D, 0x37, 0x36, 0x38]

/-- A number of counters. -/
def obs64 (l : List Nat) : List Obj := l.map (ob .u64)

/-- Clock of a die in kHz (R248); a stopped die has none. -/
def DieSt.khz (x : DieSt) : Nat := if x.run == .stopped then 0 else 600000 + 112500 * x.k

/-- The objects of 0x1210 and 0x1211. -/
def DieSt.objs (x : DieSt) : List Obj :=
  [(ob .u8 x.want).rw, (obB (x.run == .running || x.run == .starting)).rw, ob .enum8 x.run.num, obB x.pend, ob .u32 x.khz,
   ob .u8 x.f, obB x.sound].map (·.cl .c)

/-- SLOT_STATE (R490): a fetching slot reads empty (R453). -/
def Mod.slotNum (m : Mod) (n : Nat) : Nat :=
  if m.cord.inst = some n then 4
  else if m.cord.load.any (fun l => l.slot = n) then 2
  else match (m.slot n).st with
    | .empty => 0
    | .fetching => 0
    | .staged => 1
    | .rejected => 3

def PairMode.num : PairMode → Nat
  | .unpaired => 0
  | .pairing => 0
  | .paired => 1
  | .widowed => 2

def PortRun.num : PortRun → Nat
  | .down => 0
  | .up => 1
  | .shutting => 2
  | .starting => 3

def ChanRun.num : ChanRun → Nat
  | .idle => 0
  | .running => 1
  | .halted => 2
  | .disabled => 3
  | .shutting => 4

def QpRun.num : QpRun → Nat
  | .free => 0
  | .ready => 1
  | .error => 2

def PeatOn.num : PeatOn → Nat
  | .off => 0
  | .on => 1
  | .shutting => 2

/-- The 16 B of a fault record (R199). -/
def FaultRec.bytes (r : FaultRec) : List Byte :=
  leBytes 16 (r.cls + 2 ^ 4 * r.code + 2 ^ 12 * r.hearth + 2 ^ 25 * r.core + 2 ^ 32 * b2n r.hlevel + 2 ^ 33 * b2n r.rerun + 2 ^ 34 * r.pc +
    2 ^ 64 * r.tick + 2 ^ 96 * (r.mb.getD 0xFFFF))

/-- A record's time as it is presented (R551). -/
def Mod.dated (m : Mod) (t : Nat) : Nat :=
  match m.tick.date with
  | some d => if 2 ^ 63 ≤ t then (d + (t - 2 ^ 63)) % 2 ^ 63 else t
  | none => t

/-- The roles that may invoke a command (R479, R523, R542, R566). -/
def cmdRoles (i : Nat) : Option (List Nat) :=
  if i ≤ 0x1407 ∧ 0x1400 ≤ i then some [2]
  else if [0x1409, 0x140A, 0x1414, 0x1416, 0x1417, 0x141B].contains i then some [2]
  else if [0x1408, 0x140B, 0x140C, 0x140D, 0x140E].contains i then some [1]
  else if [0x140F, 0x1410, 0x1411, 0x1412, 0x1418, 0x1419, 0x1421, 0x1422, 0x1423, 0x1424].contains i then some [3]
  else if [0x141A, 0x141C, 0x1420].contains i then some [2, 3]
  else if i = 0x1413 ∨ i = 0x1415 then some anyRole
  else none

/-- The objects of a command (R478). -/
def Mod.cmdObjs (m : Mod) (i : Nat) (roles : List Nat) : List Obj :=
  let c := m.cmd i
  [{ ty := .cmd, acc := .wo, val := [] }, obB c.busy, ob .u16 c.status, ob .u32 c.detail, { obBytes c.result with who := roles }]

/-- 0x1000 to 0x13FF. -/
def Mod.objsState (m : Mod) (i : Nat) : List Obj :=
  let t := m.tick
  let r := m.train
  match i with
  | 0x1000 => [obStr partNumber, obStr Config.serial, ob .u64 m.sec.id, ob .u64 m.eth.mac.toNat, ob .u32 m.sec.fwVer, ob .u32 m.sec.roll, ob .u16 1]
  | 0x1001 => [ob .enum8 m.pow.state.num, ob .u16 m.pow.reason, ob .u64 (t.now / 1000000), ob .enum8 m.sec.state]
  | 0x1100 => [ob .u64 t.cnt.toNat, ob .u32 t.us, (ob .enum8 t.src).rw.j, (obB t.ppsEn).rw.j, (ob .u8 t.domain).rw.j, (obI .i32 t.syncLog).rw.j,
      obB t.locked, obI .i64 t.offset, ob .u64 t.holdMs, ob .u8 t.iface, ob .time m.time].map (·.cl .c)
  | 0x1200 => [((ob .enum8 m.kop.rnd).rw.j).cl .c, ((obB m.kop.feedOvr).rw.j).cl .o, (ob .u8 m.pow.feedCode).cl .c, (ob .u8 m.pow.slotCode).cl .c,
      ((obB (m.peat.state == .on)).rw.j).cl .c, (ob .enum8 m.peat.state.num).cl .c, (obB m.peat.pendOn).cl .c]
  | 0x1210 => m.dieN.objs
  | 0x1211 => m.dieS.objs
  | 0x1300 => [ob .u64 (if m.cord.inst.isSome then cId m.img else 0), ob .u8 m.cord.gen.toNat,
      ob .bits32 (if m.cord.inst.isSome then cModes m.img % 2048 else 0), obB m.cord.succ.isSome]
  | 0x1310 => [ob .enum8 (m.slotNum 0), ob .enum8 (m.slotNum 1), ob .u16 (m.slot 0).reason, ob .u16 (m.slot 1).reason]
  | 0x1320 => [ob .u64 r.step, ob .u8 (b2n m.hbm.side), ob .u8 r.attempt, ob .u64 r.last, ob .u16 r.voidCnt, ob .f32 r.ls.toNat, ob .u32 r.clean,
      ob .u16 m.clus.part, ob .u16 (if m.cord.inst.isSome then m.self else 0), ob .enum8 m.clus.pair.num, ob .u64 r.stopAt]
  | 0x1321 => obs64 [t.ovr, m.hbm.settleWait, r.audits, r.auditBad]
  | _ => []

/-- LOSS_LOG: up to 16 records (R490), their times since power-up until calendar time is known (R472, R551). -/
def Mod.lossLogBytes (m : Mod) : List Byte :=
  (m.clus.lossLog.drop (m.clus.lossLog.length - 16)).flatMap fun p => beBytes 2 p.1 ++ beBytes 8 (m.dated (2 ^ 63 + p.2))

/-- 0x1500 to 0x17FF. -/
def Mod.objsJob (m : Mod) (ses i : Nat) : List Obj :=
  let e := m.exch
  let k := m.clus
  let r := m.train
  let p := m.peat
  let life := m.allErases
  match i with
  | 0x1500 => obs64 [e.tx, e.rx, e.resend, e.dup, e.stale, e.sealFail, e.late, m.rem.stale, k.msgRes]
  | 0x1501 => obs64 [k.lossCnt, k.shardDiff, k.shardRes, k.repDiff, k.ckptCnt] ++
      [ob .u32 (m.ckptInterval / 1000000000), obBytes (k.lost.flatMap (beBytes 2)), obBytes m.lossLogBytes]
  | 0x1510 => [ob .u16 m.kop.ckCtx, ob .u32 m.kop.ckRkey, ob .u64 m.kop.ckBase, ob .u64 m.kop.ckLen, ob .u64 m.kop.manAddr].map fun x => (x.rw.j).cl .o
  | 0x1600 => [ob .u64 r.waives, ob .u64 r.mismatch, ob .u64 r.bounds, (ob .u8 (m.ksess ses).stepSel).rw, ob .u64 r.misWant, ob .u64 r.misGot,
      ob .u16 (match m.hbm.capture with
        | some c => c.left
        | none => 0)]
  | 0x1601 => obs64 ((List.range 8).map fun c => nth 0 (nth [] r.idleSteps (m.ksess ses).stepSel) c)
  | 0x1602 => obs64 ((List.range 8).map fun c => nth 0 r.idleTick c)
  | 0x1700 => [obRec (m.hbm.setMap.flatMap (leBytes 1)), ob .bits32 (m.hbm.retired.map fun s => 2 ^ s).sum, obB m.hbm.ret.isSome,
      ob .u64 m.hbm.moveLate]
  | 0x1701 => obs64 ((List.range 5).map fun o => tGet 0 m.hbm.movedLast (o + 1))
  | 0x1702 => obs64 ((List.range 5).map fun o => tGet 0 m.hbm.movedLast (8 + o + 1))
  | 0x1710 => obs64 [p.miss, p.late, p.stale, p.bad, p.noslot] ++
      [obF life (1920 * Config.flashBlocks), obI .i64 p.gov, ob .u64 (usable m.retiredDies), ob .u64 ((p.dies.filter fun d => d.2.retired).map fun d => 2 ^ d.1).sum]
  | _ => []

/-- LANE_ERR_HIST (R553): empty until a lane has counted. -/
def Mod.laneHist (m : Mod) : List Byte :=
  if m.pow.lanes.isEmpty then []
  else (List.range 32).flatMap fun l =>
    let x := tGet (0, 0) m.pow.lanes l
    beBytes 1 l ++ beBytes 8 x.1 ++ beBytes 8 x.2

/-- 0x1800 to 0x1CFF. -/
def Mod.objsRest (m : Mod) (i : Nat) : List Obj :=
  let p := m.pow
  let s := m.sec
  let x := m.cross
  let n := m.lifeCounts
  match i with
  | 0x1800 => [(ob .enum8 p.policy).rw.j, (ob .u16 p.capW).rw.j, obF p.inMv 1000, obF p.inMa 1000, obF p.inW 1, obF p.busMv 1000, ob .u16 p.cap,
      ob .enum8 p.pstate].map (·.cl .c)
  | 0x1801 => [obF p.tN 10, obF p.tS 10, obF p.tHub 10, obF p.tHbm 10, obF (Nat.min p.dutyN p.thermN) 256, obF (Nat.min p.dutyS p.thermS) 256].map
      (·.cl .c)
  | 0x1900 => [ob .u64 m.log.next, ob .u64 m.kop.drops, ob .u64 m.kop.tagFail, ob .u64 m.kop.seqOld, ob .u8 (m.kop.sess.filter fun q => q.2.live).length]
  | 0x1A00 => [obB !s.owner.isEmpty, obRec (leBytes 64 (leNat s.ownerId)), (((obBytes (s.hosts.flatMap fun g => beBytes 16 g.toNat)).rw).j).cl .o]
  | 0x1A01 => [(((obBytes s.opList.flatten).rw).j).cl .o]
  | 0x1A02 => [(ob .u64 s.jobId).cl .o, (ob .u64 s.sealed).cl .o]
  | 0x1A03 => [ob .u64 s.replay, ob .u16 (s.sess.filter fun q => q.2.open').length]
  | 0x1A10 => [obBytes m.cert, obBytes Config.caCert, obRec (leBytes 64 (leNat s.fwHash)), ob .u8 s.active, obB s.trial]
  | 0x1A11 => [obB s.dbgBind]
  | 0x1B00 => obs64 (n.take 6) ++ [obF p.maxN 10, obF p.maxS 10, obF p.maxHub 10, obF p.maxHbm 10, ob .u32 p.remaps, ob .u64 (nth 0 n 7),
      obF p.wear 268435456000]
  | 0x1B01 => obs64 [p.dips, p.losses, p.derates, p.surges, p.overs, p.trips]
  | 0x1B10 => [obBytes m.laneHist]
  | 0x1B11 => [obBytes p.lastLoss]
  | 0x1C00 => [(ob .bits32 x.word).w1c, ob .u16 x.cntHearth, ob .u16 x.cntPower, ob .u16 x.cntTherm, ob .u16 x.cntPps]
  | 0x1C10 => [ob .u64 m.flt.count, ob .u16 m.cord.dumps.length]
  | 0x1C20 => [ob .enum8 (b2n m.tst.scan.isSome), ob .u16 m.tst.failN, ob .u16 m.tst.failS, ob .u64 m.tst.passes, ob .time m.tst.lastT,
      ob .u8 (b2n m.dieN.held + 2 * b2n m.dieS.held)]
  | _ => []

/-- One element of the hearth array (R493). -/
def Mod.hearthObjs (m : Mod) (ses h : Nat) : List Obj :=
  let tot := nth [] m.hbm.totals (m.ksess ses).stepSel
  [(ob .bits32 (m.hearthWord h)).w1c, (ob .bits32 (m.mcWord h)).w1c] ++
    (List.range 4).map (fun k => (ob .bits32 (m.vc (cid h (k + 1))).st.toNat).w1c) ++
    (List.range 4).map (fun k => (ob .bits32 (m.vc (cid h (k + 1))).held).rcl) ++
    (List.range 28).map (fun w => ob .u64 (tGet 0 tot (32 * h + w))) ++ [ob .u8 (m.hearth h).gen.toNat, ob .u32 (m.hearth h).stall.toNat]

/-- The windowed arrays of the module's own parts (R492, R493); none where the element does not exist. -/
def Mod.objsArr (m : Mod) (ses i e : Nat) : List Obj :=
  match i with
  | 0x2000 => if e < 8192 then m.hearthObjs ses (hPack (e / 4096) (e % 4096 / 64) (e % 64)) else []
  | 0x2001 => if e < 8320 then [(ob .bits32 (m.physWord (e / 4160) (e % 4160 / 65) (e % 65))).cl .s] else []
  | 0x2002 =>
    let x := m.tensor e
    if m.tensorEnt e = 0 then [] else [ob .u32 x.upd, ob .u32 x.skips, ob .f32 x.norm.toNat, ob .f32 x.gscale.toNat]
  | 0x2003 => if e < m.cord.dumps.length then [obRec (leBytes 8 (nth 0 m.cord.dumps e).toNat)] else []
  | 0x2004 =>
    let l := m.flt.log
    let first := m.flt.made - l.length
    if 256 ≤ e then []
    else match (indices l).find? (fun k => (first + k) % 256 = e) with
      | some k => (l[k]?).toList.map fun r => obRec r.bytes
      | none => [obRec (leBytes 16 0)]
  | 0x2005 =>
    if 4096 ≤ e then []
    else match m.log.ring.find? (fun r => r.seq % 4096 = e) with
      | some r => [obRec (EvRec.bytes { r with time := m.dated r.time })]
      | none => [obRec (leBytes 32 0)]
  | 0x2021 =>
    let c := m.chan e
    let p := psetOf e
    let st := if m.hbm.retired.contains p then 2 else if m.retiring p then 1 else 0
    if e < 384 then [ob .u64 c.ce, ob .u64 c.ue, ob .enum8 st, obB ((m.hbm.ret.toList ++ m.hbm.retQ).any fun r => r.pset = p && r.back)] else []
  | 0x2022 =>
    let d := m.fdie e
    let st := if d.retired then 2 else if m.peat.rebuild = some e || m.peat.rebuildQ.contains e then 1 else 0
    if e < 64 then [ob .enum8 st, ob .u32 (m.meanErases e), ob .u32 d.fails] else []
  | _ => []

/-- The windowed arrays of Ethernet and DMA. -/
def Mod.objsNet (m : Mod) (i e : Nat) : List Obj :=
  match i with
  | 0x2010 =>
    let x := m.port e
    if e < 8 then [(obB x.en).rw.j, (ob .enum8 x.layout).rw.j, (ob .enum8 (b2n x.c2m)).rw.j, (ob .u8 x.pfc.toNat).rw.j, ob .enum8 x.run.num,
      obB x.pend, ob .u64 x.ignored].map (·.cl .c) else []
  | 0x2011 =>
    let x := m.iface e
    if e < 32 && m.ifIs e then [ob .u64 (m.ifMac e), (ob .ipv4 x.ip4.toNat).rw.j, (ob .ipv6 x.ip6.toNat).rw.j, obB x.up, ob .u64 x.drops, ob .u64 x.fec,
      ob .u64 x.hostErr, (ob .u8 x.pre4).rw.j, (ob .u8 x.pre6).rw.j, (ob .ipv4 x.gw4.toNat).rw.j, (ob .ipv6 x.gw6.toNat).rw.j,
      ob .ipv6 (m.ifLocal e).toNat, (ob .u16 x.vlan).rw.j].map (·.cl .c) else []
  | 0x2012 => if e < 4 then [((ob .u8 (nth 0 m.eth.dscp e)).rw.j).cl .c, ((ob .u8 (nth 0 m.eth.prio e)).rw.j).cl .c] else []
  | 0x2020 =>
    let x := m.chanD e
    if e < 32 then [(obB x.en).rw, (ob .u8 x.weight).rw, (ob .u32 x.paceQ).rw, (ob .u16 x.high).rw, (ob .u16 x.low).rw, ob .enum8 x.run.num,
      obB x.pend, ob .u32 (x.haltAt.1 + 256 * x.haltAt.2)].map (·.cl .c) else []
  | 0x2030 => if e < m.hostvis.length then [(ob .u32 (tGet 0 m.eth.rkeys e).toNat).cl .o] else []
  | 0x2031 => if 1024 ≤ e ∧ e < 2048 then [(ob .enum8 (m.qp e).run.num).cl .c, (ob .ipv6 (m.qp e).gid.toNat).cl .c] else []
  | 0x2032 => if e < 4096 then [((ob .ipv6 (tGet 0 m.eth.peers e).toNat).rw.j).cl .c] else []
  | _ => []

/-- The objects of an index, by subindex from 1; none where the index or the element does not exist. -/
def Mod.objs (m : Mod) (ses i e : Nat) : List Obj :=
  match cmdRoles i with
  | some r => m.cmdObjs i r
  | none =>
    if i < 0x1400 then m.objsState i
    else if i < 0x1800 then m.objsJob ses i
    else if i < 0x2000 then m.objsRest i
    else if i < 0x2010 ∨ (0x2021 ≤ i ∧ i < 0x2030) then m.objsArr ses i e
    else m.objsNet i e

def Mod.obj? (m : Mod) (ses i sub e : Nat) : Option Obj := if sub = 0 then none else (m.objs ses i e)[sub - 1]?

/-! ### GET (R474, R475) -/

/-- Reading rights of a class (R485). -/
def KCls.reads : KCls → List Nat
  | .o => [1, 2]
  | _ => [0, 1, 2, 3]

/-- Writing rights of a class, for an access. -/
def KCls.writes (a : KAcc) : KCls → List Nat
  | .p => if a = .w1c then [1, 2] else if a = .rw then [0, 1, 2, 3] else []
  | .c => [1, 2]
  | .o => [2]
  | .s => [3]

/-- The element lies in a stopped die (R486). -/
def Mod.stoppedAt (m : Mod) (i e : Nat) : Bool :=
  (i = 0x2000 && (m.die (e / 4096)).run == .stopped) || (i = 0x2001 && (m.die (e / 4160)).run == .stopped)

/-- The index is a windowed array (R475, R488). -/
def Pdu.array (p : Pdu) : Bool := decide (0x2000 ≤ p.index ∧ p.index ≤ 0x20FF)

/-- Subindices and elements that a request addresses. -/
def Pdu.targets (p : Pdu) : List (Nat × Nat) :=
  (List.range p.count).map fun k => if p.array then (p.sub, p.elem + k) else (p.sub + k, p.elem)

/-- What DETAIL names of a target. -/
def Pdu.place (p : Pdu) (t : Nat × Nat) : Nat := if p.array then t.2 else t.1

/-- Why a target may not be read; 0 when it may. -/
def Mod.readBad (m : Mod) (ses i : Nat) (t : Nat × Nat) : Nat :=
  match m.obj? ses i t.1 t.2 with
  | none => 0x14
  | some x =>
    let r := (m.ksess ses).role
    if !x.cls.reads.contains r || !x.who.contains r then 0x13
    else if x.acc = .wo then 0x18
    else if m.stoppedAt i t.2 then 0x1C
    else 0

/-- The read-clear of an RCL object or field (R474). -/
def Mod.readClear (m : Mod) (i : Nat) (t : Nat × Nat) : Mod :=
  if i = 0x2001 then m.clearPhys (t.2 / 4160) (t.2 % 4160 / 65) (t.2 % 65)
  else if i ≠ 0x2000 then m
  else
    let h := hPack (t.2 / 4096) (t.2 % 4096 / 64) (t.2 % 64)
    if t.1 = 1 then m.setHearth h { m.hearth h with ce := 0, passes := 0 }
    else if t.1 = 2 then m.setMc (cid h 0) { m.mc (cid h 0) with emptyRed := 0 }
    else if 7 ≤ t.1 ∧ t.1 ≤ 10 then m.setVc (cid h (t.1 - 6)) { m.vc (cid h (t.1 - 6)) with held := 0 }
    else m

/-- How many of the values, from the first, lie within n bytes together. -/
def fitting (n : Nat) : List (List Byte) → Nat
  | [] => 0
  | v :: vs => if v.length ≤ n then fitting (n - v.length) vs + 1 else 0

/-- R474, R486: GET, whole or not at all. -/
def execGet (ses seq : BitVec 32) (s : State) : Host.Outcome State Fault Refusal :=
  lift (fun m => m.withReq ses.toNat seq.toNat 3 fun m p _ =>
    let n := ses.toNat
    if p.count = 0 then m.respond n p 0x10 0 []
    else if m.pow.state = .kindling && p.index ≠ 0x1000 && p.index ≠ 0x1001 then m.respond n p 0x1B 0 []
    else match p.targets.find? (fun t => m.readBad n p.index t ≠ 0) with
      | some t => m.respond n p (m.readBad n p.index t) (p.place t) []
      | none =>
        let vs := p.targets.map fun t => ((m.obj? n p.index t.1 t.2).map Obj.val).getD []
        let v := vs.flatten
        if 1440 < 48 + v.length then m.respond n p 0x19 (p.place (p.targets.getD (fitting 1392 vs) (0, 0))) []
        else (p.targets.foldl (fun (m : Mod) t => m.readClear p.index t) m).respond n p 0 0 v) s

/-! ### SET (R476, R477) -/

/-- Bytes that a value of a type takes at the front of some bytes; none where they do not hold one. -/
def KTy.take (ty : KTy) (l : List Byte) : Option Nat :=
  let n := match ty with
    | .str => 1 + beNat (l.take 1)
    | .bytes => 2 + beNat (l.take 2)
    | _ => ty.size
  if l.length < n ∨ (ty = .str ∧ l.isEmpty) ∨ (ty = .bytes ∧ l.length < 2) then none else some n

/-- The values of a SET in order; none where LEN does not match the types. -/
def splitVals : List KTy → List Byte → Option (List (List Byte))
  | [], l => if l.isEmpty then some [] else none
  | t :: ts, l => match t.take l with
    | none => none
    | some n => (splitVals ts (l.drop n)).map fun r => l.take n :: r

/-- Pieces of n bytes. -/
def cutBytes (n : Nat) : Nat → List Byte → List (List Byte)
  | 0, _ => []
  | k + 1, l => if l.isEmpty then [] else l.take n :: cutBytes n k (l.drop n)

/-- A value written if it is in range. -/
def wIf (m : Mod) (ok : Bool) (f : Mod → Mod) : WOut := if ok then { status := 0, m := f m } else { status := 0x16, m := m }

/-- A gateway lies in a prefix of w-bit addresses (R435). -/
def inPrefix (w pre ip gw : Nat) : Bool := gw = 0 || (ip ≠ 0 && ip / 2 ^ (w - pre) = gw / 2 ^ (w - pre))

/-- HOST_LIST (R449): host queue pairs whose GID is no longer listed end. -/
def Mod.writeHosts (m : Mod) (v : List Byte) : WOut :=
  let l := v.drop 2
  if l.length % 16 ≠ 0 ∨ 1024 < l.length then { status := 0x16, m := m }
  else
    let hs := (cutBytes 16 64 l).map fun b => BitVec.ofNat 128 (beNat b)
    let m := { m with sec := { m.sec with hosts := hs } }
    let gone := (m.eth.qps.filter fun q => decide (1024 ≤ q.1) && q.2.run != .free && q.2.rank.isNone && !hs.contains q.2.gid).map Prod.fst
    { status := 0, m := gone.foldl Mod.endHostQp m }

/-- OPERATOR_LIST (R525). -/
def Mod.writeOps (m : Mod) (v : List Byte) : WOut :=
  let l := v.drop 2
  if l.length % 64 ≠ 0 ∨ 1024 < l.length then { status := 0x16, m := m }
  else { status := 0, m := { m with sec := { m.sec with opList := cutBytes 64 16 l } } }

/-- Settings of 0x1100 to 0x1FFF; v is the value as a number, l its bytes. -/
def Mod.setPlain (m : Mod) (ses i sub v : Nat) (l : List Byte) : WOut :=
  match i, sub with
  | 0x1100, 3 => m.writeTickSrc v
  | 0x1100, 4 => wIf m (v ≤ 1) fun m => { m with tick := { m.tick with ppsEn := v = 1 } }
  | 0x1100, 5 => wIf m (v ≤ 127) fun m => { m with tick := { m.tick with domain := v } }
  | 0x1100, 6 =>
    let z := sext 32 v
    wIf m (decide (-7 ≤ z ∧ z ≤ 0)) fun m => { m with tick := { m.tick with syncLog := z } }
  | 0x1200, 1 => wIf m (v ≤ 2) fun m => { m with kop := { m.kop with rnd := v } }
  | 0x1200, 2 => wIf m (v ≤ 1) fun m => m.setFeedOvr (v = 1)
  | 0x1200, 5 => if v ≤ 1 then m.writePeatEn v else { status := 0x16, m := m }
  | 0x1210, 1 => m.writeDieSetting 0 v
  | 0x1211, 1 => m.writeDieSetting 1 v
  | 0x1210, 2 => if v = 0 then m.writeDieStop 0 else if v = 1 then m.writeDieStart 0 else { status := 0x16, m := m }
  | 0x1211, 2 => if v = 0 then m.writeDieStop 1 else if v = 1 then m.writeDieStart 1 else { status := 0x16, m := m }
  | 0x1510, 1 => wIf m true fun m => { m with kop := { m.kop with ckCtx := v } }
  | 0x1510, 2 => wIf m true fun m => { m with kop := { m.kop with ckRkey := v } }
  | 0x1510, 3 => wIf m true fun m => { m with kop := { m.kop with ckBase := v } }
  | 0x1510, 4 => wIf m true fun m => { m with kop := { m.kop with ckLen := v } }
  | 0x1510, 5 => wIf m true fun m => { m with kop := { m.kop with manAddr := v } }
  | 0x1600, 4 => wIf m (v ≤ 15) fun m => m.setKsess ses { m.ksess ses with stepSel := v }
  | 0x1800, 1 => wIf m (v ≤ 2) fun m => ({ m with pow := { m.pow with policy := v } }).setCap
  | 0x1800, 2 => wIf m (800 ≤ v && v ≤ 2600 && v % 10 = 0) fun m => ({ m with pow := { m.pow with capW := v } }).setCap
  | 0x1A00, 3 => m.writeHosts l
  | 0x1A01, 1 => m.writeOps l
  | 0x1C00, 1 =>
    let x := m.cross
    let y := { x with ovrHearth := x.ovrHearth && !bitAt v 0, ovrPower := x.ovrPower && !bitAt v 1, ovrTherm := x.ovrTherm && !bitAt v 2,
                      ovrPps := x.ovrPps && !bitAt v 3 }
    { status := 0, m := { m with cross := y } }
  | _, _ => { status := 0x17, m := m }

/-- W1C words of a hearth (R62, R132, R164). -/
def Mod.setHearthObj (m : Mod) (h sub v : Nat) : WOut :=
  if sub = 1 then { status := 0, m := m.setHearth h { m.hearth h with addrFlt := (m.hearth h).addrFlt && !bitAt v 24 } }
  else if sub = 2 then
    let x := m.mc (cid h 0)
    { status := 0, m := m.setMc (cid h 0) { x with intOvf := x.intOvf && !bitAt v 4, nonfin := x.nonfin && !bitAt v 5 } }
  else
    let x := m.vc (cid h (sub - 2))
    { status := 0, m := m.setVc (cid h (sub - 2)) { x with st := x.st &&& ~~~(BitVec.ofNat 4 v) } }

/-- Settings of an interface (R434, R435, R446). -/
def Mod.setIfObj (m : Mod) (i sub v : Nat) : WOut :=
  let x := m.iface i
  match sub with
  | 2 => wIf m true fun m => (m.setIface i { x with ip4 := BitVec.ofNat 32 v }).tellAddrs
  | 3 => wIf m true fun m => (m.setIface i { x with ip6 := BitVec.ofNat 128 v }).tellAddrs
  | 8 => wIf m (1 ≤ v && v ≤ 32) fun m => m.setIface i { x with pre4 := v }
  | 9 => wIf m (1 ≤ v && v ≤ 128) fun m => m.setIface i { x with pre6 := v }
  | 10 => wIf m (inPrefix 32 x.pre4 x.ip4.toNat v) fun m => m.setIface i { x with gw4 := BitVec.ofNat 32 v }
  | 11 => wIf m (inPrefix 128 x.pre6 x.ip6.toNat v) fun m => m.setIface i { x with gw6 := BitVec.ofNat 128 v }
  | 13 => m.writeVlan i v
  | _ => { status := 0x17, m := m }

/-- Settings of a port (R436, R445). -/
def Mod.setPortObj (m : Mod) (p sub v : Nat) : WOut :=
  match sub with
  | 1 => if v ≤ 1 then m.writePortEn p v else { status := 0x16, m := m }
  | 2 => m.writeLayout p v
  | 3 => m.writeLaneMode p v
  | 4 => if bitAt v 6 then { status := 0xE02, m := m }
    else
      let x := m.port p
      let m := m.setPort p { x with pfc := BitVec.ofNat 8 v, paused := x.paused.filter (bitAt v), xoff := x.xoff.filter (bitAt v) }
      { status := 0, m := (x.paused.filter fun k => !bitAt v k).foldl (fun (m : Mod) k => m.unpause p k) m }
  | _ => { status := 0x17, m := m }

/-- Depth of the queue that paces a channel; the greatest where the cord does not place it (R50, R462). -/
def Mod.paceDepth (m : Mod) (x : ChanSt) : Nat :=
  let id := cid (slice x.paceQ 12 0) (slice x.paceQ 19 13)
  if (m.ctl id).placed then (m.inq (qid id (slice x.paceQ 21 20))).size else 272

/-- Settings of a DMA channel (R454, R462, R463). -/
def Mod.setDmaObj (m : Mod) (c sub v : Nat) : WOut :=
  let x := m.chanD c
  if 28 ≤ c then { status := 0xE05, m := m }
  else match sub with
    | 1 => if v ≤ 1 then m.writeDmaEn c v else { status := 0x16, m := m }
    | 2 => wIf m (1 ≤ v && v ≤ 16) fun m => m.setChanD c { x with weight := v }
    | 3 => wIf m true fun m => m.setChanD c { x with paceQ := v % 2 ^ 22 }
    | 4 => wIf m (v = 0 || (0 < x.low && x.low < v && v ≤ m.paceDepth x)) fun m => m.setChanD c { x with high := v }
    | 5 => wIf m (x.high = 0 || (0 < v && v < x.high)) fun m => m.setChanD c { x with low := v }
    | _ => { status := 0x17, m := m }

/-- A write of one object; class and access have been judged. -/
def Mod.setOne (m : Mod) (ses i sub e : Nat) (l : List Byte) : WOut :=
  let v := beNat l
  match i with
  | 0x2000 => m.setHearthObj (hPack (e / 4096) (e % 4096 / 64) (e % 64)) sub v
  | 0x2010 => m.setPortObj e sub v
  | 0x2011 => m.setIfObj e sub v
  | 0x2012 =>
    if sub = 1 then wIf m (v ≤ 63) fun m => { m with eth := { m.eth with dscp := setAt m.eth.dscp e v } }
    else wIf m (v ≤ 7) fun m => { m with eth := { m.eth with prio := setAt m.eth.prio e v } }
  | 0x2020 => m.setDmaObj e sub v
  | 0x2032 => wIf m true fun m => { m with eth := { m.eth with peers := tSet 0 m.eth.peers e (BitVec.ofNat 128 v) } }
  | _ => m.setPlain ses i sub v l

/-- Why a target may not be written, before its value is looked at; 0 when it may. An object that reading clears (RCL) counts as
read-only (log entry 97). -/
def Mod.writeBad (m : Mod) (ses i : Nat) (sig : Bool) (t : Nat × Nat) : Nat :=
  match m.obj? ses i t.1 t.2 with
  | none => 0x14
  | some x =>
    let r := (m.ksess ses).role
    if i = 0x2020 ∧ 28 ≤ t.2 then 0xE05
    else if x.acc = .ro ∨ x.acc = .rcl then 0x17
    else if !(KCls.writes x.acc x.cls).contains r then 0x13
    else if x.cls = .o && (!sig || m.sec.owner.isEmpty) then 0x12
    else if m.pow.state = .fault && (x.cls = .c || x.cls = .o) then 0x1B
    else if m.stoppedAt i t.2 then 0x1C
    else 0

/-- Values written in order; the first that fails ends it. -/
def Mod.setAll (m : Mod) (ses i : Nat) (pend : Bool) : List ((Nat × Nat) × List Byte) → WOut × Option (Nat × Nat)
  | [] => ({ status := b2n pend, m := m }, none)
  | (t, v) :: r =>
    let o := m.setOne ses i t.1 t.2 v
    if 2 ≤ o.status then (o, some t) else o.m.setAll ses i (pend || o.status = 1) r

/-- A SET of objects: every value, role and state is judged before any is written; all are written or none. Settings of
persistence J go to the journal first; `kept`: that write succeeds. -/
def Mod.setReq (m : Mod) (ses : Nat) (p : Pdu) (sig kept : Bool) : Mod :=
  let ts := p.targets
  if p.count = 0 then m.respond ses p 0x10 0 []
  else if m.pow.state = .kindling then m.respond ses p 0x1B 0 []
  else match ts.find? (fun t => m.writeBad ses p.index sig t ≠ 0) with
    | some t => m.respond ses p (m.writeBad ses p.index sig t) (p.place t) []
    | none =>
      let os := ts.filterMap fun t => m.obj? ses p.index t.1 t.2
      match splitVals (os.map Obj.ty) p.value with
      | none => m.respond ses p 0x15 0 []
      | some vs =>
        match m.setAll ses p.index false (List.zip ts vs) with
        | (o, some t) => m.respond ses p o.status (if o.status < 256 then p.place t else 0) []
        | (o, none) =>
          if os.any Obj.jour && !kept then m.respond ses p 0x1D 0 []
          else
            let keep := fun (m : Mod) (q : (Nat × Nat) × List Byte) =>
              if ((m.obj? ses p.index q.1.1 q.1.2).map Obj.jour).getD false then
                m.journal 3 (leBytes 2 p.index ++ leBytes 1 q.1.1 ++ leBytes 4 q.1.2 ++ q.2)
              else m
            ((List.zip ts vs).foldl keep o.m).respond ses p o.status 0 []

/-- The row that a SET of objects belongs to, by its first object: 1 DIE_SETTING, 2 DIE_RUN 0, 3 DIE_RUN of another value, 4 PEAT_EN, 5 TICK_SRC,
6 PORT_EN, 7 PORT_LAYOUT, 8 LANE_MODE, 9 VLAN_ID, 10 DMA_EN, 11 ARG of a command, 0 any other. -/
def Pdu.row (p : Pdu) : Nat :=
  if (cmdRoles p.index).isSome && p.sub = 1 then 11
  else match p.index, p.sub with
    | 0x1210, 1 => 1
    | 0x1211, 1 => 1
    | 0x1210, 2 => if beNat (p.value.take 1) = 0 then 2 else 3
    | 0x1211, 2 => if beNat (p.value.take 1) = 0 then 2 else 3
    | 0x1200, 5 => 4
    | 0x1100, 3 => 5
    | 0x2010, 1 => 6
    | 0x2010, 2 => 7
    | 0x2010, 3 => 8
    | 0x2011, 13 => 9
    | 0x2020, 1 => 10
    | _, _ => 0

/-- A waiting SET of one row. -/
def Mod.setRow (m : Mod) (ses seq row : Nat) (kept : Bool) : Mod :=
  m.withReq ses seq 4 fun m p sig => if p.row = row then m.setReq ses p sig kept else m

/-- R476, R485, R486: a SET of objects that have no row of their own. -/
def execObjectWrite (ses seq : BitVec 32) (kept : Bool) (s : State) : Host.Outcome State Fault Refusal :=
  lift (fun m => m.setRow ses.toNat seq.toNat 0 kept) s

/-- R269: a SET that begins with DIE_SETTING. -/
def execDieSettingWrite (ses seq : BitVec 32) (kept : Bool) (s : State) : Host.Outcome State Fault Refusal :=
  lift (fun m => m.setRow ses.toNat seq.toNat 1 kept) s

/-- R271: a SET that begins with DIE_RUN 0. -/
def execDieStop (ses seq : BitVec 32) (kept : Bool) (s : State) : Host.Outcome State Fault Refusal :=
  lift (fun m => m.setRow ses.toNat seq.toNat 2 kept) s

/-- R271: a SET that begins with DIE_RUN 1. -/
def execDieStart (ses seq : BitVec 32) (kept : Bool) (s : State) : Host.Outcome State Fault Refusal :=
  lift (fun m => m.setRow ses.toNat seq.toNat 3 kept) s

/-- R323: a SET that begins with PEAT_EN. -/
def execPeatEnWrite (ses seq : BitVec 32) (kept : Bool) (s : State) : Host.Outcome State Fault Refusal :=
  lift (fun m => m.setRow ses.toNat seq.toNat 4 kept) s

/-- R379: a SET that begins with TICK_SRC. -/
def execTickSrcWrite (ses seq : BitVec 32) (kept : Bool) (s : State) : Host.Outcome State Fault Refusal :=
  lift (fun m => m.setRow ses.toNat seq.toNat 5 kept) s

/-- R436: a SET that begins with PORT_EN. -/
def execPortEnWrite (ses seq : BitVec 32) (kept : Bool) (s : State) : Host.Outcome State Fault Refusal :=
  lift (fun m => m.setRow ses.toNat seq.toNat 6 kept) s

/-- R436: a SET that begins with PORT_LAYOUT. -/
def execPortLayoutWrite (ses seq : BitVec 32) (kept : Bool) (s : State) : Host.Outcome State Fault Refusal :=
  lift (fun m => m.setRow ses.toNat seq.toNat 7 kept) s

/-- R436: a SET that begins with LANE_MODE. -/
def execLaneModeWrite (ses seq : BitVec 32) (kept : Bool) (s : State) : Host.Outcome State Fault Refusal :=
  lift (fun m => m.setRow ses.toNat seq.toNat 8 kept) s

/-- R446: a SET that begins with VLAN_ID. -/
def execVlanIdWrite (ses seq : BitVec 32) (kept : Bool) (s : State) : Host.Outcome State Fault Refusal :=
  lift (fun m => m.setRow ses.toNat seq.toNat 9 kept) s

/-- R463: a SET that begins with DMA_EN. -/
def execDmaEnWrite (ses seq : BitVec 32) (kept : Bool) (s : State) : Host.Outcome State Fault Refusal :=
  lift (fun m => m.setRow ses.toNat seq.toNat 10 kept) s

/-! ### Subscriptions (R481) -/

/-- n addresses: index, subindex, element. -/
def subAddrs : Nat → List Byte → List (Nat × Nat × Nat)
  | 0, _ => []
  | n + 1, l => (beNat (l.take 2), beNat ((l.drop 2).take 1), beNat ((l.drop 3).take 4)) :: subAddrs n (l.drop 7)

/-- n ranges of event codes. -/
def subRanges : Nat → List Byte → List (Nat × Nat)
  | 0, _ => []
  | n + 1, l => (beNat (l.take 2), beNat ((l.drop 2).take 2)) :: subRanges n (l.drop 4)

/-- What refuses a SUBSCRIBE, or the subscription it asks for, without its number. -/
def Mod.subOf (m : Mod) (ses : Nat) (v : List Byte) : Nat × KSub :=
  let none' : KSub := { no := 0, values := false }
  let kind := beNat (v.take 1)
  if v.isEmpty || 1 < kind then (if v.isEmpty then 0x15 else 0x16, none')
  else
    let vals := kind = 0
    let period := beNat ((v.drop 1).take 4)
    let n := beNat ((v.drop (if vals then 5 else 1)).take 1)
    let body := v.drop (if vals then 6 else 2)
    if body.length ≠ (if vals then 7 else 4) * n then (0x15, none')
    else if n = 0 || 16 < n || (vals && (period < 10 || 60000 < period)) then (0x16, none')
    else if vals then
      let as := subAddrs n body
      match as.find? (fun a => !([0, 0x1C] : List Nat).contains (m.readBad ses a.1 (a.2.1, a.2.2))) with
      | some a => (m.readBad ses a.1 (a.2.1, a.2.2), none')
      | none =>
        let len := (as.map fun a => (((m.obj? ses a.1 a.2.1 a.2.2).map Obj.val).getD []).length).sum
        if 1440 < 51 + len then (0x19, none')
        else (0, { no := 0, values := true, period := period, addrs := as, next := m.tick.now + 1000000 * period })
    else (0, { no := 0, values := false, ranges := subRanges n body })

/-- Subscriptions held by every session. -/
def Mod.subCount (m : Mod) : Nat := (m.kop.sess.map fun p => p.2.subs.length).sum

/-- R481: SUBSCRIBE. -/
def execSubscribe (ses seq : BitVec 32) (s : State) : Host.Outcome State Fault Refusal :=
  lift (fun m => m.withReq ses.toNat seq.toNat 5 fun m p _ =>
    let n := ses.toNat
    let x := m.ksess n
    let r := m.subOf n p.value
    if m.pow.state = .kindling then m.respond n p 0x1B 0 []
    else if r.1 ≠ 0 then m.respond n p r.1 0 []
    else if 8 ≤ x.subs.length || 256 ≤ m.subCount then m.respond n p 0x1F 0 []
    else
      let no := (m.kop.subNo + 1) % 65536
      let m := (m.setKsess n { x with subs := x.subs ++ [{ r.2 with no := no }] })
      ({ m with kop := { m.kop with subNo := no } }).respond n p 0 0 (beBytes 2 no)) s

/-- R481, R494: the period of a value subscription has passed: its values are sent without a read-clear; a value that cannot be
read is left out and sets GAP. -/
def execSubscriptionDelivery (ses : BitVec 32) (no : BitVec 16) (s : State) : Host.Outcome State Fault Refusal :=
  lift (fun m =>
    let n := ses.toNat
    let x := m.ksess n
    match x.subs.find? (fun u => u.no = no.toNat && u.values) with
    | none => m
    | some u =>
      if !m.answers || m.tick.now < u.next then m
      else
        let good := u.addrs.filter fun a => m.readBad n a.1 (a.2.1, a.2.2) = 0
        let v := good.flatMap fun a => ((m.obj? n a.1 a.2.1 a.2.2).map Obj.val).getD []
        let gap := u.gap || decide (good.length ≠ u.addrs.length)
        let step := 1000000 * u.period
        let w := { u with gap := false, next := if m.tick.now < u.next + step then u.next + step else m.tick.now + step }
        let m := m.setKsess n { x with subs := x.subs.map fun y => if y.no = u.no then w else y }
        m.originate n 7 0 0 (some u.no) (beBytes 2 u.no ++ beBytes 1 (b2n gap) ++ v)) s

end Sys2Proof.Machine
end

