-- ==== Sys2Proof/Machine/Dispatch.lean ====
section
/-! DEFINITION. Dispatch: one arm per command, each one direct call of its meaning. -/

namespace Sys2Proof.Machine

/-- The effect of a command on everything but the queue. -/
def exec (i : Instr) (s : State) : Host.Outcome State Fault Refusal :=
  match i with
  | .scNop h n => Sys2Proof.Machine.execScNop h n s
  | .scAdd h n => Sys2Proof.Machine.execScAdd h n s
  | .scSub h n => Sys2Proof.Machine.execScSub h n s
  | .scAnd h n => Sys2Proof.Machine.execScAnd h n s
  | .scOr h n => Sys2Proof.Machine.execScOr h n s
  | .scXor h n => Sys2Proof.Machine.execScXor h n s
  | .scShl h n => Sys2Proof.Machine.execScShl h n s
  | .scShr h n => Sys2Proof.Machine.execScShr h n s
  | .scSra h n => Sys2Proof.Machine.execScSra h n s
  | .scMul h n => Sys2Proof.Machine.execScMul h n s
  | .scMulhu h n => Sys2Proof.Machine.execScMulhu h n s
  | .scSlt h n => Sys2Proof.Machine.execScSlt h n s
  | .scSltu h n => Sys2Proof.Machine.execScSltu h n s
  | .scMin h n => Sys2Proof.Machine.execScMin h n s
  | .scMax h n => Sys2Proof.Machine.execScMax h n s
  | .scMinu h n => Sys2Proof.Machine.execScMinu h n s
  | .scMaxu h n => Sys2Proof.Machine.execScMaxu h n s
  | .scClz h n => Sys2Proof.Machine.execScClz h n s
  | .scPopc h n => Sys2Proof.Machine.execScPopc h n s
  | .scAddi h n => Sys2Proof.Machine.execScAddi h n s
  | .scAndi h n => Sys2Proof.Machine.execScAndi h n s
  | .scOri h n => Sys2Proof.Machine.execScOri h n s
  | .scXori h n => Sys2Proof.Machine.execScXori h n s
  | .scShli h n => Sys2Proof.Machine.execScShli h n s
  | .scShri h n => Sys2Proof.Machine.execScShri h n s
  | .scLui h n => Sys2Proof.Machine.execScLui h n s
  | .scBext h n => Sys2Proof.Machine.execScBext h n s
  | .scHash h n => Sys2Proof.Machine.execScHash h n s
  | .scSort h n => Sys2Proof.Machine.execScSort h n s
  | .scLd h n => Sys2Proof.Machine.execScLd h n s
  | .scLdb h n => Sys2Proof.Machine.execScLdb h n s
  | .scSt h n => Sys2Proof.Machine.execScSt h n s
  | .scStb h n => Sys2Proof.Machine.execScStb h n s
  | .scBeq h n => Sys2Proof.Machine.execScBeq h n s
  | .scBne h n => Sys2Proof.Machine.execScBne h n s
  | .scBlt h n => Sys2Proof.Machine.execScBlt h n s
  | .scBge h n => Sys2Proof.Machine.execScBge h n s
  | .scBltu h n => Sys2Proof.Machine.execScBltu h n s
  | .scBgeu h n => Sys2Proof.Machine.execScBgeu h n s
  | .scJal h n => Sys2Proof.Machine.execScJal h n s
  | .scJr h n => Sys2Proof.Machine.execScJr h n s
  | .scCas h n => Sys2Proof.Machine.execScCas h n s
  | .scAadd h n => Sys2Proof.Machine.execScAadd h n s
  | .scTake h n => Sys2Proof.Machine.execScTake h n s
  | .scPut h n => Sys2Proof.Machine.execScPut h n s
  | .scPeek h n => Sys2Proof.Machine.execScPeek h n s
  | .scQcnt h n => Sys2Proof.Machine.execScQcnt h n s
  | .scGath h n => Sys2Proof.Machine.execScGath h n s
  | .scScat h n => Sys2Proof.Machine.execScScat h n s
  | .scScata h n => Sys2Proof.Machine.execScScata h n s
  | .scFence h n => Sys2Proof.Machine.execScFence h n s
  | .scBlk h n => Sys2Proof.Machine.execScBlk h n s
  | .scEnd h n => Sys2Proof.Machine.execScEnd h n s
  | .scSync h n => Sys2Proof.Machine.execScSync h n s
  | .vcNop h n => Sys2Proof.Machine.execVcNop h n s
  | .vadd h n => Sys2Proof.Machine.execVadd h n s
  | .vsub h n => Sys2Proof.Machine.execVsub h n s
  | .vmul h n => Sys2Proof.Machine.execVmul h n s
  | .vfma h n => Sys2Proof.Machine.execVfma h n s
  | .vmin h n => Sys2Proof.Machine.execVmin h n s
  | .vmax h n => Sys2Proof.Machine.execVmax h n s
  | .vcmp h n => Sys2Proof.Machine.execVcmp h n s
  | .vsel h n => Sys2Proof.Machine.execVsel h n s
  | .vcvt h n => Sys2Proof.Machine.execVcvt h n s
  | .vred h n => Sys2Proof.Machine.execVred h n s
  | .vsegr h n => Sys2Proof.Machine.execVsegr h n s
  | .vexp h n => Sys2Proof.Machine.execVexp h n s
  | .vlog h n => Sys2Proof.Machine.execVlog h n s
  | .vrcp h n => Sys2Proof.Machine.execVrcp h n s
  | .vrsq h n => Sys2Proof.Machine.execVrsq h n s
  | .vtanh h n => Sys2Proof.Machine.execVtanh h n s
  | .vld h n => Sys2Proof.Machine.execVld h n s
  | .vst h n => Sys2Proof.Machine.execVst h n s
  | .hld h n => Sys2Proof.Machine.execHld h n s
  | .hst h n => Sys2Proof.Machine.execHst h n s
  | .ald h n => Sys2Proof.Machine.execAld h n s
  | .aaddi h n => Sys2Proof.Machine.execAaddi h n s
  | .amov h n => Sys2Proof.Machine.execAmov h n s
  | .vbcst h n => Sys2Proof.Machine.execVbcst h n s
  | .vtake h n => Sys2Proof.Machine.execVtake h n s
  | .vput h n => Sys2Proof.Machine.execVput h n s
  | .vgath h n => Sys2Proof.Machine.execVgath h n s
  | .vscat h n => Sys2Proof.Machine.execVscat h n s
  | .vscata h n => Sys2Proof.Machine.execVscata h n s
  | .bz h n => Sys2Proof.Machine.execBz h n s
  | .bnz h n => Sys2Proof.Machine.execBnz h n s
  | .jmp h n => Sys2Proof.Machine.execJmp h n s
  | .vcLoop h n => Sys2Proof.Machine.execVcLoop h n s
  | .parm h n => Sys2Proof.Machine.execParm h n s
  | .stepM h n => Sys2Proof.Machine.execStepM h n s
  | .vcBlk h n => Sys2Proof.Machine.execVcBlk h n s
  | .vcEnd h n => Sys2Proof.Machine.execVcEnd h n s
  | .vcFence h n => Sys2Proof.Machine.execVcFence h n s
  | .tile h => Sys2Proof.Machine.execTile h s
  | .loadA h => Sys2Proof.Machine.execLoadA h s
  | .loadB h => Sys2Proof.Machine.execLoadB h s
  | .mma h => Sys2Proof.Machine.execMma h s
  | .drain h => Sys2Proof.Machine.execDrain h s
  | .signal h => Sys2Proof.Machine.execSignal h s
  | .mcLoop h => Sys2Proof.Machine.execMcLoop h s
  | .mcBlockEnd h => Sys2Proof.Machine.execMcBlockEnd h s
  | .inblockWaitResume h core => Sys2Proof.Machine.execInblockWaitResume h core s
  | .blockStart h core => Sys2Proof.Machine.execBlockStart h core s
  | .schedEntryStart h core => Sys2Proof.Machine.execSchedEntryStart h core s
  | .tokenArrival prod q => Sys2Proof.Machine.execTokenArrival prod q s
  | .spillRefill q => Sys2Proof.Machine.execSpillRefill q s
  | .creditReturn q => Sys2Proof.Machine.execCreditReturn q s
  | .treeCreditReturn t => Sys2Proof.Machine.execTreeCreditReturn t s
  | .replicationForward t node => Sys2Proof.Machine.execReplicationForward t node s
  | .engineResponse h eng core => Sys2Proof.Machine.execEngineResponse h eng core s
  | .markerRemove q => Sys2Proof.Machine.execMarkerRemove q s
  | .stallFault h levels => Sys2Proof.Machine.execStallFault h levels s
  | .coreFault => Sys2Proof.Machine.execCoreFault s
  | .hearthFault fs => Sys2Proof.Machine.execHearthFault fs s
  | .patrolScrubGranule h spare found => Sys2Proof.Machine.execPatrolScrubGranule h spare found s
  | .tickBoundary times hbm eth => Sys2Proof.Machine.execTickBoundary times hbm eth s
  | .digestCompare => Sys2Proof.Machine.execDigestCompare s
  | .moveComplete ix => Sys2Proof.Machine.execMoveComplete ix s
  | .refreshSlot => Sys2Proof.Machine.execRefreshSlot s
  | .hbmScrubBurst c found => Sys2Proof.Machine.execHbmScrubBurst c found s
  | .hbmUe a found => Sys2Proof.Machine.execHbmUe a found s
  | .hbmRetireCopyDone => Sys2Proof.Machine.execHbmRetireCopyDone s
  | .turfLanded t => Sys2Proof.Machine.execTurfLanded t s
  | .turfWritebackDone t die => Sys2Proof.Machine.execTurfWritebackDone t die s
  | .turfReadFail t d rebuilt => Sys2Proof.Machine.execTurfReadFail t d rebuilt s
  | .flashRebuildDone => Sys2Proof.Machine.execFlashRebuildDone s
  | .peatOffDone => Sys2Proof.Machine.execPeatOffDone s
  | .commitVoteCast => Sys2Proof.Machine.execCommitVoteCast s
  | .sideFlip => Sys2Proof.Machine.execSideFlip s
  | .stepParamWrite => Sys2Proof.Machine.execStepParamWrite s
  | .driftAudit => Sys2Proof.Machine.execDriftAudit s
  | .contribReceive r suite ctr body bucket piece chunk => Sys2Proof.Machine.execContribReceive r suite ctr body bucket piece chunk s
  | .summaryMake bucket => Sys2Proof.Machine.execSummaryMake bucket s
  | .summaryReceive r suite ctr body bucket => Sys2Proof.Machine.execSummaryReceive r suite ctr body bucket s
  | .resendReceive r suite ctr body bucket piece chunk => Sys2Proof.Machine.execResendReceive r suite ctr body bucket piece chunk s
  | .voidReceive r suite ctr body => Sys2Proof.Machine.execVoidReceive r suite ctr body s
  | .ptpMessageReceive ix domain type rank ptp off time => Sys2Proof.Machine.execPtpMessageReceive ix domain type rank ptp off time s
  | .ptpAnnounceTimeout ix => Sys2Proof.Machine.execPtpAnnounceTimeout ix s
  | .ptpSyncSend => Sys2Proof.Machine.execPtpSyncSend s
  | .holdoverEnd => Sys2Proof.Machine.execHoldoverEnd s
  | .batchSend w => Sys2Proof.Machine.execBatchSend w s
  | .creditBatchSend n exch => Sys2Proof.Machine.execCreditBatchSend n exch s
  | .batchReceive r qp suite ctr body => Sys2Proof.Machine.execBatchReceive r qp suite ctr body s
  | .gatherComplete r ctr ent off body last => Sys2Proof.Machine.execGatherComplete r ctr ent off body last s
  | .helloReceive r suite ctr body => Sys2Proof.Machine.execHelloReceive r suite ctr body s
  | .pairTimeout => Sys2Proof.Machine.execPairTimeout s
  | .mgradReceive r suite ctr body => Sys2Proof.Machine.execMgradReceive r suite ctr body s
  | .msumReceive r suite ctr body => Sys2Proof.Machine.execMsumReceive r suite ctr body s
  | .mackReceive r suite ctr body => Sys2Proof.Machine.execMackReceive r suite ctr body s
  | .voteReceive r suite ctr body => Sys2Proof.Machine.execVoteReceive r suite ctr body s
  | .outcomeReceive r suite ctr body => Sys2Proof.Machine.execOutcomeReceive r suite ctr body s
  | .digestRound => Sys2Proof.Machine.execDigestRound s
  | .digestReceive r suite ctr body => Sys2Proof.Machine.execDigestReceive r suite ctr body s
  | .stateReceive r suite ctr body => Sys2Proof.Machine.execStateReceive r suite ctr body s
  | .ckdoneReceive r suite ctr body => Sys2Proof.Machine.execCkdoneReceive r suite ctr body s
  | .heartbeatReceive r suite ctr body => Sys2Proof.Machine.execHeartbeatReceive r suite ctr body s
  | .lossBySilence r => Sys2Proof.Machine.execLossBySilence r s
  | .lossReceive r suite ctr body => Sys2Proof.Machine.execLossReceive r suite ctr body s
  | .departReceive r suite ctr body => Sys2Proof.Machine.execDepartReceive r suite ctr body s
  | .addrsReceive r suite ctr body => Sys2Proof.Machine.execAddrsReceive r suite ctr body s
  | .frameReceive ix f => Sys2Proof.Machine.execFrameReceive ix f s
  | .linkChange ix up => Sys2Proof.Machine.execLinkChange ix up s
  | .rocePacketReceive ix qpn op pkey psn ce rkey addr len imm syn body => Sys2Proof.Machine.execRocePacketReceive ix qpn op pkey psn ce rkey addr len imm syn body s
  | .ackTimeout c path => Sys2Proof.Machine.execAckTimeout c path s
  | .rnrRetry c => Sys2Proof.Machine.execRnrRetry c s
  | .psnGapTimeout c => Sys2Proof.Machine.execPsnGapTimeout c s
  | .cnpReceive c path due => Sys2Proof.Machine.execCnpReceive c path due s
  | .rateIncrease c path => Sys2Proof.Machine.execRateIncrease c path s
  | .pfcReceive p prio pause => Sys2Proof.Machine.execPfcReceive p prio pause s
  | .pfcThreshold p prio high => Sys2Proof.Machine.execPfcThreshold p prio high s
  | .dmaDoorbell c rkey tail => Sys2Proof.Machine.execDmaDoorbell c rkey tail s
  | .dmaDescriptorStart c => Sys2Proof.Machine.execDmaDescriptorStart c s
  | .dmaDescriptorComplete c remote => Sys2Proof.Machine.execDmaDescriptorComplete c remote s
  | .dmaPaceSample c => Sys2Proof.Machine.execDmaPaceSample c s
  | .dmaDisableDone c units remote => Sys2Proof.Machine.execDmaDisableDone c units remote s
  | .cordFetchDone bytes => Sys2Proof.Machine.execCordFetchDone bytes s
  | .kopDatagramReceive u pdu frag tagOk => Sys2Proof.Machine.execKopDatagramReceive u pdu frag tagOk s
  | .openCmd u pdu svcOk => Sys2Proof.Machine.execOpen u pdu svcOk s
  | .close ses seq => Sys2Proof.Machine.execClose ses seq s
  | .get ses seq => Sys2Proof.Machine.execGet ses seq s
  | .objectWrite ses seq kept => Sys2Proof.Machine.execObjectWrite ses seq kept s
  | .subscribe ses seq => Sys2Proof.Machine.execSubscribe ses seq s
  | .unsubscribe ses seq => Sys2Proof.Machine.execUnsubscribe ses seq s
  | .ack ses seq => Sys2Proof.Machine.execAck ses seq s
  | .keepalive ses seq => Sys2Proof.Machine.execKeepalive ses seq s
  | .sessionTimeout ses => Sys2Proof.Machine.execSessionTimeout ses s
  | .notifyRetransmit ses seq => Sys2Proof.Machine.execNotifyRetransmit ses seq s
  | .subscriptionDelivery ses no => Sys2Proof.Machine.execSubscriptionDelivery ses no s
  | .stage ses seq => Sys2Proof.Machine.execStage ses seq s
  | .load ses seq => Sys2Proof.Machine.execLoad ses seq s
  | .loadChecksDone sigOk => Sys2Proof.Machine.execLoadChecksDone sigOk s
  | .hearthSwitch h => Sys2Proof.Machine.execHearthSwitch h s
  | .switchTimeout => Sys2Proof.Machine.execSwitchTimeout s
  | .start ses seq => Sys2Proof.Machine.execStart ses seq s
  | .stop ses seq => Sys2Proof.Machine.execStop ses seq s
  | .unload ses seq => Sys2Proof.Machine.execUnload ses seq s
  | .exportCmd ses seq => Sys2Proof.Machine.execExport ses seq s
  | .importCmd ses seq => Sys2Proof.Machine.execImport ses seq s
  | .digestNow ses seq => Sys2Proof.Machine.execDigestNow ses seq s
  | .declareLost ses seq => Sys2Proof.Machine.execDeclareLost ses seq s
  | .replace ses seq => Sys2Proof.Machine.execReplace ses seq s
  | .capture ses seq => Sys2Proof.Machine.execCapture ses seq s
  | .hostQpCreate ses seq => Sys2Proof.Machine.execHostQpCreate ses seq s
  | .hostQpDestroy ses seq => Sys2Proof.Machine.execHostQpDestroy ses seq s
  | .ringCreate ses seq => Sys2Proof.Machine.execRingCreate ses seq s
  | .ringDestroy ses seq => Sys2Proof.Machine.execRingDestroy ses seq s
  | .hbmRetire ses seq => Sys2Proof.Machine.execHbmRetire ses seq s
  | .hbmReturn ses seq => Sys2Proof.Machine.execHbmReturn ses seq s
  | .flashDieRetire ses seq => Sys2Proof.Machine.execFlashDieRetire ses seq s
  | .columnRetire ses seq fails => Sys2Proof.Machine.execColumnRetire ses seq fails s
  | .bind ses seq kept => Sys2Proof.Machine.execBind ses seq kept s
  | .unbind ses seq => Sys2Proof.Machine.execUnbind ses seq s
  | .attest ses seq => Sys2Proof.Machine.execAttest ses seq s
  | .jobKeySet ses seq opens => Sys2Proof.Machine.execJobKeySet ses seq opens s
  | .jobKeyClear ses seq => Sys2Proof.Machine.execJobKeyClear ses seq s
  | .debugChallenge ses seq => Sys2Proof.Machine.execDebugChallenge ses seq s
  | .debugUnlock ses seq svcOk => Sys2Proof.Machine.execDebugUnlock ses seq svcOk s
  | .debugLock ses seq => Sys2Proof.Machine.execDebugLock ses seq s
  | .zeroise ses seq => Sys2Proof.Machine.execZeroise ses seq s
  | .fwUpdate ses seq => Sys2Proof.Machine.execFwUpdate ses seq s
  | .reset ses seq slot feed start fails => Sys2Proof.Machine.execReset ses seq slot feed start fails s
  | .scanOpen ses seq => Sys2Proof.Machine.execScanOpen ses seq s
  | .scanClose ses seq => Sys2Proof.Machine.execScanClose ses seq s
  | .selftestRun ses seq => Sys2Proof.Machine.execSelftestRun ses seq s
  | .laneTest ses seq => Sys2Proof.Machine.execLaneTest ses seq s
  | .dieSettingWrite ses seq kept => Sys2Proof.Machine.execDieSettingWrite ses seq kept s
  | .dieStop ses seq kept => Sys2Proof.Machine.execDieStop ses seq kept s
  | .dieStart ses seq kept => Sys2Proof.Machine.execDieStart ses seq kept s
  | .dieDrainTimeout d loc => Sys2Proof.Machine.execDieDrainTimeout d loc s
  | .dieStopDone d => Sys2Proof.Machine.execDieStopDone d s
  | .ringReadAbort ses seq elem => Sys2Proof.Machine.execRingReadAbort ses seq elem s
  | .ringUrgent h => Sys2Proof.Machine.execRingUrgent h s
  | .crossingEvent f v taken => Sys2Proof.Machine.execCrossingEvent f v taken s
  | .peatEnWrite ses seq kept => Sys2Proof.Machine.execPeatEnWrite ses seq kept s
  | .tickSrcWrite ses seq kept => Sys2Proof.Machine.execTickSrcWrite ses seq kept s
  | .portEnWrite ses seq kept => Sys2Proof.Machine.execPortEnWrite ses seq kept s
  | .portLayoutWrite ses seq kept => Sys2Proof.Machine.execPortLayoutWrite ses seq kept s
  | .laneModeWrite ses seq kept => Sys2Proof.Machine.execLaneModeWrite ses seq kept s
  | .vlanIdWrite ses seq kept => Sys2Proof.Machine.execVlanIdWrite ses seq kept s
  | .portDownDone p => Sys2Proof.Machine.execPortDownDone p s
  | .dmaEnWrite ses seq kept => Sys2Proof.Machine.execDmaEnWrite ses seq kept s
  | .kex1Receive k => Sys2Proof.Machine.execKex1Receive k s
  | .kex2Receive k certOk sigOk => Sys2Proof.Machine.execKex2Receive k certOk sigOk s
  | .kex3Receive k certOk sigOk => Sys2Proof.Machine.execKex3Receive k certOk sigOk s
  | .kexConfirmReceive r ok => Sys2Proof.Machine.execKexConfirmReceive r ok s
  | .kexTimeout r => Sys2Proof.Machine.execKexTimeout r s
  | .bootWatchdog slot feed start fails => Sys2Proof.Machine.execBootWatchdog slot feed start fails s
  | .collierWatchdog slot feed start fails => Sys2Proof.Machine.execCollierWatchdog slot feed start fails s
  | .powerUp mv slot feed start fails => Sys2Proof.Machine.execPowerUp mv slot feed start fails s
  | .inputOutOfWindow mv => Sys2Proof.Machine.execInputOutOfWindow mv s
  | .inputReturn mv low us => Sys2Proof.Machine.execInputReturn mv low us s
  | .derateChange mv => Sys2Proof.Machine.execDerateChange mv s
  | .surge peak us => Sys2Proof.Machine.execSurge peak us s
  | .lossProcedure written => Sys2Proof.Machine.execLossProcedure written s
  | .powerLoopUpdate inMv inMa w busMv dN dS step => Sys2Proof.Machine.execPowerLoopUpdate inMv inMa w busMv dN dS step s
  | .thermalSample jN jS jHub hN hS => Sys2Proof.Machine.execThermalSample jN jS jHub hN hS s
  | .railFault => Sys2Proof.Machine.execRailFault s
  | .drainingComplete => Sys2Proof.Machine.execDrainingComplete s
  | .drainTimeout => Sys2Proof.Machine.execDrainTimeout s
  | .resetInAssert => Sys2Proof.Machine.execResetInAssert s
  | .resetInRelease slot feed start fails => Sys2Proof.Machine.execResetInRelease slot feed start fails s
  | .journalSnapshot lanes => Sys2Proof.Machine.execJournalSnapshot lanes s
  | .ppsInEdge => Sys2Proof.Machine.execPpsInEdge s
  | .spareOnlineTest failN failS => Sys2Proof.Machine.execSpareOnlineTest failN failS s
  | .trst => Sys2Proof.Machine.execTrst s
  | .bypass => Sys2Proof.Machine.execBypass s
  | .idcode => Sys2Proof.Machine.execIdcode s
  | .samplePreload pins din => Sys2Proof.Machine.execSamplePreload pins din s
  | .extest pins din => Sys2Proof.Machine.execExtest pins din s
  | .extestPulse pins din => Sys2Proof.Machine.execExtestPulse pins din s
  | .extestTrain pins din => Sys2Proof.Machine.execExtestTrain pins din s
  | .clamp => Sys2Proof.Machine.execClamp s
  | .highz => Sys2Proof.Machine.execHighz s
  | .hdbgHalt h => Sys2Proof.Machine.execHdbgHalt h s
  | .hdbgRing addr write data => Sys2Proof.Machine.execHdbgRing addr write data s
  | .hdbgHbm addr data => Sys2Proof.Machine.execHdbgHbm addr data s
  | .collierDbg n => Sys2Proof.Machine.execCollierDbg n s
  | .fwLoad words => Sys2Proof.Machine.execFwLoad words s
  | .fwCommit sigOk slot feed start fails => Sys2Proof.Machine.execFwCommit sigOk slot feed start fails s
  | .dieStartDone d => Sys2Proof.Machine.execDieStartDone d s
  | .exportDone => Sys2Proof.Machine.execExportDone s
  | .importDone man manOk recs => Sys2Proof.Machine.execImportDone man manOk recs s
  | .fwStaged img sigOk => Sys2Proof.Machine.execFwStaged img sigOk s
  | .selftestDone fails => Sys2Proof.Machine.execSelftestDone fails s
  | .laneTestDone errs => Sys2Proof.Machine.execLaneTestDone errs s
  | .zeroiseDone => Sys2Proof.Machine.execZeroiseDone s
  | .ppsOutPulse on => Sys2Proof.Machine.execPpsOutPulse on s
  | .exchangeSlotStart => Sys2Proof.Machine.execExchangeSlotStart s
  | .flashProgramFail d => Sys2Proof.Machine.execFlashProgramFail d s

end Sys2Proof.Machine
end

