-- ==== Sys2Proof/Safety.lean ====
section
/-! DEFINITION. The terms in which claims speak: what completing a command means, where a core stands, how an instruction word is put together from its fields (R74, R85), when a request of a session reaches a command, which messages fit their fields. No file of the machine uses a name of this file. -/

namespace Sys2Proof.Machine

/-- The command completes: the module becomes `m`, the queue of waiting commands stays. -/
abbrev Completes (s : State) (c : Instr) (m : Mod) : Prop :=
  Sys2Proof.Machine.exec c s = .next { s with m := m }

/-! ### Scalar cores -/

/-- Module-wide number of scalar core n of hearth h. -/
def scAt (h : BitVec 13) (n : Fin 123) : Nat := cid h.toNat (coreSc n.val)

/-- Scalar core n of hearth h issues, and the word at its program counter is w. -/
def Mod.scStands (m : Mod) (h : BitVec 13) (n : Fin 123) (w : Word) : Bool :=
  m.issues h.toNat (coreSc n.val) && decide ((m.ctl (scAt h n)).pc < 128) &&
    (nth 0 (m.sc (scAt h n)).prog (m.ctl (scAt h n)).pc == w)

/-- The value of a register of a scalar core. -/
def Mod.scReg (m : Mod) (h : BitVec 13) (n : Fin 123) (r : BitVec 4) : Word := (m.sc (scAt h n)).get r.toNat

/-- The program counter of a scalar core. -/
def Mod.scPc (m : Mod) (h : BitVec 13) (n : Fin 123) : Nat := (m.ctl (scAt h n)).pc

/-- The core holds `st` and goes on to its next instruction; nothing else changes. -/
def Mod.scThen (m : Mod) (h : BitVec 13) (n : Fin 123) (st : ScSt) : Mod :=
  (m.setSc (scAt h n) st).setPc (scAt h n) (m.scPc h n + 1)

/-- A result in one register, then the next instruction; nothing else changes. -/
def Mod.scResult (m : Mod) (h : BitVec 13) (n : Fin 123) (r : BitVec 4) (v : Word) : Mod :=
  m.scThen h n ((m.sc (scAt h n)).put r.toNat v)

/-- Where the core stands at word w, the command completes with the module m. -/
def ScDoes (s : State) (h : BitVec 13) (n : Fin 123) (w : Word) (c : Instr) (m : Mod) : Prop :=
  s.m.scStands h n w = true → Completes s c m

/-- Where the core stands at word w, the command raises the program fault `code` (R68) and does nothing else. -/
def ScFaults (s : State) (h : BitVec 13) (n : Fin 123) (w : Word) (c : Instr) (code : Nat) : Prop :=
  s.m.scStands h n w = true → Completes s c (s.m.raise h.toNat (coreSc n.val) 1 code)

/-- Format A (R74), its reserved field given. -/
def fmtA (op : BitVec 6) (rd ra rb : BitVec 4) (z : BitVec 14 := 0#14) : Word := op ++ rd ++ ra ++ rb ++ z
/-- Format I (R74). -/
def fmtI (op : BitVec 6) (rd ra : BitVec 4) (imm : BitVec 18) : Word := op ++ rd ++ ra ++ imm
/-- Format B (R74). -/
def fmtB (op : BitVec 6) (ra rb : BitVec 4) (off : BitVec 18) : Word := op ++ ra ++ rb ++ off
/-- Format Q (R74). -/
def fmtQ (op : BitVec 6) (rd ra : BitVec 4) (q : BitVec 1) (len : BitVec 5) (tag : BitVec 6) (mask eot : BitVec 1)
    (z : BitVec 4 := 0#4) : Word := op ++ rd ++ ra ++ q ++ len ++ tag ++ mask ++ eot ++ z
/-- Format M (R74). -/
def fmtM (op : BitVec 6) (rd ra rb w : BitVec 4) (q : BitVec 2) (core : BitVec 7) (z : BitVec 1 := 0#1) : Word :=
  op ++ rd ++ ra ++ rb ++ w ++ q ++ core ++ z
/-- Format F (R74). -/
def fmtF (op : BitVec 6) (in0 in1 out0 out1 : BitVec 4) (z : BitVec 10 := 0#10) : Word :=
  op ++ in0 ++ in1 ++ out0 ++ out1 ++ z

/-- The commands of scalar core n of hearth h, in the order of their opcodes (R75). -/
def scalarCommands (h : BitVec 13) (n : Fin 123) : List Instr :=
  [
    .scNop h n, .scAdd h n, .scSub h n, .scAnd h n, .scOr h n, .scXor h n, .scShl h n, .scShr h n, .scSra h n,
    .scMul h n, .scMulhu h n, .scSlt h n, .scSltu h n, .scMin h n, .scMax h n, .scMinu h n, .scMaxu h n, .scClz h n,
    .scPopc h n, .scAddi h n, .scAndi h n, .scOri h n, .scXori h n, .scShli h n, .scShri h n, .scLui h n, .scBext h n,
    .scHash h n, .scSort h n, .scLd h n, .scLdb h n, .scSt h n, .scStb h n, .scBeq h n, .scBne h n, .scBlt h n,
    .scBge h n, .scBltu h n, .scBgeu h n, .scJal h n, .scJr h n, .scCas h n, .scAadd h n, .scTake h n, .scPut h n,
    .scPeek h n, .scQcnt h n, .scGath h n, .scScat h n, .scScata h n, .scFence h n, .scBlk h n, .scEnd h n,
    .scSync h n]

/-! ### Vector cores -/

/-- Module-wide number of vector core n of hearth h. -/
def vcAt (h : BitVec 13) (n : Fin 4) : Nat := cid h.toNat (coreVc n.val)

/-- Vector core n of hearth h issues, and the word at its program counter is w. -/
def Mod.vcStands (m : Mod) (h : BitVec 13) (n : Fin 4) (w : Word) : Bool :=
  m.issues h.toNat (coreVc n.val) && decide ((m.ctl (vcAt h n)).pc < 512) &&
    (nth 0 (m.vc (vcAt h n)).prog (m.ctl (vcAt h n)).pc == w)

/-- The program counter of a vector core. -/
def Mod.vcPc (m : Mod) (h : BitVec 13) (n : Fin 4) : Nat := (m.ctl (vcAt h n)).pc

/-- The core holds `st` and goes on to its next instruction; nothing else changes. -/
def Mod.vcThen (m : Mod) (h : BitVec 13) (n : Fin 4) (st : VcSt) : Mod :=
  (m.setVc (vcAt h n) st).setPc (vcAt h n) (m.vcPc h n + 1)

/-- Where the core stands at word w, the command completes with the module m. -/
def VcDoes (s : State) (h : BitVec 13) (n : Fin 4) (w : Word) (c : Instr) (m : Mod) : Prop :=
  s.m.vcStands h n w = true → Completes s c m

/-- Where the core stands at word w, the command raises the program fault `code` (R68) and does nothing else. -/
def VcFaults (s : State) (h : BitVec 13) (n : Fin 4) (w : Word) (c : Instr) (code : Nat) : Prop :=
  s.m.vcStands h n w = true → Completes s c (s.m.raise h.toNat (coreVc n.val) 1 code)

/-- The commands of vector core n of hearth h, in the order of their opcodes (R88). -/
def vectorCommands (h : BitVec 13) (n : Fin 4) : List Instr :=
  [
    .vcNop h n, .vadd h n, .vsub h n, .vmul h n, .vfma h n, .vmin h n, .vmax h n, .vcmp h n, .vsel h n, .vcvt h n,
    .vred h n, .vsegr h n, .vexp h n, .vlog h n, .vrcp h n, .vrsq h n, .vtanh h n, .vld h n, .vst h n, .hld h n,
    .hst h n, .ald h n, .aaddi h n, .amov h n, .vbcst h n, .vtake h n, .vput h n, .vgath h n, .vscat h n, .vscata h n,
    .bz h n, .bnz h n, .jmp h n, .vcLoop h n, .parm h n, .stepM h n, .vcBlk h n, .vcEnd h n, .vcFence h n]

/-- Lane i of a vector register, lanes of w bits (R84). -/
def laneAt (w : Nat) (v : BitVec 256) (i : Nat) : Nat := v.toNat / 2 ^ (i * w) % 2 ^ w

/-- Where the core stands at the word, the command writes register d lane by lane: `g` where the mask enables the lane, the
old lane elsewhere; the status word collects the flags `fl` of the enabled lanes; every other part of the core stays. -/
def VcLanes (s : State) (h : BitVec 13) (n : Fin 4) (word : Word) (c : Instr) (d w : Nat) (mask : Word) (g : Nat → Nat)
    (fl : Nat → Flg) : Prop :=
  let old := s.m.vc (vcAt h n)
  s.m.vcStands h n word = true → ∃ st : VcSt, Completes s c (s.m.vcThen h n st) ∧
    (∀ i < 256 / w, laneAt w (st.getv d) i = if mask.getLsbD i then g i % 2 ^ w else laneAt w (old.getv d) i) ∧
    (∀ r, r ≠ d → st.getv r = old.getv r) ∧
    (∀ b < 4, st.st.getLsbD b = (old.st.getLsbD b ||
      ((List.range (256 / w)).any fun i => mask.getLsbD i && (fl i).bits.testBit b))) ∧
    st = { old with v := st.v, st := st.st }

/-- Format V (R85). -/
def fmtV (op : BitVec 6) (vd va vb vc : BitVec 4) (k rm : BitVec 2) (fmt : BitVec 4) (sub : BitVec 2) : Word :=
  op ++ vd ++ va ++ vb ++ vc ++ k ++ rm ++ fmt ++ sub
/-- Format X (R85). -/
def fmtX (op : BitVec 6) (vd va src dst : BitVec 4) (k rm : BitVec 2) (as z : BitVec 3) : Word :=
  op ++ vd ++ va ++ src ++ dst ++ k ++ rm ++ as ++ z
/-- Format L (R85). -/
def fmtL (op : BitVec 6) (vd : BitVec 4) (aa : BitVec 3) (imm : BitVec 19) : Word := op ++ vd ++ aa ++ imm
/-- Format Q of the vector core (R85). -/
def fmtVQ (op : BitVec 6) (vd : BitVec 4) (q : BitVec 2) (tag : BitVec 6) (mask eot : BitVec 1) (len : BitVec 5)
    (z : BitVec 7) : Word := op ++ vd ++ q ++ tag ++ mask ++ eot ++ len ++ z
/-- Format M of the vector core (R85). -/
def fmtVM (op : BitVec 6) (vd : BitVec 4) (aa ab : BitVec 3) (w : BitVec 4) (q : BitVec 2) (core : BitVec 7)
    (z : BitVec 3) : Word := op ++ vd ++ aa ++ ab ++ w ++ q ++ core ++ z
/-- Format S (R85). -/
def fmtS (op : BitVec 6) (vd : BitVec 4) (aa : BitVec 3) (qd qo : BitVec 2) (fmt : BitVec 4) (sub rm : BitVec 2)
    (tag : BitVec 6) (z : BitVec 1) : Word := op ++ vd ++ aa ++ qd ++ qo ++ fmt ++ sub ++ rm ++ tag ++ z
/-- Format P (R85). -/
def fmtP (op : BitVec 6) (af ad : BitVec 3) (z : BitVec 20) : Word := op ++ af ++ ad ++ z

/-! ### Matrix cores -/

/-- What the sequencer of hearth h sees as it issues the descriptor at its program counter: the fetch has been granted. -/
def Mod.mcSees (m : Mod) (h : BitVec 13) : MEnv :=
  let x := m.hearth h.toNat
  let pc := (m.ctl (cid h.toNat 0)).pc
  { m := m.setHearth h.toNat (x.fetched pc), h := h.toNat, d := x.desc pc,
    mc := m.mc (cid h.toNat 0), o := offsets x (m.mc (cid h.toNat 0)) pc, stall := m }

/-- The sequencer of hearth h issues and stands at a descriptor of this opcode, in this phase, and the descriptor passes its
checks (R130). -/
def Mod.mcReady (m : Mod) (h : BitVec 13) (op : Nat) (ph : Phase) (cause : MEnv → Option Nat) : Prop :=
  m.issues h.toNat 0 = true ∧ dOp (m.mcSees h).d = op ∧ (m.ctl (cid h.toNat 0)).phase = ph ∧
    mcCheck (cause (m.mcSees h)) op (m.mcSees h) = none

/-- The control state after a descriptor of block b: the next descriptor, the first again after the last; the block ends with a
descriptor whose END bit is 1 (R117). -/
def Mod.mcAfter (m : Mod) (h : BitVec 13) (b : Nat) : Ctl :=
  let c := cid h.toNat 0
  let ct := m.ctl c
  { ct with phase := if dEnd (m.mcSees h).d then .ending b else .inside b,
            pc := if ct.pc + 1 = (m.mc c).ndesc then 0 else ct.pc + 1 }

/-! ### Requests of KOP sessions -/

/-- The collier answers KOP, and the request `p` waits under a SEQ of a session; `sig`: its owner signature verifies. -/
def Mod.waits (m : Mod) (ses seq : BitVec 32) (p : Pdu) (sig : Bool) : Prop :=
  m.answers = true ∧ ∃ q, m.req? ses.toNat seq.toNat = some q ∧ Pdu.ofBytes q.pdu = p ∧ q.sig = sig

/-- The waiting request invokes command i: a SET of its ARG with COUNT 1 (R478). -/
def Mod.asksFor (m : Mod) (ses seq : BitVec 32) (i : Nat) (p : Pdu) (sig : Bool) : Prop :=
  m.waits ses seq p sig ∧ p.op = 4 ∧ p.index = i ∧ p.sub = 1 ∧ p.count = 1

/-- The invocation reaches the command's own rule: the state, the role, the Owner's signature and the busy flag are as the
command asks for them (R478, R479, R485, R486). -/
def Mod.invokes (m : Mod) (ses seq : BitVec 32) (i : Nat) (roles : List Nat) (inFault : Bool) (p : Pdu) : Prop :=
  ∃ sig, m.asksFor ses seq i p sig ∧ m.pow.state ≠ .kindling ∧ (m.pow.state = .fault → inFault = true) ∧
    (m.ksess ses.toNat).role ∈ roles ∧ ((m.ksess ses.toNat).role = 2 → roles ≠ anyRole → sig = true) ∧ m.cmdBusy i = false

/-- The command's final outcome, at once: LAST_STATUS, LAST_DETAIL, LAST_RESULT and the response (R478). -/
def Mod.cmdEnds (m : Mod) (ses : BitVec 32) (i : Nat) (p : Pdu) (status : Nat) (detail : Nat := 0) (result : List Byte := []) :
    Mod :=
  (m.setCmd i { status := status, detail := detail, result := result, ses := ses.toNat }).respond ses.toNat p status detail result

/-- The command is accepted: it is busy, its outcome follows; LAST_STATUS and the rest stay as `old` has them (R478). -/
def Mod.cmdGoes (m : Mod) (ses : BitVec 32) (i : Nat) (p : Pdu) (old : KCmd) : Mod :=
  (m.setCmd i { old with busy := true, ses := ses.toNat, arg := p.value }).respond ses.toNat p 2 0 []

/-! ### Messages and memory -/

/-- The fields of a PDU lie in the widths of R466 and LEN is the length of its value. -/
def Pdu.fits (p : Pdu) : Prop :=
  p.version < 2 ^ 4 ∧ p.op < 2 ^ 4 ∧ p.status < 2 ^ 16 ∧ p.session < 2 ^ 32 ∧ p.seq < 2 ^ 32 ∧ p.index < 2 ^ 16 ∧ p.sub < 2 ^ 8 ∧
    p.count < 2 ^ 8 ∧ p.elem < 2 ^ 32 ∧ p.len < 2 ^ 16 ∧ p.detail < 2 ^ 32 ∧ p.value.length = p.len

/-- The fields of an exchange message lie in the widths of R362. -/
def ExMsg.fits (x : ExMsg) : Prop :=
  x.kind < 2 ^ 4 ∧ x.npart < 2 ^ 8 ∧ x.bucket < 2 ^ 16 ∧ x.sender < 2 ^ 12 ∧ x.attempt < 2 ^ 4 ∧ x.piece < 2 ^ 16 ∧ x.step < 2 ^ 64 ∧
    x.chunk < 2 ^ 32 ∧ x.len < 2 ^ 32 ∧ x.samples < 2 ^ 32 ∧ x.tensor < 2 ^ 16 ∧ x.first < 2 ^ 40

/-- The fields of a cluster message lie in the widths of R402. -/
def ClMsg.fits (x : ClMsg) : Prop :=
  x.kind < 2 ^ 4 ∧ x.vkind < 2 ^ 4 ∧ x.sender < 2 ^ 12 ∧ x.attempt < 2 ^ 4 ∧ x.part < 2 ^ 10 ∧ x.subject < 2 ^ 12 ∧ x.step < 2 ^ 64 ∧
    x.tick < 2 ^ 64 ∧ x.tensor < 2 ^ 16 ∧ x.nrec < 2 ^ 16 ∧ x.len < 2 ^ 32 ∧ x.first < 2 ^ 40 ∧ x.offset < 2 ^ 40 ∧ x.cover < 2 ^ 16 ∧
    x.last < 2 ^ 64

/-- The memory of HBM is in its canonical form. -/
def State.hbmCanonical (s : State) : Prop := Memory.wf s.m.hbm.mem = true

end Sys2Proof.Machine
end

