-- ==== Sys2Proof/Certificates/Slice0/Obligations.lean ====
section
/-! DEFINITION. The statements about the machine, one proposition each. -/

open Sys2Proof Sys2Proof.Machine

/-! ### The queue of commands -/

/-- A step takes the command at the front of the queue and runs it over the module with the queue's rest. -/
def Rule.StepRunsTheFrontCommand : Prop :=
  ∀ (s : State) (c : Instr) (rest : List Instr),
    Sys2Proof.Machine.step { s with pending := c :: rest } = Sys2Proof.Machine.exec c { s with pending := rest }

/-! ### Tokens sent -/

/-- Where a token sent on an output queue goes from m to m', by the queue's binding (R172, R187). -/
def SentOn (m m' : Mod) (oq : Nat) (t : Token) : Prop :=
  let o := m.outq oq
  let joins := fun (f : Flight) => m'.grid.flights = m.grid.flights ++ [f] ∧ m'.grid.inqs = m.grid.inqs ∧ m'.grid.trees = m.grid.trees
  (∀ q ex, o.bind = .unicast q ex → joins { target := q, tok := { tok := t, prod := oq }, express := ex }) ∧
  (∀ w, o.bind = .remote w → joins { target := prodRem w, tok := { tok := t, prod := oq } }) ∧
  (o.bind = .none → m'.grid.flights = m.grid.flights ∧ m'.grid.inqs = m.grid.inqs ∧ m'.grid.trees = m.grid.trees) ∧
  (∀ k, o.bind = .tree k →
    let tr := m.tree k
    let src := qHearth tr.src
    let all := indices tr.targets
    (tr.nodeAt src = none → joins (tr.flight k t src all)) ∧
    (∀ i, tr.nodeAt src = some i → ∃ m₀ : Mod, m₀.grid.flights = m.grid.flights ∧ m₀.grid.inqs = m.grid.inqs ∧ m₀.grid.trees = m.grid.trees ∧
      m₀.cord = m.cord ∧ m₀.clus = m.clus ∧
      (∀ g, (m₀.hearth g).gen = (m.hearth g).gen ∧ (m₀.hearth g).reqs = (m.hearth g).reqs) ∧
      m'.grid.flights = (m₀.enterNode k i t all).grid.flights ∧ m'.grid.inqs = (m₀.enterNode k i t all).grid.inqs ∧
      m'.grid.trees = (m₀.enterNode k i t all).grid.trees))

/-! ### Scalar cores -/

/-- R75: the instructions on two registers, with NOP: the result by the table, s0 discarding it, the next instruction,
nothing else changed. -/
def Rule.ScalarRegisterOperations : Prop :=
  ∀ (s : State) (h : BitVec 13) (n : Fin 123) (d a b : BitVec 4),
    let x := s.m.scReg h n a
    let y := s.m.scReg h n b
    let does := fun (op : BitVec 6) (c : Instr) (v : Word) =>
      ScDoes s h n (fmtA op d a b) c (s.m.scResult h n d v)
    ScDoes s h n (fmtA 0x00 d a b) (.scNop h n) (s.m.setPc (scAt h n) (s.m.scPc h n + 1)) ∧
    does 0x01 (.scAdd h n) (BitVec.ofNat 32 (x.toNat + y.toNat)) ∧
    does 0x02 (.scSub h n) (x - y) ∧
    does 0x03 (.scAnd h n) (x &&& y) ∧
    does 0x04 (.scOr h n) (x ||| y) ∧
    does 0x05 (.scXor h n) (x ^^^ y) ∧
    does 0x06 (.scShl h n) (x <<< (y.extractLsb' 0 5).toNat) ∧
    does 0x07 (.scShr h n) (x >>> (y.extractLsb' 0 5).toNat) ∧
    does 0x08 (.scSra h n) (x.sshiftRight (y.extractLsb' 0 5).toNat) ∧
    does 0x09 (.scMul h n) ((x.setWidth 64 * y.setWidth 64).extractLsb' 0 32) ∧
    does 0x0A (.scMulhu h n) ((x.setWidth 64 * y.setWidth 64).extractLsb' 32 32) ∧
    does 0x0B (.scSlt h n) (if x.toInt < y.toInt then 1 else 0) ∧
    does 0x0C (.scSltu h n) (if x.toNat < y.toNat then 1 else 0) ∧
    does 0x0D (.scMin h n) (if x.toInt ≤ y.toInt then x else y) ∧
    does 0x0E (.scMax h n) (if x.toInt ≤ y.toInt then y else x) ∧
    does 0x0F (.scMinu h n) (BitVec.ofNat 32 (min x.toNat y.toNat)) ∧
    does 0x10 (.scMaxu h n) (BitVec.ofNat 32 (max x.toNat y.toNat)) ∧
    does 0x11 (.scClz h n) (BitVec.ofNat 32 (((List.range 32).takeWhile fun i => !x.getLsbD (31 - i)).length)) ∧
    does 0x12 (.scPopc h n) (BitVec.ofNat 32 (((List.range 32).filter fun i => x.getLsbD i).length))

/-- R75: the instructions on a register and an immediate. SHLI, SHRI and BEXT refuse a field that must be zero, LUI a
register other than s0, as ILLEGAL_OP. -/
def Rule.ScalarImmediateOperations : Prop :=
  ∀ (s : State) (h : BitVec 13) (n : Fin 123) (d a : BitVec 4) (i : BitVec 18),
    let x := s.m.scReg h n a
    let does := fun (op : BitVec 6) (c : Instr) (v : Word) =>
      ScDoes s h n (fmtI op d a i) c (s.m.scResult h n d v)
    let amount := (i.extractLsb' 0 5).toNat
    let pos := (i.extractLsb' 5 5).toNat
    does 0x13 (.scAddi h n) (x + i.signExtend 32) ∧
    does 0x14 (.scAndi h n) (x &&& i.setWidth 32) ∧
    does 0x15 (.scOri h n) (x ||| i.setWidth 32) ∧
    does 0x16 (.scXori h n) (x ^^^ i.setWidth 32) ∧
    (if i.extractLsb' 5 13 = 0 then
      does 0x17 (.scShli h n) (x <<< amount) ∧ does 0x18 (.scShri h n) (x >>> amount)
    else ScFaults s h n (fmtI 0x17 d a i) (.scShli h n) 1 ∧ ScFaults s h n (fmtI 0x18 d a i) (.scShri h n) 1) ∧
    (if a = 0 then does 0x19 (.scLui h n) (i.setWidth 32 <<< 14)
    else ScFaults s h n (fmtI 0x19 d a i) (.scLui h n) 1) ∧
    (if i.extractLsb' 10 8 = 0 then
      does 0x1A (.scBext h n) ((x >>> pos) &&& BitVec.ofNat 32 (2 ^ (amount + 1) - 1))
    else ScFaults s h n (fmtI 0x1A d a i) (.scBext h n) 1)

/-- R81: HASH, with the range of its result, and the immediates it refuses. -/
def Rule.HashBucket : Prop :=
  ∀ (s : State) (h : BitVec 13) (n : Fin 123) (d a : BitVec 4) (i : BitVec 18),
    let k := i.toNat
    let v := ((s.m.scReg h n a).toNat * 0x2C1B3C6D % 2 ^ 32) >>> (32 - k)
    if 1 ≤ k ∧ k ≤ 32 then
      v < 2 ^ k ∧
      ScDoes s h n (fmtI 0x1B d a i) (.scHash h n) (s.m.scResult h n d (BitVec.ofNat 32 v))
    else ScFaults s h n (fmtI 0x1B d a i) (.scHash h n) 1

/-- One compare-exchange on two register numbers: the smaller value goes to the first. -/
def sorted2 (f : Nat → Word) (i j : Nat) : Nat → Word := fun r =>
  if r = i then BitVec.ofNat 32 (min (f i).toNat (f j).toNat)
  else if r = j then BitVec.ofNat 32 (max (f i).toNat (f j).toNat) else f r

/-- A stage of R82 on register values. -/
def sortedStage (f : Nat → Word) (r : Nat) : Nat → Nat → Word
  | 0 => sorted2 (sorted2 f r (r + 1)) (r + 2) (r + 3)
  | 1 => sorted2 (sorted2 f r (r + 2)) (r + 1) (r + 3)
  | _ => sorted2 f (r + 1) (r + 2)

/-- R82: SORT does one stage on the four registers from s4, s8 or s12 and leaves every other register and all memory; stage
3, a set bit of IMM[17:2] and another register are ILLEGAL_OP; stages 0, 1 and 2 in turn leave ascending values. -/
def Rule.SortStages : Prop :=
  (∀ (s : State) (h : BitVec 13) (n : Fin 123) (d a : BitVec 4) (i : BitVec 18),
    if (d = 4 ∨ d = 8 ∨ d = 12) ∧ i.toNat < 3 then
      s.m.scStands h n (fmtI 0x1C d a i) = true →
        ∃ st : ScSt, Completes s (.scSort h n) (s.m.scThen h n st) ∧
          (∀ r < 16, st.get r = sortedStage (s.m.sc (scAt h n)).get d.toNat i.toNat r) ∧
          st.dmem = (s.m.sc (scAt h n)).dmem ∧ st.prog = (s.m.sc (scAt h n)).prog
    else ScFaults s h n (fmtI 0x1C d a i) (.scSort h n) 1) ∧
  (∀ (f : Nat → Word) (r : Nat),
    let g := sortedStage (sortedStage (sortedStage f r 0) r 1) r 2
    (g r).toNat ≤ (g (r + 1)).toNat ∧ (g (r + 1)).toNat ≤ (g (r + 2)).toNat ∧ (g (r + 2)).toNat ≤ (g (r + 3)).toNat)

/-- R75: loads and stores of data memory at ra + IMM. A word access must be aligned and both lie inside the 512 B, else
MEM_ADDR. A store changes the bytes it names and no register. -/
def Rule.ScalarLoadsAndStores : Prop :=
  ∀ (s : State) (h : BitVec 13) (n : Fin 123) (d a : BitVec 4) (i : BitVec 18),
    let ea := (s.m.scReg h n a + i.signExtend 32).toNat
    let st := s.m.sc (scAt h n)
    let v := s.m.scReg h n d
    (if ea % 4 = 0 ∧ ea + 4 ≤ 512 then
      ScDoes s h n (fmtI 0x1D d a i) (.scLd h n)
        (s.m.scResult h n d (mGet st.dmem (ea + 3) ++ mGet st.dmem (ea + 2) ++ mGet st.dmem (ea + 1) ++ mGet st.dmem ea)) ∧
      (s.m.scStands h n (fmtI 0x1F d a i) = true →
        ∃ u : ScSt, Completes s (.scSt h n) (s.m.scThen h n u) ∧ u.regs = st.regs ∧ u.prog = st.prog ∧
          ∀ x, mGet u.dmem x =
            if ea ≤ x ∧ x < ea + 4 then v.extractLsb' (8 * (x - ea)) 8 else mGet st.dmem x)
    else ScFaults s h n (fmtI 0x1D d a i) (.scLd h n) 3 ∧ ScFaults s h n (fmtI 0x1F d a i) (.scSt h n) 3) ∧
    (if ea < 512 then
      ScDoes s h n (fmtI 0x1E d a i) (.scLdb h n) (s.m.scResult h n d ((mGet st.dmem ea).setWidth 32)) ∧
      (s.m.scStands h n (fmtI 0x20 d a i) = true →
        ∃ u : ScSt, Completes s (.scStb h n) (s.m.scThen h n u) ∧ u.regs = st.regs ∧ u.prog = st.prog ∧
          ∀ x, mGet u.dmem x = if x = ea then v.extractLsb' 0 8 else mGet st.dmem x)
    else ScFaults s h n (fmtI 0x1E d a i) (.scLdb h n) 3 ∧ ScFaults s h n (fmtI 0x20 d a i) (.scStb h n) 3)

/-- R66, R75: branches and jumps. The target is checked at issue, whatever the condition gives; a target outside the
current block or outside program memory is PC_RANGE. -/
def Rule.ScalarBranches : Prop :=
  ∀ (s : State) (h : BitVec 13) (n : Fin 123) (a b : BitVec 4) (o : BitVec 18),
    let x := s.m.scReg h n a
    let y := s.m.scReg h n b
    let pc := s.m.scPc h n
    let ph := (s.m.ctl (scAt h n)).phase
    let ok := fun (t : Int) => inBlock (scBlocks (s.m.sc (scAt h n)).prog) 128 ph t
    let br := fun (op : BitVec 6) (c : Instr) (taken : Bool) =>
      if ok (pc + o.toInt) = true then
        ScDoes s h n (fmtB op a b o) c
          (s.m.setPc (scAt h n) (if taken then (pc + o.toInt).toNat else pc + 1))
      else ScFaults s h n (fmtB op a b o) c 2
    br 0x21 (.scBeq h n) (decide (x = y)) ∧
    br 0x22 (.scBne h n) (decide (x ≠ y)) ∧
    br 0x23 (.scBlt h n) (decide (x.toInt < y.toInt)) ∧
    br 0x24 (.scBge h n) (decide (y.toInt ≤ x.toInt)) ∧
    br 0x25 (.scBltu h n) (decide (x.toNat < y.toNat)) ∧
    br 0x26 (.scBgeu h n) (decide (y.toNat ≤ x.toNat)) ∧
    (if ok (pc + o.toInt) = true then
      ScDoes s h n (fmtI 0x27 a 0 o) (.scJal h n)
        ((s.m.setSc (scAt h n) ((s.m.sc (scAt h n)).put a.toNat (BitVec.ofNat 32 (pc + 1)))).setPc (scAt h n)
          (pc + o.toInt).toNat)
    else ScFaults s h n (fmtI 0x27 a 0 o) (.scJal h n) 2) ∧
    (if ok y.toNat = true then
      ScDoes s h n (fmtA 0x28 a b 0) (.scJr h n) (s.m.setPc (scAt h n) y.toNat)
    else ScFaults s h n (fmtA 0x28 a b 0) (.scJr h n) 2)

/-- R77: TAKE of the first token that the core may take: its header goes to rd, its words to data memory from ra upward, it
leaves the queue, its credit starts back, one declared take is used; with no such token the core waits at TAKE and nothing changes. Set
LEN, TAG, MASK, EOT or reserved bits, a place outside data memory and a take beyond the declared count raise ILLEGAL_OP, MEM_ADDR and
TAKE_OVER, the lowest code first. -/
def Rule.ScalarTake : Prop :=
  ∀ (s : State) (h : BitVec 13) (n : Fin 123) (d a : BitVec 4) (q : BitVec 1) (len : BitVec 5) (tag : BitVec 6)
    (mask eot : BitVec 1) (z : BitVec 4),
    let w := fmtQ 0x2B d a q len tag mask eot z
    let c := scAt h n
    let x := s.m.inq (qid c q.toNat)
    let st := s.m.sc c
    let ct := s.m.ctl c
    let at' := (s.m.scReg h n a).toNat
    let g := (s.m.hearth (qHearth (qid c q.toNat))).gen
    if ¬(len = 0 ∧ tag = 0 ∧ mask = 0 ∧ eot = 0 ∧ z = 0) then ScFaults s h n w (.scTake h n) 1
    else if ¬(at' % 4 = 0 ∧ at' + 64 ≤ 512) then ScFaults s h n w (.scTake h n) 3
    else if nth 0 ct.takes q.toNat = 0 then ScFaults s h n w (.scTake h n) 4
    else (∀ (pre rest : List QTok) (t : QTok), x.router = pre ++ t :: rest → t.takeable g = true →
        (∀ p ∈ pre, p.takeable g = false) →
        ScDoes s h n w (.scTake h n)
          (((s.m.setInq (qid c q.toNat) { x with router := pre ++ rest, back := x.back + 1 }).setSc c
            { st.put d.toNat t.tok.hdr with dmem := mWrite st.dmem at' (wsBytes t.tok.words) }).setCtl c
              { ct with takes := setAt ct.takes q.toNat (nth 0 ct.takes q.toNat - 1), pc := ct.pc + 1 })) ∧
      ((∀ p ∈ x.router, p.takeable g = false) → ScDoes s h n w (.scTake h n) s.m)

/-- R67, R78, R170, R172: PUT sends LEN words of data memory as a token whose header carries TAG, MASK and EOT of the instruction, the
hearth's generation and the queue's sequence counter, which then rises; one place of the reserved room is used. On a queue bound to one
input queue or to a remote window the token joins the mesh towards it; on a tree it does so where the source's router does not divide the
tree, and else enters that router's replication buffer; on an unbound queue it goes nowhere. Set RD or reserved bits or a LEN above 16, a
source outside data memory and a send beyond the declared count raise ILLEGAL_OP, MEM_ADDR and PUT_OVER. -/
def Rule.ScalarPut : Prop :=
  ∀ (s : State) (h : BitVec 13) (n : Fin 123) (d a : BitVec 4) (q : BitVec 1) (len : BitVec 5) (tag : BitVec 6)
    (mask eot : BitVec 1) (z : BitVec 4),
    let w := fmtQ 0x2C d a q len tag mask eot z
    let c := scAt h n
    let oq := qid c q.toNat
    let o := s.m.outq oq
    let at' := (s.m.scReg h n a).toNat
    if ¬(d = 0 ∧ len.toNat ≤ 16 ∧ z = 0) then ScFaults s h n w (.scPut h n) 1
    else if ¬(at' % 4 = 0 ∧ at' + 4 * len.toNat ≤ 512) then ScFaults s h n w (.scPut h n) 3
    else if o.room = 0 then ScFaults s h n w (.scPut h n) 5
    else s.m.scStands h n w = true →
      ∃ (t : Token) (m' : Mod), t.words = mWords (s.m.sc c).dmem at' len.toNat ∧ t.tag = tag ∧ (t.mask = true ↔ mask = 1) ∧
        (t.eot = true ↔ eot = 1) ∧ t.gen = (s.m.hearth (qHearth oq)).gen ∧ t.seq = o.seq ∧ Completes s (.scPut h n) m' ∧
        m'.outq oq = { o with seq := o.seq + 1, room := o.room - 1, marker := o.marker || t.isMarker } ∧
        m'.grid.scs = s.m.grid.scs ∧ m'.ctl c = { s.m.ctl c with pc := s.m.scPc h n + 1 } ∧ SentOn s.m m' oq t

/-- R79: PEEK reads the header of the first token that the core may take, zero where there is none; QCNT counts those of
router part and spill part together. Neither removes a token nor counts against the block. -/
def Rule.PeekAndCount : Prop :=
  ∀ (s : State) (h : BitVec 13) (n : Fin 123) (d a : BitVec 4) (q : BitVec 1) (len : BitVec 5) (tag : BitVec 6)
    (mask eot : BitVec 1) (z : BitVec 4),
    let x := s.m.inq (qid (scAt h n) q.toNat)
    let may := (x.router ++ x.spill).filter fun t =>
      t.vis && t.tok.gen == (s.m.hearth h.toNat).gen && !t.tok.isMarker
    if a = 0 ∧ len = 0 ∧ tag = 0 ∧ mask = 0 ∧ eot = 0 ∧ z = 0 then
      ScDoes s h n (fmtQ 0x2D d a q len tag mask eot z) (.scPeek h n)
        (s.m.scResult h n d ((may.head?.map fun t => t.tok.hdr).getD 0)) ∧
      ScDoes s h n (fmtQ 0x2E d a q len tag mask eot z) (.scQcnt h n)
        (s.m.scResult h n d (BitVec.ofNat 32 may.length))
    else
      ScFaults s h n (fmtQ 0x2D d a q len tag mask eot z) (.scPeek h n) 1 ∧
      ScFaults s h n (fmtQ 0x2E d a q len tag mask eot z) (.scQcnt h n) 1

/-- The request is queued at its engine and the core goes on; while the engine has no outstanding slot free the core stays
at the instruction and nothing changes (R36). -/
def ScRequests (s : State) (h : BitVec 13) (n : Fin 123) (w : Word) (c : Instr) (r : Req) : Prop :=
  ScDoes s h n w c
    (if (s.m.hearth h.toNat).slotFree r.eng then (s.m.issueReq h.toNat r).setPc (scAt h n) (s.m.scPc h n + 1) else s.m)

/-- R71, R75, R76: CAS, AADD, GATH, SCAT and SCATA issue one request each to their engine, with the element's address, the
operand and the queue named; CAS makes the core wait for the old value. The refused operands raise the lowest code. FENCE waits
until no scatter, atomic or CAS of the core is outstanding. -/
def Rule.ScalarRequests : Prop :=
  ∀ (s : State) (h : BitVec 13) (n : Fin 123) (d a b w : BitVec 4) (q : BitVec 2) (core : BitVec 7),
    let hh := s.m.hearth h.toNat
    let k := coreSc n.val
    let va := (s.m.scReg h n a).toNat
    let vb := s.m.scReg h n b
    let vd := (s.m.scReg h n d).toNat
    let win := hh.win w.toNat
    let th := if win.eng = 1 then vb.toNat else h.toNat
    let dm := (s.m.sc (scAt h n)).dmem
    let dest := if win.eng = 0 then k else core.toNat
    let own := decide (va % 4 = 0) && hh.inRegion va 4
    let src := decide (vd % win.size = 0 ∧ vd + win.size ≤ 512)
    let word := fun op => fmtM op d a b w q core
    let posted := fun (op : BitVec 6) (c : Instr) (perm : Bool) (o : ReqOp) =>
      if src = false then ScFaults s h n (word op) c 3
      else match winCause hh win perm va vb with
        | some code => ScFaults s h n (word op) c code
        | none => ScRequests s h n (word op) c
            { eng := win.eng, core := k, idx := va, addr := win.base + va * win.size, size := win.size, th := th, op := o }
    (if own = true then
      ScRequests s h n (fmtA 0x2A d a b) (.scAadd h n)
        { eng := 0, core := k, idx := 0, addr := va, size := 4, th := h.toNat, op := .atomic false (wBytes vb) } ∧
      (hh.slotFree 0 = false → ScDoes s h n (fmtA 0x29 d a b) (.scCas h n) s.m) ∧
      (hh.slotFree 0 = true → s.m.scStands h n (fmtA 0x29 d a b) = true →
        ∃ m', Completes s (.scCas h n) m' ∧ (m'.ctl (scAt h n)).wait = .cas ∧
          m'.hearth h.toNat = { hh with reqs := hh.reqs ++
            [{ eng := 0, core := k, idx := 0, addr := va, size := 4, th := h.toNat,
               op := .cas d.toNat (s.m.scReg h n d) vb, pc := s.m.scPc h n, side := s.m.hbm.side }] })
    else ScFaults s h n (fmtA 0x2A d a b) (.scAadd h n) 9 ∧ ScFaults s h n (fmtA 0x29 d a b) (.scCas h n) 9) ∧
    (match winCause hh win (win.rd && decide (q.toNat < inQueues dest)) va vb with
      | some code => ScFaults s h n (word 0x2F) (.scGath h n) code
      | none => ScRequests s h n (word 0x2F) (.scGath h n)
          { eng := win.eng, core := k, idx := va, addr := win.base + va * win.size, size := win.size, th := th,
            op := .gather (qid (cid h.toNat dest) q.toNat) (w.setWidth 6) }) ∧
    posted 0x30 (.scScat h n) win.wr (.scatter (mRead dm vd win.size)) ∧
    posted 0x31 (.scScata h n) (win.at' && !win.fp && decide (win.eng ≤ 1 ∧ 2 ≤ win.esize))
      (.atomic false (mRead dm vd win.size)) ∧
    ScDoes s h n (fmtA 0x32 d a b) (.scFence h n)
      (if hh.reqs.any (fun r => decide (r.core = k) && (match r.op with | .gather _ _ => false | _ => true)) then s.m
       else s.m.setPc (scAt h n) (s.m.scPc h n + 1))

/-- R83: SYNC adds one contribution to a channel of the hearth's sync node, in a tick as many as are issued: for FLAG the word
in ra, for SUM the n values from data memory. Reserved encodings are ILLEGAL_OP, a source outside data memory MEM_ADDR. -/
def Rule.SyncContribution : Prop :=
  ∀ (s : State) (h : BitVec 13) (n : Fin 123) (d a : BitVec 4) (top : BitVec 8) (cnt : BitVec 6) (ch op : BitVec 2),
    let w := fmtI 0x35 d a (top ++ cnt ++ ch ++ op)
    let hh := s.m.hearth h.toNat
    let va := (s.m.scReg h n a).toNat
    let adds := fun (k : SyncC) => ScDoes s h n w (.scSync h n)
      ((s.m.setHearth h.toNat { hh with sync := hh.sync ++ [k] }).setPc (scAt h n) (s.m.scPc h n + 1))
    if ¬(d = 0 ∧ top = 0 ∧ (op = 1 ∨ op = 2)) then ScFaults s h n w (.scSync h n) 1
    else if op = 1 then adds { ch := ch.toNat, core := coreSc n.val, flag := s.m.scReg h n a, sum := [] }
    else if va % 4 = 0 ∧ va + 4 * (cnt.toNat + 1) ≤ 512 then
      adds { ch := ch.toNat, core := coreSc n.val, flag := 0,
             sum := mWords (s.m.sc (scAt h n)).dmem va (cnt.toNat + 1) }
    else ScFaults s h n w (.scSync h n) 3

/-! ### Vector cores -/

/-- R84, R87, R88, R89: VADD, VSUB, VMUL, VFMA, VMIN and VMAX lane by lane under the mask: the exact result rounded once into
the lane format, with the flags of R164; a format that the instruction does not accept, and RM = 2, are ILLEGAL_OP. -/
def Rule.VectorArithmetic : Prop :=
  ∀ (s : State) (h : BitVec 13) (n : Fin 4) (d a b c : BitVec 4) (k rm : BitVec 2) (fmt : BitVec 4) (sub : BitVec 2),
    let st := s.m.vc (vcAt h n)
    let f := (Fmt.ofCode fmt.toNat).getD .fp32
    let lane := fun (r : BitVec 4) (i : Nat) => f.dec (laneAt f.width (st.getv r.toNat) i)
    let rd : Rnd := if rm = 1 ∨ (rm = 3 ∧ s.m.rndOf h.toNat = 1) then .rz else .rne
    let op := fun (code : BitVec 6) (cmd : Instr) (formats : List (BitVec 4)) (g : Nat → Machine.Num × Bool) =>
      if rm ≠ 2 ∧ fmt ∈ formats then
        VcLanes s h n (fmtV code d a b c k rm fmt sub) cmd d.toNat f.width (st.getk k.toNat)
          (fun i => (laneOut f rd (g i)).1) (fun i => (laneOut f rd (g i)).2)
      else VcFaults s h n (fmtV code d a b c k rm fmt sub) cmd 1
    op 0x01 (.vadd h n) [0, 1, 2, 8, 9] (fun i => (lane a i).add (lane b i)) ∧
    op 0x02 (.vsub h n) [0, 1, 2, 8, 9] (fun i => (lane a i).add (lane b i).neg) ∧
    op 0x03 (.vmul h n) [0, 1, 2, 9] (fun i => (lane a i).mul (lane b i)) ∧
    op 0x04 (.vfma h n) [0, 1, 2] (fun i => fma3 (lane a i) (lane b i) (lane c i)) ∧
    op 0x05 (.vmin h n) [0, 1, 2, 8, 9] (fun i => ((lane a i).lmin (lane b i), false)) ∧
    op 0x06 (.vmax h n) [0, 1, 2, 8, 9] (fun i => ((lane a i).lmax (lane b i), false))

/-- R89: an INT32 lane wraps modulo 2^32 and sets no flag; an INT8 lane saturates to -128 and 127, and SAT says so. -/
def Rule.IntegerLanesWrapOrSaturate : Prop :=
  ∀ (x y : BitVec 32) (p q : BitVec 8) (rd : Rnd),
    let i32 := fun (r : Machine.Num × Bool) => laneOut .int32 rd r
    let i8 := fun (r : Machine.Num × Bool) => laneOut .int8 rd r
    i32 ((Fmt.dec .int32 x.toNat).add (Fmt.dec .int32 y.toNat)) = ((x + y).toNat, {}) ∧
    i32 ((Fmt.dec .int32 x.toNat).add (Fmt.dec .int32 y.toNat).neg) = ((x - y).toNat, {}) ∧
    i32 ((Fmt.dec .int32 x.toNat).mul (Fmt.dec .int32 y.toNat)) = ((x * y).toNat, {}) ∧
    i8 ((Fmt.dec .int8 p.toNat).add (Fmt.dec .int8 q.toNat)) =
      ((BitVec.ofInt 8 (max (-128) (min 127 (p.toInt + q.toInt)))).toNat,
        { sat := decide (p.toInt + q.toInt < -128 ∨ 127 < p.toInt + q.toInt) }) ∧
    i8 ((Fmt.dec .int8 p.toNat).add (Fmt.dec .int8 q.toNat).neg) =
      ((BitVec.ofInt 8 (max (-128) (min 127 (p.toInt - q.toInt)))).toNat,
        { sat := decide (p.toInt - q.toInt < -128 ∨ 127 < p.toInt - q.toInt) })

/-- R88: VCMP writes the bits of the enabled lanes of mask kD by the condition, a NaN making all but not-equal false; VSEL
takes each lane from va or vb by the mask. VCMP refuses a destination other than k1 to k3. -/
def Rule.VectorCompareAndSelect : Prop :=
  ∀ (s : State) (h : BitVec 13) (n : Fin 4) (d a b c : BitVec 4) (k rm : BitVec 2) (fmt : BitVec 4) (sub : BitVec 2),
    let st := s.m.vc (vcAt h n)
    let f := (Fmt.ofCode fmt.toNat).getD .fp32
    let lane := fun (r : BitVec 4) (i : Nat) => f.dec (laneAt f.width (st.getv r.toNat) i)
    let holds := fun (i : Nat) =>
      if (lane a i).isNan || (lane b i).isNan then decide (sub = 3)
      else
        let z := (lane a i).cmp (lane b i)
        if sub = 0 then decide (z = 0) else if sub = 1 then decide (z < 0) else if sub = 2 then decide (z ≤ 0)
        else decide (z ≠ 0)
    let mask := st.getk k.toNat
    let ok := rm ≠ 2 ∧ fmt ∈ ([0, 1, 2, 8, 9] : List (BitVec 4))
    (if ok ∧ d ∈ ([1, 2, 3] : List (BitVec 4)) then
      s.m.vcStands h n (fmtV 0x07 d a b c k rm fmt sub) = true → ∃ u : VcSt,
        Completes s (.vcmp h n) (s.m.vcThen h n u) ∧ u = { st with k := u.k } ∧
        (∀ r, r ≠ d.toNat → u.getk r = st.getk r) ∧
        (∀ i < 32, (u.getk d.toNat).getLsbD i =
          if i < 256 / f.width ∧ mask.getLsbD i = true then holds i else (st.getk d.toNat).getLsbD i)
    else VcFaults s h n (fmtV 0x07 d a b c k rm fmt sub) (.vcmp h n) 1) ∧
    (if ok then
      s.m.vcStands h n (fmtV 0x08 d a b c k rm fmt sub) = true → ∃ u : VcSt,
        Completes s (.vsel h n) (s.m.vcThen h n u) ∧ u = { st with v := u.v } ∧
        (∀ r, r ≠ d.toNat → u.getv r = st.getv r) ∧
        (∀ i < 256 / f.width, laneAt f.width (u.getv d.toNat) i =
          if mask.getLsbD i then laneAt f.width (st.getv a.toNat) i else laneAt f.width (st.getv b.toNat) i)
    else VcFaults s h n (fmtV 0x08 d a b c k rm fmt sub) (.vsel h n) 1)

/-- R90, R91, R156, R157: VCVT: each enabled element of the group of 32 is decoded, with the source's scale where it carries one,
and rounded once, a masked one keeps its bits; a scaled destination's scale goes to register AS and is computed from every element; an
unscaled FP8 group is copied into its own format. A pair that R156 does not provide, a misaligned register and a format that needs a
scale with AS = a0 are ILLEGAL_OP. -/
def Rule.VectorConvert : Prop :=
  ∀ (s : State) (h : BitVec 13) (n : Fin 4) (d a : BitVec 4) (src dst : Fmt) (sc dc : BitVec 4) (k rm : BitVec 2) (as : BitVec 3),
    Fmt.ofCode sc.toNat = some src → Fmt.ofCode dc.toNat = some dst →
    let st := s.m.vc (vcAt h n)
    let word := fmtX 0x09 d a sc dc k rm as 0
    let e : Env := { m := s.m, h := h.toNat, core := coreVc n.val, c := vcAt h n, w := word.toNat }
    let regs := fun (f : Fmt) => if f.width ≤ 8 then 1 else f.width / 8
    let scaled := fun (f : Fmt) => f.alwaysScaled || (f.isFp8 && decide (as ≠ 0))
    let x := fun (j : Nat) => nth 0 (st.group src a.toNat) j
    let val := fun (j : Nat) => if scaled src then src.decScaled (some ((st.geta as.toNat).toNat % 256)) (x j) else src.dec (x j)
    let g := encGroup dst ((List.range 32).map fun j => (val j, e.cvtRnd j))
    if cvtOk src dst = false ∨ a.toNat % regs src ≠ 0 ∨ d.toNat % regs dst ≠ 0 ∨
        (as = 0 ∧ (src.alwaysScaled = true ∨ dst.alwaysScaled = true)) then VcFaults s h n word (.vcvt h n) 1
    else s.m.vcStands h n word = true →
      ∃ u : VcSt, Completes s (.vcvt h n) (s.m.vcThen h n u) ∧ u = { st with v := u.v, a := u.a, st := u.st } ∧
        (∀ r, (r < d.toNat ∨ d.toNat + regs dst ≤ r) → u.getv r = st.getv r) ∧
        (∀ r, u.geta r = if scaled dst = true ∧ r = as.toNat then BitVec.ofNat 32 g.1 else st.geta r) ∧
        u.group dst d.toNat = (List.range 32).map (fun j =>
          if (st.getk k.toNat).getLsbD j then
            (if src = dst ∧ src.isFp8 = true ∧ as = 0 then x j else if scaled dst then (nth (0, {}) g.2 j).1
              else (dst.enc (e.cvtRnd j) (val j)).1) % 2 ^ dst.width
          else nth 0 (st.group dst d.toNat) j)

/-- Three levels of the pairwise tree over eight values from place o. -/
def tree8 {α : Type} (f : α → α → α) (l : Nat → α) (o : Nat) : α :=
  f (f (f (l o) (l (o + 1))) (f (l (o + 2)) (l (o + 3)))) (f (f (l (o + 4)) (l (o + 5))) (f (l (o + 6)) (l (o + 7))))

/-- R88: VRED of INT32 lanes and of floating-point lanes: the pairwise tree over lane positions, masked lanes giving the identity,
16-bit lanes combined in FP32, the result in lane 0 and zero in the other lanes. INT32 products, INT8 and the narrow formats are
refused. For a NaN or zeros of both signs max and min follow VMAX and VMIN, which is the model's choice (log entry 96). -/
def Rule.VectorReduce : Prop :=
  ∀ (s : State) (h : BitVec 13) (n : Fin 4) (d a b c : BitVec 4) (k rm : BitVec 2) (fmt : BitVec 4) (sub : BitVec 2),
    let st := s.m.vc (vcAt h n)
    let word := fmtV 0x0A d a b c k rm fmt sub
    let mask := st.getk k.toNat
    let rd : Rnd := if rm = 1 ∨ (rm = 3 ∧ s.m.rndOf h.toNat = 1) then .rz else .rne
    let x := fun (i : Nat) => BitVec.ofNat 32 (laneAt 32 (st.getv a.toNat) i)
    let intId : Word := if sub = 0 then 0 else if sub = 1 then 0x80000000#32 else 0x7FFFFFFF#32
    let int2 := fun (p q : Word) =>
      if sub = 0 then p + q else if sub = 1 then (if p.toInt < q.toInt then q else p) else if p.toInt < q.toInt then p else q
    let fpId : Machine.Num := if sub = 0 then .zero else if sub = 1 then .inf true else if sub = 2 then .inf false else .fin false 1 0
    let fp2 := fun (p q : Machine.Num) =>
      Fmt.dec .fp32 (Fmt.enc .fp32 rd
        (if sub = 0 then (p.add q).1 else if sub = 1 then p.lmax q else if sub = 2 then p.lmin q else (p.mul q).1)).1
    if rm = 2 ∨ fmt ∉ ([0, 1, 2, 9] : List (BitVec 4)) ∨ (fmt = 9 ∧ sub = 3) then VcFaults s h n word (.vred h n) 1
    else s.m.vcStands h n word = true → ∃ u : VcSt, Completes s (.vred h n) (s.m.vcThen h n u) ∧
      u = { st with v := u.v, st := u.st } ∧ (∀ r, r ≠ d.toNat → u.getv r = st.getv r) ∧
      (fmt = 9 → u.getv d.toNat = (tree8 int2 (fun i => if mask.getLsbD i then x i else intId) 0).setWidth 256) ∧
      (fmt = 0 → u.getv d.toNat =
        (rn32 (tree8 fp2 (fun i => if mask.getLsbD i then f32 (x i) else fpId) 0)).setWidth 256) ∧
      (fmt = 1 ∨ fmt = 2 →
        let y := fun (i : Nat) => if mask.getLsbD i then
          Fmt.dec (if fmt = 1 then .bf16 else .fp16) (laneAt 16 (st.getv a.toNat) i) else fpId
        u.getv d.toNat = (rn32 (fp2 (tree8 fp2 y 0) (tree8 fp2 y 8))).setWidth 256)

/-- The rest of a segmented reduction of rows of format f (R94 to R97): with as many takeable data tokens at the head of the queue as
rows are left, and room on the output, the rows are combined into the values `acc`, one rounding each, the tokens leave, one
unmasked token for each sixteen values carries the result, and the core goes on. -/
def SegmentEnds (s : State) (h : BitVec 13) (n : Fin 4) (cmd : Instr) (f : Fmt) (qd qo : BitVec 2) (sub rm : BitVec 2) (tag : BitVec 6)
    (acc : List Word) (rows : Nat) : Prop :=
  ∀ (toks rest : List QTok) (target : Nat) (ex : Bool),
    let c := vcAt h n
    let x := s.m.inq (qid c qd.toNat)
    let o := s.m.outq (qid c qo.toNat)
    let rd : Rnd := if rm = 1 ∨ (rm = 3 ∧ s.m.rndOf h.toNat = 1) then .rz else .rne
    let gen := (s.m.hearth h.toNat).gen
    let width := if f = .fp32 then 16 else 32
    let comb := fun (p : Word) (q : Machine.Num) => rn32 (Fmt.dec .fp32 (Fmt.enc .fp32 rd
      (if sub = 0 then ((f32 p).add q).1 else if sub = 1 then (f32 p).lmax q
       else if sub = 2 then (f32 p).lmin q else ((f32 p).mul q).1)).1)
    let elems := fun (t : Token) => if f = .fp32 then t.words.map f32
      else t.words.flatMap fun w => [f.dec (w.extractLsb' 0 16).toNat, f.dec (w.extractLsb' 16 16).toNat]
    let row := fun (acc : List Word) (t : QTok) =>
      if t.tok.mask then acc
      else (List.range width).map fun i => match (elems t.tok)[i]? with
        | some w => comb (nth 0 acc i) w
        | none => nth 0 acc i
    let part := fun (i : Nat) => ((toks.foldl row acc).drop (16 * i)).take 16
    let result := fun (i : Nat) => Token.mk (o.seq + BitVec.ofNat 20 i) false false tag gen (part i)
    x.router = toks ++ rest → toks.length = rows → (∀ t ∈ toks, t.takeable gen = true) →
    o.bind = .unicast target ex → o.marker = false → width / 16 ≤ (s.m.inq target).credit →
    (s.m.hearth (qHearth target)).gen = gen →
    ∃ m' : Mod, Completes s cmd m' ∧
      m'.grid.flights = s.m.grid.flights ++ (List.range (width / 16)).map (fun i =>
        { target := target, tok := { tok := result i, prod := qid c qo.toNat }, express := ex }) ∧
      (m'.inq (qid c qd.toNat)).router = rest ∧ (m'.inq (qid c qd.toNat)).back = x.back + toks.length ∧
      m'.ctl c = { s.m.ctl c with wait := .none, pc := s.m.vcPc h n + 1 }

/-- R94, R95, R96: VSEGR on rows whose n data tokens wait in the queue: each unmasked token is combined element by element in arrival
order from the identity, 16-bit elements widened to FP32, a missing element or a masked row changing nothing; a segment of no rows
gives the identity row. A rounding of 2, a register not a multiple of 4 and a narrow format are ILLEGAL_OP. For a NaN or zeros of both
signs max and min follow VMAX and VMIN, which is the model's choice (log entry 96). -/
def Rule.VectorSegmentReduce : Prop :=
  ∀ (s : State) (h : BitVec 13) (n : Fin 4) (d : BitVec 4) (aa : BitVec 3) (qd qo : BitVec 2) (sub rm : BitVec 2)
    (tag : BitVec 6) (fmt : BitVec 4),
    let c := vcAt h n
    let id : Word := if sub = 0 then 0 else if sub = 1 then 0xFF800000#32 else if sub = 2 then 0x7F800000#32 else 0x3F800000#32
    let word := fmtS 0x0B d aa qd qo fmt sub rm tag 0
    let f : Fmt := if fmt = 0 then .fp32 else if fmt = 1 then .bf16 else .fp16
    (d.toNat % 4 ≠ 0 ∨ rm = 2 ∨ 3 ≤ fmt.toNat → VcFaults s h n word (.vsegr h n) 1) ∧
    (d.toNat % 4 = 0 → rm ≠ 2 → fmt.toNat < 3 → nth 0 (s.m.ctl c).inCnt qd.toNat = 0 → nth 0 (s.m.ctl c).outCnt qo.toNat = 0 →
      s.m.vcStands h n word = true →
      SegmentEnds s h n (.vsegr h n) f qd qo sub rm tag (List.replicate (if fmt = 0 then 16 else 32) id)
        ((s.m.vc c).geta aa.toNat).toNat)

/-- R98: the approximations take FP32 only and write the enabled lanes. -/
def Rule.VectorApproximations : Prop :=
  ∀ (s : State) (h : BitVec 13) (n : Fin 4) (d a b c : BitVec 4) (k rm : BitVec 2) (fmt : BitVec 4) (sub : BitVec 2),
    let st := s.m.vc (vcAt h n)
    let op := fun (code : BitVec 6) (cmd : Instr) (g : Nat → Nat × Flg) =>
      if rm ≠ 2 ∧ fmt = 0 then
        VcLanes s h n (fmtV code d a b c k rm fmt sub) cmd d.toNat 32 (st.getk k.toNat)
          (fun i => (g (laneAt 32 (st.getv a.toNat) i)).1) (fun i => (g (laneAt 32 (st.getv a.toNat) i)).2)
      else VcFaults s h n (fmtV code d a b c k rm fmt sub) cmd 1
    op 0x0C (.vexp h n) apExp ∧ op 0x0D (.vlog h n) apLog ∧ op 0x0E (.vrcp h n) apRcp ∧ op 0x0F (.vrsq h n) apRsq ∧
      op 0x10 (.vtanh h n) apTanh

/-- R98: the approximations answer the special cases of the table exactly, return a small argument of VTANH as it is, and never give a
subnormal. -/
def Rule.ApproximationSpecialCases : Prop :=
  (∀ x < 2 ^ 31,
    (x < 2 ^ 23 → (apExp x).1 = 0x3F800000 ∧ (apLog x).1 = 0xFF800000 ∧ (apRcp x).1 = 0x7F800000 ∧
      (apRsq x).1 = 0x7F800000 ∧ (apExp (2 ^ 31 + x)).1 = 0x3F800000 ∧ (apLog (2 ^ 31 + x)).1 = 0xFF800000 ∧
      (apRcp (2 ^ 31 + x)).1 = 0xFF800000 ∧ (apRsq (2 ^ 31 + x)).1 = 0xFF800000) ∧
    (2 ^ 23 ≤ x → x ≤ 0x7F800000 → (apLog (2 ^ 31 + x)).1 = 0x7FC00000 ∧ (apRsq (2 ^ 31 + x)).1 = 0x7FC00000) ∧
    (0x7F800000 < x → ∀ y ∈ [x, 2 ^ 31 + x], (apExp y).1 = 0x7FC00000 ∧ (apLog y).1 = 0x7FC00000 ∧
      (apRcp y).1 = 0x7FC00000 ∧ (apRsq y).1 = 0x7FC00000 ∧ (apTanh y).1 = 0x7FC00000) ∧
    (2 ^ 23 ≤ x → x < 0x39800000 → (apTanh x).1 = x ∧ (apTanh (2 ^ 31 + x)).1 = 2 ^ 31 + x) ∧
    (0x41100000 ≤ x → x ≤ 0x7F800000 → (apTanh x).1 = 0x3F800000 ∧ (apTanh (2 ^ 31 + x)).1 = 0xBF800000)) ∧
  (apExp 0x7F800000).1 = 0x7F800000 ∧ (apExp 0xFF800000).1 = 0 ∧ (apLog 0x3F800000).1 = 0 ∧
  (apLog 0x7F800000).1 = 0x7F800000 ∧ (apRcp 0x7F800000).1 = 0 ∧ (apRcp 0xFF800000).1 = 0x80000000 ∧
  (apRsq 0x7F800000).1 = 0 ∧
  (∀ x < 2 ^ 32, ∀ g ∈ [apExp, apLog, apRcp, apRsq, apTanh], (g x).1 % 2 ^ 31 = 0 ∨ 2 ^ 23 ≤ (g x).1 % 2 ^ 31)

/-- A request of the vector core to its own hearth store that overlaps n bytes at address a (R43). -/
def ownPending (h : BitVec 13) (n : Fin 4) (a len : Nat) (r : Req) : Bool :=
  decide (r.core = coreVc n.val ∧ r.eng ≤ 1 ∧ r.th = h.toNat ∧ r.addr < a + len ∧ a < r.addr + r.size)

/-- R88: VLD, VST and ALD on local memory, HLD and HST on the hearth store, at a + IMM: aligned, inside the memory or a
declared region, else MEM_ADDR or HS_ADDR. A store changes the 32 bytes it names and no other; a hearth store access moves only
class-3 pointers of banks and counts 32 bytes in B_HS. HLD and HST stay at the instruction while a request of the core to the same
bytes is under way (R43). -/
def Rule.VectorMemory : Prop :=
  ∀ (s : State) (h : BitVec 13) (n : Fin 4) (d : BitVec 4) (aa : BitVec 3) (i : BitVec 19),
    let c := vcAt h n
    let st := s.m.vc c
    let hh := s.m.hearth h.toNat
    let ea := (st.geta aa.toNat + i.signExtend 32).toNat
    let v := st.getv d.toNat
    let stored := fun (old new : List Host.Cell) => ∀ x, mGet new x =
      if ea ≤ x ∧ x < ea + 32 then v.extractLsb' (8 * (x - ea)) 8 else mGet old x
    let loaded := fun (mem : List Host.Cell) (u : VcSt) =>
      u = { st with v := u.v } ∧ (∀ r, r ≠ d.toNat → u.getv r = st.getv r) ∧
        ∀ j < 32, (u.getv d.toNat).extractLsb' (8 * j) 8 = mGet mem (ea + j)
    let touched := fun (x : Hearth) => x.rep = tSet 0 hh.rep 11 (satAdd (2 ^ 48 - 1) (tGet 0 hh.rep 11) 32) ∧
      x = { hh with hs := x.hs, c3 := x.c3, rep := x.rep }
    (if ea % 32 = 0 ∧ ea + 32 ≤ 8192 then
      (s.m.vcStands h n (fmtL 0x11 d aa i) = true →
        ∃ u, Completes s (.vld h n) (s.m.vcThen h n u) ∧ loaded st.mem u) ∧
      (s.m.vcStands h n (fmtL 0x12 d aa i) = true →
        ∃ u, Completes s (.vst h n) (s.m.vcThen h n u) ∧ u = { st with mem := u.mem } ∧ stored st.mem u.mem)
    else VcFaults s h n (fmtL 0x11 d aa i) (.vld h n) 3 ∧ VcFaults s h n (fmtL 0x12 d aa i) (.vst h n) 3) ∧
    (if ea % 32 = 0 ∧ hh.inRegion ea 32 = true then
      if hh.reqs.any (ownPending h n ea 32) then
        VcDoes s h n (fmtL 0x13 d aa i) (.hld h n) s.m ∧ VcDoes s h n (fmtL 0x14 d aa i) (.hst h n) s.m
      else
      (s.m.vcStands h n (fmtL 0x13 d aa i) = true →
        ∃ u x, Completes s (.hld h n) ((s.m.setHearth h.toNat x).vcThen h n u) ∧ loaded hh.hs u ∧ touched x ∧
          x.hs = hh.hs) ∧
      (s.m.vcStands h n (fmtL 0x14 d aa i) = true →
        ∃ x, Completes s (.hst h n) ((s.m.setHearth h.toNat x).setPc c (s.m.vcPc h n + 1)) ∧ touched x ∧
          stored hh.hs x.hs)
    else VcFaults s h n (fmtL 0x13 d aa i) (.hld h n) 9 ∧ VcFaults s h n (fmtL 0x14 d aa i) (.hst h n) 9) ∧
    (if d.toNat ≥ 8 then VcFaults s h n (fmtL 0x15 d aa i) (.ald h n) 1
    else if ea % 4 = 0 ∧ ea + 4 ≤ 8192 then
      VcDoes s h n (fmtL 0x15 d aa i) (.ald h n) (s.m.vcThen h n (st.puta d.toNat
        (mGet st.mem (ea + 3) ++ mGet st.mem (ea + 2) ++ mGet st.mem (ea + 1) ++ mGet st.mem ea)))
    else VcFaults s h n (fmtL 0x15 d aa i) (.ald h n) 3)

/-- R84, R88: NOP, AADDI, AMOV and VBCST: the a-register or the vector register that each writes, a0 discarding its write;
AMOV refuses every set bit of the fields it does not use. -/
def Rule.VectorMoves : Prop :=
  ∀ (s : State) (h : BitVec 13) (n : Fin 4) (d a b c : BitVec 4) (k rm : BitVec 2) (fmt : BitVec 4) (sub : BitVec 2)
    (aa : BitVec 3) (i : BitVec 19),
    let st := s.m.vc (vcAt h n)
    let x := st.geta aa.toNat
    let put := fun (v : Word) => s.m.vcThen h n (if d = 0 then st else { st with a := tSet 0 st.a d.toNat v })
    let nop := fmtV 0x00 d a b c k rm fmt sub
    let mov := fmtV 0x17 d a b c k rm fmt sub
    (if rm = 2 ∨ fmt.toNat ≥ 12 then VcFaults s h n nop (.vcNop h n) 1
     else VcDoes s h n nop (.vcNop h n) (s.m.setPc (vcAt h n) (s.m.vcPc h n + 1))) ∧
    (if d.toNat < 8 then VcDoes s h n (fmtL 0x16 d aa i) (.aaddi h n) (put (x + i.signExtend 32))
     else VcFaults s h n (fmtL 0x16 d aa i) (.aaddi h n) 1) ∧
    (if d.toNat < 8 ∧ b.toNat < 8 ∧ c = 0 ∧ k = 0 ∧ rm = 0 ∧ fmt = 0 ∧ sub = 0 then
      VcDoes s h n mov (.amov h n) (put ((st.getv a.toNat).extractLsb' (32 * b.toNat) 32))
     else VcFaults s h n mov (.amov h n) 1) ∧
    VcDoes s h n (fmtL 0x18 d aa i) (.vbcst h n)
      (s.m.vcThen h n (st.putv d.toNat (x ++ x ++ x ++ x ++ x ++ x ++ x ++ x)))

/-- R92, R93: VTAKE moves the first token the core may take into vd and vd + 1, its header into a7, and k3 tells whether it is
masked; with no such token the core waits at VTAKE and nothing changes. VPUT sends LEN words of vd and vd + 1 where the queue's binding
takes the token. An odd register, a set field that must be zero, a take and a send beyond the declared count are refused. -/
def Rule.VectorTokens : Prop :=
  ∀ (s : State) (h : BitVec 13) (n : Fin 4) (d : BitVec 4) (q : BitVec 2) (tag : BitVec 6) (mask eot : BitVec 1)
    (len : BitVec 5) (z : BitVec 7),
    let c := vcAt h n
    let st := s.m.vc c
    let ct := s.m.ctl c
    let x := s.m.inq (qid c q.toNat)
    let o := s.m.outq (qid c q.toNat)
    let take := fmtVQ 0x19 d q tag mask eot len z
    let put := fmtVQ 0x1A d q tag mask eot len z
    let gen := (s.m.hearth (qHearth (qid c q.toNat))).gen
    (if ¬(d.toNat % 2 = 0 ∧ tag = 0 ∧ mask = 0 ∧ eot = 0 ∧ len = 0 ∧ z = 0) then VcFaults s h n take (.vtake h n) 1
     else if nth 0 ct.takes q.toNat = 0 then VcFaults s h n take (.vtake h n) 4
     else ((∀ p ∈ x.router, p.takeable gen = false) → VcDoes s h n take (.vtake h n) s.m) ∧
      ∀ (t : QTok) (pre rest : List QTok), x.router = pre ++ t :: rest → t.takeable gen = true →
      (∀ p ∈ pre, p.takeable gen = false) → s.m.vcStands h n take = true →
      ∃ u : VcSt, Completes s (.vtake h n)
          (((s.m.setInq (qid c q.toNat) { x with router := pre ++ rest, back := x.back + 1 }).setVc c u).setCtl c
            { ct with takes := setAt ct.takes q.toNat (nth 0 ct.takes q.toNat - 1), pc := ct.pc + 1 }) ∧
        u = { st with v := u.v, a := u.a, k := u.k } ∧
        (∀ r, r ≠ d.toNat → r ≠ d.toNat + 1 → u.getv r = st.getv r) ∧
        (∀ j < 8, (u.getv d.toNat).extractLsb' (32 * j) 32 = nth 0 t.tok.words j ∧
          (t.tok.words.length ≤ 16 → (u.getv (d.toNat + 1)).extractLsb' (32 * j) 32 = nth 0 t.tok.words (8 + j))) ∧
        (∀ r, u.geta r = if r = 7 then t.tok.hdr else st.geta r) ∧
        (∀ r, u.getk r = if r = 3 then (if t.tok.mask then 0 else BitVec.allOnes 32) else st.getk r)) ∧
    (if ¬(d.toNat % 2 = 0 ∧ len.toNat ≤ 16 ∧ z = 0) then VcFaults s h n put (.vput h n) 1
     else if o.room = 0 then VcFaults s h n put (.vput h n) 5
     else s.m.vcStands h n put = true → ∃ (t : Token) (m' : Mod), Completes s (.vput h n) m' ∧ t.words.length = len.toNat ∧
        (∀ j < len.toNat, nth 0 t.words j = if j < 8 then (st.getv d.toNat).extractLsb' (32 * j) 32
          else (st.getv (d.toNat + 1)).extractLsb' (32 * (j - 8)) 32) ∧
        t.tag = tag ∧ (t.mask = true ↔ mask = 1) ∧ (t.eot = true ↔ eot = 1) ∧ t.gen = gen ∧ t.seq = o.seq ∧
        SentOn s.m m' (qid c q.toNat) t ∧ m'.outq (qid c q.toNat) = { o with seq := o.seq + 1, room := o.room - 1, marker := o.marker || t.isMarker } ∧
        m'.vc c = st ∧ m'.ctl c = { ct with pc := ct.pc + 1 })

/-- R71, R88: VGATH, VSCAT and VSCATA issue one request each, or the core stays at the instruction while the engine has no slot
free; the element of a scatter comes from vd, vd + 1. FENCE waits for the core's scatters and atomics. -/
def Rule.VectorRequests : Prop :=
  ∀ (s : State) (h : BitVec 13) (n : Fin 4) (d : BitVec 4) (aa ab : BitVec 3) (w : BitVec 4) (q : BitVec 2)
    (core : BitVec 7),
    let hh := s.m.hearth h.toNat
    let k := coreVc n.val
    let st := s.m.vc (vcAt h n)
    let i := (st.geta aa.toNat).toNat
    let co := st.geta ab.toNat
    let win := hh.win w.toNat
    let dest := if win.eng = 0 then k else core.toNat
    let word := fun (op : BitVec 6) => fmtVM op d aa ab w q core 0
    let elem := ((List.range 64).map fun j =>
      if j < 32 then (st.getv d.toNat).extractLsb' (8 * j) 8 else (st.getv (d.toNat + 1)).extractLsb' (8 * (j - 32)) 8).take
        win.size
    let requests := fun (op : BitVec 6) (c : Instr) (o : ReqOp) =>
      let r : Req := { eng := win.eng, core := k, idx := i, addr := win.base + i * win.size, size := win.size,
                       th := if win.eng = 1 then co.toNat else h.toNat, op := o }
      VcDoes s h n (word op) c (if hh.slotFree win.eng then
        (s.m.issueReq h.toNat r).setPc (vcAt h n) (s.m.vcPc h n + 1) else s.m)
    let posted := fun (op : BitVec 6) (c : Instr) (perm : Bool) (o : ReqOp) =>
      if d.toNat % 2 = 1 then VcFaults s h n (word op) c 1
      else match winCause hh win perm i co with
        | some code => VcFaults s h n (word op) c code
        | none => requests op c o
    (match winCause hh win (win.rd && decide (q.toNat < inQueues dest)) i co with
      | some code => VcFaults s h n (word 0x1B) (.vgath h n) code
      | none => requests 0x1B (.vgath h n) (.gather (qid (cid h.toNat dest) q.toNat) (w.setWidth 6))) ∧
    posted 0x1C (.vscat h n) win.wr (.scatter elem) ∧
    posted 0x1D (.vscata h n) (win.at' && decide (win.eng ≤ 1 ∧ 2 ≤ win.esize)) (.atomic win.fp elem) ∧
    VcDoes s h n (fmtV 0x26 0 0 0 0 0 0 0 0) (.vcFence h n)
      (if hh.reqs.any (fun r => decide (r.core = k) && (match r.op with | .gather _ _ => false | _ => true)) then s.m
       else s.m.setPc (vcAt h n) (s.m.vcPc h n + 1))

/-- R66, R88: BZ, BNZ, JMP and LOOP: the target is checked at issue, whatever the condition gives; LOOP counts its register
down first. -/
def Rule.VectorBranches : Prop :=
  ∀ (s : State) (h : BitVec 13) (n : Fin 4) (d : BitVec 4) (aa : BitVec 3) (o : BitVec 19),
    let c := vcAt h n
    let st := s.m.vc c
    let x := st.geta aa.toNat
    let pc := s.m.vcPc h n
    let target : Int := pc + o.toInt
    let ok := inBlock (vcBlocks st.prog) 512 (s.m.ctl c).phase target
    let br := fun (op : BitVec 6) (cmd : Instr) (taken : Bool) =>
      if ok = true then VcDoes s h n (fmtL op d aa o) cmd (s.m.setPc c (if taken then target.toNat else pc + 1))
      else VcFaults s h n (fmtL op d aa o) cmd 2
    br 0x1E (.bz h n) (decide (x = 0)) ∧
    br 0x1F (.bnz h n) (decide (x ≠ 0)) ∧
    (if aa = 0 then br 0x20 (.jmp h n) true else VcFaults s h n (fmtL 0x20 d aa o) (.jmp h n) 1) ∧
    (if ok = true then
      let u : VcSt := if aa = 0 then st else { st with a := tSet 0 st.a aa.toNat (x - 1) }
      VcDoes s h n (fmtL 0x21 d aa o) (.vcLoop h n)
        ((s.m.setVc c u).setPc c (if u.geta aa.toNat = 0 then pc + 1 else target.toNat))
    else VcFaults s h n (fmtL 0x21 d aa o) (.vcLoop h n) 2)

/-- R101, R338: PARM loads the 64 B entry into the latch once its VALID bit is 1 and else leaves the core at it; a misaligned or
undeclared address is HS_ADDR. R99, R100, R101, R344: STEP.M refuses a bad placement as STEP_FRAME; with the latched skip flag it
copies the masters to ad and changes nothing else; else, with every result finite, word j at ad is the new master of R344 and the new
moments are encoded as two groups under MRM, each scale behind them; with a result that is not finite the block is held (R345). -/
def Rule.StepParametersAndUpdate : Prop :=
  ∀ (s : State) (h : BitVec 13) (n : Fin 4) (d : BitVec 4) (aa : BitVec 3) (i : BitVec 19) (af ad : BitVec 3),
    let c := vcAt h n
    let st := s.m.vc c
    let hh := s.m.hearth h.toNat
    let ea := (st.geta aa.toNat + i.signExtend 32).toNat
    let f := (st.geta af.toNat).toNat
    let a := (st.geta ad.toNat).toNat
    let word := fmtP 0x23 af ad 0
    let l := st.latch
    let p := fun (lo : Nat) => l.extractLsb' lo 32
    (if ¬(ea % 64 = 0 ∧ hh.inRegion ea 64 = true) then VcFaults s h n (fmtL 0x22 d aa i) (.parm h n) 9
     else if (mGet hh.hs (ea + 2)).getLsbD 3 = false ∨ hh.reqs.any (ownPending h n ea 64) = true then VcDoes s h n (fmtL 0x22 d aa i) (.parm h n) s.m
     else s.m.vcStands h n (fmtL 0x22 d aa i) = true → ∃ (u : VcSt) (x : Hearth),
      Completes s (.parm h n) ((s.m.setHearth h.toNat x).vcThen h n u) ∧ u = { st with latch := u.latch } ∧
      (∀ j < 64, u.latch.extractLsb' (8 * j) 8 = mGet hh.hs (ea + j)) ∧ x = { hh with c3 := x.c3, rep := x.rep }) ∧
    (if ¬(f % 64 = 0 ∧ a % 64 = 0 ∧ f + 384 ≤ 8192 ∧ a + 128 ≤ 8192 ∧ (a = f ∨ a + 128 ≤ f ∨ f + 384 ≤ a)) then
      VcFaults s h n word (.stepM h n) 10
     else s.m.vcStands h n word = true → ∃ u : VcSt, Completes s (.stepM h n)
        { s.m.vcThen h n u with train := { s.m.train with stepVcs := s.m.train.stepVcs.filter (· ≠ c) ++ [c] } } ∧
      u = { st with mem := u.mem, held := u.held, st := u.st } ∧
      (∀ x, ¬(a ≤ x ∧ x < a + 128) → ¬(f + 256 ≤ x ∧ x < f + 322) → mGet u.mem x = mGet st.mem x) ∧
      (l.getLsbD 16 = true → u.held = st.held ∧ u.st = st.st ∧
        (∀ x < 128, mGet u.mem (a + x) = mGet st.mem (f + x)) ∧
        (∀ x, f + 256 ≤ x → x < f + 322 → mGet u.mem x = mGet st.mem x)) ∧
      (l.getLsbD 16 = false →
        let w := fun (j : Nat) => mWord st.mem (f + 4 * j)
        let g := fun (j : Nat) => f32mul (mWord st.mem (f + 128 + 4 * j)) (p 96)
        let sm := (mGet st.mem (f + 320)).toNat
        let sv := (mGet st.mem (f + 321)).toNat
        let m := fun (j : Nat) => f32fma (p 160) (rn32 (Fmt.decScaled .mq8l (some sm) (mGet st.mem (f + 256 + j)).toNat))
          (f32mul (p 192) (g j))
        let v := fun (j : Nat) => f32fma (p 224) (rn32 (Fmt.decScaled .mq8q (some sv) (mGet st.mem (f + 288 + j)).toNat))
          (f32mul (p 256) (f32mul (g j) (g j)))
        let step := fun (j : Nat) => f32div (f32mul (m j) (p 352)) (f32add (f32sqrt (f32mul (v j) (p 384))) (p 288))
        let nw := fun (j : Nat) => f32sub (w j) (f32mul (p 128) (f32add (step j) (f32mul (p 320) (w j))))
        if (List.range 32).any (fun j => f32nonfin (nw j) || f32nonfin (m j) || f32nonfin (v j)) then
          u.held = satAdd 65535 st.held 1 ∧ (∀ x < 128, mGet u.mem (a + x) = mGet st.mem (f + x)) ∧
            (∀ x, f + 256 ≤ x → x < f + 322 → mGet u.mem x = mGet st.mem x)
        else
          let key := fun (j : Nat) => st.geta 6 + BitVec.ofNat 32 j
          let rnd := fun (j purpose : Nat) => mrmRnd (s.m.rndOf h.toNat) (StepPar.of l) (key j) purpose
          let gm := encGroup .mq8l ((List.range 32).map fun j => (f32 (m j), rnd j 1))
          let gv := encGroup .mq8q ((List.range 32).map fun j => (f32 (v j), rnd j 2))
          u.held = st.held ∧ (∀ j < 32, mWord u.mem (a + 4 * j) = nw j ∧
            mGet u.mem (f + 256 + j) = BitVec.ofNat 8 (nth (0, {}) gm.2 j).1 ∧
            mGet u.mem (f + 288 + j) = BitVec.ofNat 8 (nth (0, {}) gv.2 j).1) ∧
            mGet u.mem (f + 320) = BitVec.ofNat 8 gm.1 ∧ mGet u.mem (f + 321) = BitVec.ofNat 8 gv.1))

/-- R136, R137, R149: for every floating-point format, the bits of a value that is no NaN come back when the decoded value is
encoded again under any rounding, and no flag is set. -/
def Rule.FormatRoundTrip : Prop :=
  ∀ (f : Fmt) (rd : Rnd) (bits : Nat), f.isFloat = true → bits < 2 ^ f.width → f.dec bits ≠ .nan →
    f.enc rd (f.dec bits) = (bits, {})

/-! ### What holds for every core instruction -/

/-- R73, R84: register 0 of a scalar core and a0 read zero and discard writes, k0 reads all ones and cannot be written; every
other register reads what was last written to it, and a write leaves all the others. -/
def Rule.RegisterZeroLaws : Prop :=
  (∀ (st : ScSt) (r q : Nat) (v : Word), st.get 0 = 0 ∧
    (st.put r v).get q = (if q = r ∧ r ≠ 0 then v else st.get q) ∧ (st.put 0 v) = st) ∧
  (∀ (st : VcSt) (r q : Nat) (v : Word), st.geta 0 = 0 ∧ st.getk 0 = BitVec.allOnes 32 ∧
    (st.puta r v).geta q = (if q = r ∧ r ≠ 0 then v else st.geta q) ∧
    (st.putk r v).getk q = (if q = r ∧ r ≠ 0 then v else st.getk q) ∧ st.puta 0 v = st ∧ st.putk 0 v = st)

/-- R68, R74, R75, R88: whatever command is sent, a core that stands at a word of a reserved opcode takes ILLEGAL_OP, and one
past the last word of program memory takes BLK_ORDER; a core that stands at another instruction than the command's, or does not
issue, is left as it is. -/
def Rule.ReservedOpcodesAndProgramEnd : Prop :=
  (∀ (s : State) (h : BitVec 13) (n : Fin 123), ∀ i < (scalarCommands h n).length,
    ∀ c, (scalarCommands h n)[i]? = some c → s.m.issues h.toNat (coreSc n.val) = true →
      let ct := s.m.ctl (scAt h n)
      let op := opOf (nth 0 (s.m.sc (scAt h n)).prog ct.pc)
      (128 ≤ ct.pc → Completes s c (s.m.raise h.toNat (coreSc n.val) 1 6)) ∧
      (ct.pc < 128 → 0x36 ≤ op → Completes s c (s.m.raise h.toNat (coreSc n.val) 1 1)) ∧
      (ct.pc < 128 → op < 0x36 → op ≠ i → Completes s c s.m)) ∧
  (∀ (s : State) (h : BitVec 13) (n : Fin 4), ∀ i < (vectorCommands h n).length,
    ∀ c, (vectorCommands h n)[i]? = some c → s.m.issues h.toNat (coreVc n.val) = true →
      let ct := s.m.ctl (vcAt h n)
      let op := opOf (nth 0 (s.m.vc (vcAt h n)).prog ct.pc)
      (512 ≤ ct.pc → Completes s c (s.m.raise h.toNat (coreVc n.val) 1 6)) ∧
      (ct.pc < 512 → 0x27 ≤ op → Completes s c (s.m.raise h.toNat (coreVc n.val) 1 1)) ∧
      (ct.pc < 512 → op < 0x27 → op ≠ i → Completes s c s.m))

/-- R68, R196, R198, R199: a program fault stops its core at the instruction, leaves every register, memory, queue and engine
request as it was, notes the urgent condition of the ring stop, and keeps the record that the rule lays out, of a step the first 64:
after the commit vote the fault is one of the next step. The fault counts, and in a rerun it is noted, whether a record is kept or
not. -/
def Rule.ProgramFaultEffect : Prop :=
  ∀ (m : Mod) (h core code : Nat),
    let t := m.raise h core 1 code
    let ct := m.ctl (cid h core)
    t.grid.scs = m.grid.scs ∧ t.grid.vcs = m.grid.vcs ∧ t.grid.mcs = m.grid.mcs ∧ t.grid.inqs = m.grid.inqs ∧
      t.grid.outqs = m.grid.outqs ∧ t.grid.trees = m.grid.trees ∧ t.grid.flights = m.grid.flights ∧ t.rem = m.rem ∧
      t.hbm = m.hbm ∧ t.train = m.train ∧
      t.ctl (cid h core) = { ct with faulted := true, wait := .none } ∧
      (∀ c, c ≠ cid h core → t.ctl c = m.ctl c) ∧
      (∀ g, g ≠ h → t.hearth g = m.hearth g) ∧
      t.hearth h = { m.hearth h with urgent := true, addrFlt := (m.hearth h).addrFlt || decide (code = 9) } ∧
      t.flt.count = m.flt.count + 1 ∧
      let v := m.train.voted
      let mb := faultMb (m.imgOf h) h m.tick.k
      let r : FaultRec :=
        { cls := 1, code := code, hearth := h, core := core, hlevel := false, rerun := m.flt.rerun && !v, pc := ct.pc,
          tick := m.tick.cnt.toNat % 2 ^ 32, mb := mb, mbs := mb.toList }
      let had := if v then m.flt.keptNext else m.flt.kept
      t.flt.hit = (m.flt.hit || r.rerun) ∧
      t.flt.kept = (if v then m.flt.kept else satAdd 64 had 1) ∧
      t.flt.keptNext = (if v then satAdd 64 had 1 else m.flt.keptNext) ∧
      t.flt.recs = (if had < 64 then m.flt.recs ++ [r] else m.flt.recs) ∧
      t.flt.made = (if had < 64 then m.flt.made + 1 else m.flt.made) ∧
      t.flt.log = (if had < 64 then (m.flt.log ++ [r]).drop ((m.flt.log ++ [r]).length - 256) else m.flt.log)

/-- R68, R73, R84: the frame of every scalar and vector instruction, the faulting ones too: no other core's registers, memories,
program counter or phase change, no other hearth, no matrix core, and nothing outside the grid but the fault records, the remote
windows that tokens leave by, and STEP.M's note of its core for the flip (R345). -/
def Rule.CoreInstructionFrame : Prop :=
  ∀ (s t : State) (h : BitVec 13),
    let keeps := fun (c : Nat) =>
      t.pending = s.pending ∧ t.m.grid.mcs = s.m.grid.mcs ∧ (∀ g, g ≠ h.toNat → t.m.hearth g = s.m.hearth g) ∧
      (∀ d, d ≠ c → t.m.sc d = s.m.sc d ∧ t.m.vc d = s.m.vc d ∧ t.m.ctl d = s.m.ctl d) ∧
      t.m.cord = s.m.cord ∧ t.m.tick = s.m.tick ∧ t.m.pow = s.m.pow ∧ t.m.dieN = s.m.dieN ∧ t.m.dieS = s.m.dieS ∧
      t.m.log = s.m.log ∧ t.m.hbm = s.m.hbm ∧ t.m.peat = s.m.peat ∧ t.m.exch = s.m.exch ∧
      t.m.clus = s.m.clus ∧ t.m.eth = s.m.eth ∧ t.m.dma = s.m.dma ∧ t.m.kop = s.m.kop ∧ t.m.sec = s.m.sec ∧
      t.m.tst = s.m.tst ∧ t.m.cross = s.m.cross ∧ t.m.free = s.m.free
    (∀ (n : Fin 123) (c : Instr), c ∈ scalarCommands h n → Sys2Proof.Machine.exec c s = .next t →
      keeps (scAt h n) ∧ t.m.grid.vcs = s.m.grid.vcs ∧ t.m.train = s.m.train) ∧
    (∀ (n : Fin 4) (c : Instr), c ∈ vectorCommands h n → Sys2Proof.Machine.exec c s = .next t →
      keeps (vcAt h n) ∧ t.m.grid.scs = s.m.grid.scs ∧ t.m.train = { s.m.train with stepVcs := t.m.train.stepVcs } ∧
        (c ≠ .stepM h n → t.m.train = s.m.train))

/-- R65, R66: BLK enters the started block, one word on in a scalar core and two in a vector core; a BLK met inside a block is
BLK_ORDER, a set reserved bit ILLEGAL_OP. -/
def Rule.BlockBegins : Prop :=
  ∀ (s : State) (h : BitVec 13) (i0 i1 o0 o1 : BitVec 4) (z : BitVec 10) (b : Nat),
    (∀ n : Fin 123,
      let w := fmtF 0x33 i0 i1 o0 o1 z
      let ct := s.m.ctl (scAt h n)
      if z ≠ 0 then ScFaults s h n w (.scBlk h n) 1
      else (ct.phase = .inside b → ScFaults s h n w (.scBlk h n) 6) ∧
        (ct.phase = .started b → ScDoes s h n w (.scBlk h n)
          (s.m.setCtl (scAt h n) { ct with phase := .inside b, pc := ct.pc + 1 }))) ∧
    (∀ n : Fin 4,
      let w := fmtF 0x24 i0 i1 o0 o1 z
      let ct := s.m.ctl (vcAt h n)
      let w2 := nth 0 (s.m.vc (vcAt h n)).prog (ct.pc + 1)
      if z ≠ 0 ∨ w2.extractLsb' 0 16 ≠ 0 then VcFaults s h n w (.vcBlk h n) 1
      else (ct.phase = .inside b → VcFaults s h n w (.vcBlk h n) 6) ∧
        (ct.phase = .started b → VcDoes s h n w (.vcBlk h n)
          (s.m.setCtl (vcAt h n) { ct with phase := .inside b, pc := ct.pc + 2 })))

/-- The core is out of block b: its next start is free to be searched, its declared takes are gone, every output queue gives
back the room it did not use, to the credit of the input queue, of the tree or of the remote window that it is bound to. -/
def BlockEnded (m t : Mod) (c : Nat) (outs : List Nat) (b pc : Nat) : Prop :=
  t.ctl c = { m.ctl c with phase := .idle, last := some b, takes := [], inCnt := [], outCnt := [], wait := .none,
                           pc := pc } ∧
  (∀ q ∈ outs, t.outq (qid c q) = { m.outq (qid c q) with room := 0 }) ∧
  (let unused := fun (p : Bind → Bool) =>
     ((outs.filter fun o => p (m.outq (qid c o)).bind).map fun o => (m.outq (qid c o)).room).sum
   (∀ q, (t.inq q).credit = (m.inq q).credit + unused fun b => match b with
     | .unicast k _ => decide (k = q)
     | _ => false) ∧
   (∀ k, (t.tree k).credit = (m.tree k).credit + unused fun b => b == .tree k) ∧
   (∀ w, (tGet {} t.rem.out w).credit = (tGet {} m.rem.out w).credit + unused fun b => b == .remote w)) ∧
  (∀ q, (t.inq q).router = (m.inq q).router) ∧ t.grid.flights = m.grid.flights

/-- R65, R66: END ends the block and releases the room that the block did not use; a live core that stands at an END outside any
block takes BLK_ORDER. -/
def Rule.BlockEnds : Prop :=
  ∀ (s : State) (h : BitVec 13) (b : Nat),
    (∀ n : Fin 123,
      ((s.m.ctl (scAt h n)).phase = .inside b → s.m.scStands h n (fmtA 0x34 0 0 0) = true →
        ∃ t, Completes s (.scEnd h n) t ∧ BlockEnded s.m t (scAt h n) [0, 1] b (s.m.scPc h n + 1)) ∧
      (s.m.live h.toNat (coreSc n.val) = true → (s.m.ctl (scAt h n)).phase = .idle →
        opOf (nth 0 (s.m.sc (scAt h n)).prog (s.m.scPc h n)) = 0x34 →
        Completes s (.scEnd h n) (s.m.raise h.toNat (coreSc n.val) 1 6))) ∧
    (∀ n : Fin 4,
      ((s.m.ctl (vcAt h n)).phase = .inside b → s.m.vcStands h n (fmtV 0x25 0 0 0 0 0 0 0 0) = true →
        ∃ t, Completes s (.vcEnd h n) t ∧ BlockEnded s.m t (vcAt h n) [0, 1, 2, 3] b (s.m.vcPc h n + 1)) ∧
      (s.m.live h.toNat (coreVc n.val) = true → (s.m.ctl (vcAt h n)).phase = .idle →
        opOf (nth 0 (s.m.vc (vcAt h n)).prog (s.m.vcPc h n)) = 0x25 →
        Completes s (.vcEnd h n) (s.m.raise h.toNat (coreVc n.val) 1 6)))

/-! ### The matrix core -/

/-- R119, R130, R132: a descriptor of a reserved opcode, or one that fails a check, raises the lowest code on the matrix core and
has no other effect than the fetch: the fault record and the status word name it. -/
def Rule.MatrixRefusals : Prop :=
  ∀ (s : State) (h : BitVec 13) (op k : Nat) (cause : MEnv → Option Nat) (c : Instr),
    (op, cause, c) ∈ ([(1, tileCause, .tile h), (2, mcLoopCause, .mcLoop h), (3, loadCause 0, .loadA h),
      (4, loadCause 1, .loadB h), (5, mmaCause, .mma h), (6, drainCause, .drain h), (7, signalCause, .signal h)] :
        List (Nat × (MEnv → Option Nat) × Instr)) →
    s.m.issues h.toNat 0 = true →
    let e := s.m.mcSees h
    let stopped := fun (code : Nat) =>
      ∃ t, Completes s c t ∧ t = (e.m.raise h.toNat 0 2 code).setMc (cid h.toNat 0)
        { s.m.mc (cid h.toNat 0) with fault := code }
    (dOp e.d = 0 ∨ 8 ≤ dOp e.d → stopped 1) ∧
    (dOp e.d = op → mcCheck (cause e) op e = some k → stopped k) ∧
    (1 ≤ dOp e.d → dOp e.d < 8 → dOp e.d ≠ op → Completes s c s.m)

/-- R114, R117, R120, in exact shape mode: TILE takes its triggers off the queues, names its slots to its tile set under its
shape, sets init bits, mode and kind under INIT 1 and 2 and keeps them under 0, loads the bias latch under 2, and the block is
entered; the accumulator and the operand buffers stay. -/
def Rule.MatrixTile : Prop :=
  ∀ (s : State) (h : BitVec 13) (b : Nat),
    let c := cid h.toNat 0
    let d := (s.m.mcSees h).d
    let mc := s.m.mc c
    let n := (shapeMN (slice d 10 8)).2
    let init := slice d 20 19
    s.m.mcReady h 1 (.started b) tileCause → cCompact (s.m.imgOf h.toNat) = false →
    ∃ t : Mod, Completes s (.tile h) t ∧ (t.mc c).tile = BitVec.ofNat 128 d ∧
      (t.mc c).acc = mc.acc ∧ (t.mc c).halves = mc.halves ∧ (t.mc c).pend = mc.pend ∧
      (∀ k < 8, (t.mc c).slot k = if d.testBit (11 + k) then
          { init := if init = 0 then (mc.slot k).init else BitVec.allOnes 64,
            bias := if init = 0 then (mc.slot k).bias else decide (init = 2),
            int32 := if init = 0 then (mc.slot k).int32 else decide (slice d 27 24 = 8),
            owner := some (mc.tset b), cols := n }
        else mc.slot k) ∧
      (∀ j < n, tGet 0 (t.mc c).bias j =
        if init = 2 then mWord (s.m.hearth h.toNat).hs (slice d 80 64 + 4 * j) else tGet 0 mc.bias j) ∧
      (∀ q < 4, (∀ x ∈ (s.m.inq (qid c q)).router.take (nth 0 (s.m.ctl c).inCnt q),
          x.takeable (s.m.hearth h.toNat).gen = true) →
        (t.inq (qid c q)).router = (s.m.inq (qid c q)).router.drop (nth 0 (s.m.ctl c).inCnt q)) ∧
      t.ctl c = s.m.mcAfter h b

/-- R115, R231, R232, in compact shape mode, for a TILE of one slot: a slot of the block's own tile set stays as it is; a slot of
another set that has been updated goes as a record of 1,024 words to the spill region, and the directory names it; a record of the
block's set comes back under INIT 0, with its kind; with no record the slot's init bits are set. -/
def Rule.CompactTile : Prop :=
  ∀ (s : State) (h : BitVec 13) (b t : Nat),
    let c := cid h.toNat 0
    let d := (s.m.mcSees h).d
    let mc := s.m.mc c
    let x := s.m.hearth h.toNat
    let y := mc.tset b
    let old := mc.slot t
    let place := fun (i : Nat) => x.accBase + 4096 * i
    s.m.mcReady h 1 (.started b) tileCause → cCompact (s.m.imgOf h.toNat) = true → t < 8 → slice d 18 11 = 2 ^ t →
    ∃ z : Mod, Completes s (.tile h) z ∧ z.ctl c = s.m.mcAfter h b ∧ ((z.mc c).slot t).owner = some y ∧
      (∀ k, k ≠ t → (z.mc c).slot k = mc.slot k) ∧
      (old.owner = some y → (z.mc c).acc = mc.acc ∧ (z.mc c).dir = mc.dir ∧ (z.hearth h.toNat).hs = x.hs) ∧
      (∀ u, old.owner = some u → u ≠ y → old.init ≠ BitVec.allOnes 64 → ∃ i,
        (z.mc c).dir[i]? = some { set := u, slot := t, int32 := old.int32 } ∧
        mWords (z.hearth h.toNat).hs (place i) 1024 = mc.slotWords t) ∧
      (∀ i, recPos mc.dir y t = some i → slice d 20 19 = 0 → old.owner ≠ some y → ((z.mc c).slot t).init = 0 ∧
        ((z.mc c).slot t).int32 = (nth { set := 0, slot := 8, int32 := false } mc.dir i).int32 ∧
        ∀ k < 1024, tGet 0 (z.mc c).acc (1024 * t + k) = mWord x.hs (place i + 4 * k)) ∧
      (recPos mc.dir y t = none → slice d 20 19 = 0 → old.owner ≠ some y →
        ((z.mc c).slot t).init = BitVec.allOnes 64 ∧ ((z.mc c).slot t).bias = false)

/-- R110, R112, R121, R122, R128: LOAD.A and LOAD.B with nothing waiting in the units fill their half at once: from the hearth
store row by row or transposed, from a queue 64 bytes a token with a masked token giving zeros. ROWS, RB and the scales are
latched; the other halves, the slots and the accumulator stay. -/
def Rule.MatrixLoad : Prop :=
  ∀ (s : State) (h : BitVec 13) (b u : Nat) (cmd : Instr), (u = 0 ∧ cmd = .loadA h) ∨ (u = 1 ∧ cmd = .loadB h) →
    let c := cid h.toNat 0
    let e := s.m.mcSees h
    let mc := s.m.mc c
    let l := loadF u e.d e.o
    let w := (mc.fmtOf u).width / 8
    let hs := (s.m.hearth h.toNat).hs
    let x := s.m.inq (qid c l.q)
    let no := (if u = 1 then 2 else 0) + l.half % 2
    let filled := fun (t : Mod) =>
      (tGet {} (t.mc c).halves no).rows = l.rows ∧ (tGet {} (t.mc c).halves no).rb = l.rb ∧
      (l.scl = false → (tGet {} (t.mc c).halves no).scales = none) ∧
      (l.scl = true → (tGet {} (t.mc c).halves no).scales =
        some (mRead hs l.saddr (scaleCount u (mc.fmtOf u) l.rows l.rb))) ∧
      (∀ k, k ≠ no → tGet {} (t.mc c).halves k = tGet {} mc.halves k) ∧
      (t.mc c).acc = mc.acc ∧ (t.mc c).slots = mc.slots ∧ (t.mc c).pend = [] ∧ t.ctl c = s.m.mcAfter h b
    s.m.mcReady h (3 + u) (.inside b) (loadCause u) → mc.pend = [] →
    (l.src = 0 → ∃ t : Mod, Completes s cmd t ∧ filled t ∧ ∀ i < l.rows, ∀ j < l.rb,
      mGet (tGet {} (t.mc c).halves no).data (i * l.rb + j) =
        mGet hs (l.addr + i * (if l.pitch = 0 then l.rb else l.pitch) + j)) ∧
    (l.src = 1 → ∃ t : Mod, Completes s cmd t ∧ filled t ∧ ∀ i < l.rows, ∀ k < l.rb / w, ∀ j < w,
      mGet (tGet {} (t.mc c).halves no).data (i * l.rb + k * w + j) =
        mGet hs (l.addr + k * (if l.pitch = 0 then l.rows * w else l.pitch) + i * w + j)) ∧
    (∀ toks rest : List QTok, l.src = 2 → x.router = toks ++ rest → toks.length = l.rows * l.rb / 64 →
      (∀ k ∈ toks, k.takeable (s.m.hearth h.toNat).gen = true ∧ k.tok.words.length ≤ 16) →
      ∃ t : Mod, Completes s cmd t ∧ filled t ∧ (t.inq (qid c l.q)).router = rest ∧
        ∀ i < toks.length, ∀ j < 64, mGet (tGet {} (t.mc c).halves no).data (64 * i + j) =
          (let k := (nth {} toks i).tok
           if k.mask then 0 else (nth 0 k.words (j / 4)).extractLsb' (8 * (j % 4)) 8))

/-- R109, R114, R124, R133: MMA with a reduction length above 0 and nothing waiting in the units: every element inside rows ROW0 on
and columns COL0 on of its slot gains the products of its row and column, in steps of eight (an INT32 slot: the exact sum modulo
2^32), and every other element of every slot, as a DRAIN sees it, is what it was: the first update of a block gives the initial
value to the lanes it masks. With KV = 0 the MMA completes when it issues, whatever waits in the units, where fewer than three MMAs
do: of the matrix core only its count of empty reductions moves, and word 14 of the hearth's report. -/
def Rule.MatrixMultiply : Prop :=
  ∀ (s : State) (h : BitVec 13) (b : Nat),
    let c := cid h.toNat 0
    let e := s.m.mcSees h
    let mc := s.m.mc c
    let l := mmaF e.d e.o
    let A := mc.half false l.ah
    let B := mc.half true l.bh
    s.m.mcReady h 5 (.inside b) mmaCause →
    (l.kv = 0 → (mc.pend.filter (·.unit = 3)).length < 3 →
      ∃ t : Mod, Completes s (.mma h) t ∧ t.ctl c = s.m.mcAfter h b ∧
        t.mc c = { mc with emptyRed := satAdd 255 mc.emptyRed 1 } ∧
        tGet 0 (t.hearth h.toNat).rep 14 = satAdd (2 ^ 48 - 1) (tGet 0 (s.m.hearth h.toNat).rep 14) 1) ∧
    (l.kv ≠ 0 → mc.pend = [] →
      ∃ t : Mod, Completes s (.mma h) t ∧ t.ctl c = s.m.mcAfter h b ∧ (t.mc c).halves = mc.halves ∧
        (t.mc c).bias = mc.bias ∧ (t.mc c).tile = mc.tile ∧
        (∀ k < 8, ∀ i < mc.mn.1, ∀ j < mc.mn.2,
          let inside := k = l.slot ∧ l.row0 ≤ i ∧ i < l.row0 + l.mv ∧ l.col0 ≤ j ∧ j < l.col0 + l.nv
          (¬ inside → (t.mc c).elem k i j = mc.elem k i j) ∧
          (inside → (mc.slot k).int32 = true →
            (t.mc c).elem k i j = mc.elem k i j + BitVec.ofInt 32 (((List.range l.kv).map fun q =>
              ((mc.afmt.dec (A.elem mc.afmt (i - l.row0) (l.ka0 + q))).mul
                (mc.bfmt.dec (B.elem mc.bfmt (l.kb0 + q) (j - l.col0)))).1.toInt).sum)) ∧
          (inside → (mc.slot k).int32 = false →
            (t.mc c).elem k i j = (List.range ((l.kv + 7) / 8)).foldl (fun w q =>
              rn32 ((f32 w).add (laneStep mc.afmt mc.bfmt A B l (i - l.row0) (j - l.col0) q)).1) (mc.elem k i j))))

/-- Tokens sent one after the other on an output queue, each against one place that it takes as it goes. -/
def SentEach (oq : Nat) : List Token → Mod → Mod → Prop
  | [], m, m' => m'.grid.flights = m.grid.flights ∧ m'.grid.inqs = m.grid.inqs ∧ m'.grid.trees = m.grid.trees
  | t :: l, m, m' => ∃ n : Mod, SentOn (m.reserve oq 1) n oq t ∧ n.outq oq = { m.outq oq with seq := (m.outq oq).seq + 1 } ∧
      SentEach oq l n m'

/-- R125, R126, R153: DRAIN with nothing waiting in the units writes rows 0 to DR - 1 to the hearth store, each element rounded
once into the output format and each row at its pitch, and no other byte; or sends them to an output queue that finds room for all,
whatever its binding, as tokens of 64 bytes, the last zero-padded and carrying end-of-tile where asked. The slot stays. In dynamic
firing a DRAIN to a queue that finds no room waits in its unit, and the sequencer goes on. -/
def Rule.MatrixDrain : Prop :=
  ∀ (s : State) (h : BitVec 13) (b : Nat),
    let c := cid h.toNat 0
    let e := s.m.mcSees h
    let mc := s.m.mc c
    let l := drainF e.d e.o
    let f := (Fmt.ofCode l.fmt).getD .fp32
    let w := f.width / 8
    let n := mc.mn.2
    let hs := (s.m.hearth h.toNat).hs
    let dflt := s.m.rndOf h.toNat
    let rd := fun (i j : Nat) =>
      if l.rm = 2 ∨ (l.rm = 3 ∧ dflt = 2) then
        Rnd.sto (srBits (mWord hs l.kaddr) (mWord hs (l.kaddr + 4)) (BitVec.ofNat 32 (l.kbase + (i * n + j))) 3)
      else if l.rm = 1 ∨ (l.rm = 3 ∧ dflt = 1) then .rz else .rne
    let out := fun (i j : Nat) =>
      let v := mc.elem l.slot i j
      (f.enc (rd i j) (if (mc.slot l.slot).int32 then Fmt.dec .int32 v.toNat else f32 v)).1
    let pitch := if l.pitch = 0 then n * w else l.pitch
    s.m.mcReady h 6 (.inside b) drainCause → mc.pend = [] →
    (l.dst = 0 → ∃ t : Mod, Completes s (.drain h) t ∧ t.mc c = mc ∧ t.ctl c = s.m.mcAfter h b ∧
      (∀ i < l.dr, ∀ j < n, ∀ k < w,
        mGet (t.hearth h.toNat).hs (l.addr + i * pitch + j * w + k) = BitVec.ofNat 8 (out i j / 256 ^ k)) ∧
      (∀ x, (∀ i < l.dr, ¬(l.addr + i * pitch ≤ x ∧ x < l.addr + i * pitch + n * w)) →
        mGet (t.hearth h.toNat).hs x = mGet hs x)) ∧
    (1 ≤ l.dst →
      let oq := qid c (l.dst - 1)
      let o := s.m.outq oq
      let total := (l.dr * n * w + 63) / 64
      (s.m.roomFor oq total = true →
        ∃ (t : Mod) (toks : List Token), Completes s (.drain h) t ∧ t.mc c = mc ∧ t.ctl c = s.m.mcAfter h b ∧
          toks.length = total ∧ SentEach oq toks s.m t ∧ t.outq oq = { o with seq := o.seq + BitVec.ofNat 20 total } ∧
          (∀ k < total, (nth {} toks k).words.length = 16 ∧ (nth {} toks k).tag = BitVec.ofNat 6 l.tag ∧
            (nth {} toks k).mask = false ∧ (nth {} toks k).seq = o.seq + BitVec.ofNat 20 k ∧
            (nth {} toks k).gen = (s.m.hearth (qHearth oq)).gen ∧
            ((nth {} toks k).eot = true ↔ l.eot = true ∧ k + 1 = total)) ∧
          (∀ a < 64 * total, (nth 0 (nth {} toks (a / 64)).words (a % 64 / 4)).extractLsb' (8 * (a % 4)) 8 =
            (if a < l.dr * n * w then BitVec.ofNat 8 (out (a / w / n) (a / w % n) / 256 ^ (a % w)) else 0))) ∧
      (s.m.roomFor oq 1 = false → cStatic (s.m.imgOf h.toNat) = false →
        ∃ t : Mod, Completes s (.drain h) t ∧ t.ctl c = s.m.mcAfter h b ∧ t.outq oq = o ∧
          t.mc c = { mc with pend := [{ unit := 2, desc := BitVec.ofNat 128 e.d, off := e.o, done := 0, pc := (s.m.ctl c).pc }] } ∧
          t.grid.flights = s.m.grid.flights ∧ t.grid.inqs = s.m.grid.inqs ∧ t.grid.trees = s.m.grid.trees ∧
          (t.hearth h.toNat).hs = hs))

/-- R116, R129: a LOAD, an MMA or a DRAIN with three of its kind in its unit leaves the sequencer where it is; behind a LOAD that
waits for its token a further LOAD of the unit and an MMA of that half with KV above 0 are queued, the sequencer goes on, and nothing
else changes in the matrix core. -/
def Rule.MatrixQueues : Prop :=
  ∀ (s : State) (h : BitVec 13) (b op u : Nat) (cause : MEnv → Option Nat) (cmd : Instr),
    (op, u, cause, cmd) ∈ ([(3, 0, loadCause 0, .loadA h), (4, 1, loadCause 1, .loadB h), (5, 3, mmaCause, .mma h),
      (6, 2, drainCause, .drain h)] : List (Nat × Nat × (MEnv → Option Nat) × Instr)) →
    let c := cid h.toNat 0
    let e := s.m.mcSees h
    let mc := s.m.mc c
    let p : McPend := { unit := u, desc := BitVec.ofNat 128 e.d, off := e.o, done := 0, pc := (s.m.ctl c).pc }
    s.m.mcReady h op (.inside b) cause →
    (3 ≤ (mc.pend.filter (·.unit = u)).length → Completes s cmd s.m) ∧
    (∀ q : McPend, q.unit < 2 →
      let l := loadF q.unit q.desc.toNat q.off
      let a := mmaF e.d e.o
      mc.pend = [q] → l.src = 2 → q.done < l.rows * l.rb / 64 → (s.m.inq (qid c l.q)).router = [] →
      cStatic (s.m.imgOf h.toNat) = false →
      u = q.unit ∨ (u = 3 ∧ a.kv ≠ 0 ∧ l.half = if q.unit = 0 then a.ah else a.bh) →
      ∃ t : Mod, Completes s cmd t ∧ t.mc c = { mc with pend := [q, p] } ∧ t.ctl c = s.m.mcAfter h b)

/-- R117, R127, R128: SIGNAL sends one header-only token against the room that TILE reserved, whatever the queue's binding, with WAIT
only once no descriptor is left in the units; LOOP goes back over its body until it has run COUNT + 1 times, then its count starts
afresh; a block past its END ends when no unit holds a descriptor of it, and gives back the room it did not use. -/
def Rule.MatrixSignalLoopEnd : Prop :=
  ∀ (s : State) (h : BitVec 13) (b : Nat),
    let c := cid h.toNat 0
    let e := s.m.mcSees h
    let d := e.d
    let mc := s.m.mc c
    let oq := qid c (slice d 9 8)
    let o := s.m.outq oq
    (s.m.mcReady h 7 (.inside b) signalCause →
      (d.testBit 17 = true → mc.pend ≠ [] → Completes s (.signal h) s.m) ∧
      (d.testBit 17 = false ∨ mc.pend = [] → ∃ (t : Mod) (k : Token), Completes s (.signal h) t ∧
        k.words = [] ∧ k.mask = false ∧ k.tag = BitVec.ofNat 6 (slice d 15 10) ∧ k.eot = d.testBit 16 ∧ k.seq = o.seq ∧
        k.gen = (s.m.hearth (qHearth oq)).gen ∧ SentOn s.m t oq k ∧
        t.outq oq = { o with seq := o.seq + 1, room := o.room - 1, marker := o.marker || k.isMarker } ∧
        t.mc c = mc ∧ t.ctl c = s.m.mcAfter h b)) ∧
    (s.m.mcReady h 2 (.inside b) mcLoopCause →
      let x := tGet 0 mc.loops (s.m.ctl c).pc
      ∃ t : Mod, Completes s (.mcLoop h) t ∧
        (x < slice d 31 16 → tGet 0 (t.mc c).loops (s.m.ctl c).pc = x + 1 ∧
          t.ctl c = { s.m.ctl c with pc := (s.m.ctl c).pc - slice d 15 8 }) ∧
        (slice d 31 16 ≤ x → tGet 0 (t.mc c).loops (s.m.ctl c).pc = 0 ∧ t.ctl c = s.m.mcAfter h b) ∧
        (∀ k, k ≠ (s.m.ctl c).pc → tGet 0 (t.mc c).loops k = tGet 0 mc.loops k) ∧
        t.mc c = { mc with loops := (t.mc c).loops }) ∧
    ((s.m.ctl c).phase = .ending b → s.m.live h.toNat 0 = true →
      if mc.pend = [] then ∃ t, Completes s (.mcBlockEnd h) t ∧ BlockEnded s.m t c [0, 1] b (s.m.ctl c).pc
      else Completes s (.mcBlockEnd h) s.m)

/-! ### Firing, queues, engines -/

/-- Room for output q's declared count (R175, R177): none is needed for 0, else the queue, the tree or the window that it is bound to
has credits for all that the block declares for it, by whatever route. -/
def roomFound (m : Mod) (c : Nat) (l : List Nat) (q : Nat) : Prop :=
  nth 0 l q = 0 ∨ m.roomFor (qid c q) (((List.range l.length).filter fun o =>
    decide ((m.outq (qid c o)).bind.pool = (m.outq (qid c q)).bind.pool)).map fun o => nth 0 l o).sum = true

/-- Condition 1 and 2 of R177 and R179 for block b of a core. -/
def isReady (m : Mod) (h core b : Nat) : Prop :=
  let k := m.counts h core b
  let c := cid h core
  (∀ q < k.1.length, nth 0 k.1 q ≤
    ((m.inq (qid c q)).router.filter fun t => t.vis && t.tok.gen == (m.hearth h).gen && !t.tok.isMarker).length) ∧
  (∀ q < k.2.length, roomFound m c k.2 q) ∧
  ¬((∀ x ∈ k.1, x = 0) ∧ b ∈ (m.ctl c).srcDone)

/-- Block b has started on a core (R178): its declared counts are open, room for every declared output is reserved, the core
stands at the block's first word. -/
def HasStarted (m t : Mod) (h core b sched : Nat) : Prop :=
  let c := cid h core
  let k := m.counts h core b
  t.ctl c = { m.ctl c with phase := .started b, pc := (nth (0, 0) (m.blocks h core) b).1, takes := k.1, inCnt := k.1,
                           outCnt := k.2, sched := sched,
                           srcDone := if k.1.all (· = 0) then (m.ctl c).srcDone ++ [b] else (m.ctl c).srcDone } ∧
  (∀ q < k.2.length, (t.outq (qid c q)).room = (m.outq (qid c q)).room + nth 0 k.2 q) ∧
  (let declared := fun (p : Bind → Bool) =>
     (((List.range k.2.length).filter fun o => p (m.outq (qid c o)).bind).map fun o => nth 0 k.2 o).sum
   (∀ q, (t.inq q).credit = (m.inq q).credit - declared fun b => b.pool == .unicast q false) ∧
   (∀ j, (t.tree j).credit = (m.tree j).credit - declared fun b => b == .tree j) ∧
   (∀ w, (tGet {} t.rem.out w).credit = (tGet {} m.rem.out w).credit - declared fun b => b == .remote w)) ∧
  (∀ q, (t.inq q).router = (m.inq q).router ∧ (t.inq q).spill = (m.inq q).spill) ∧ t.grid.flights = m.grid.flights ∧
  t.pow.fires = m.pow.fires + 1

/-- R177, R178, R179: in dataflow firing a core outside a block starts the first ready block after the block it last ended, in
program order and wrapping round; with none ready nothing happens. -/
def Rule.BlockStart : Prop :=
  ∀ (s : State) (h : BitVec 13) (core : BitVec 7),
    let k := core.toNat
    let ct := s.m.ctl (cid h.toNat k)
    let n := (s.m.blocks h.toNat k).length
    s.m.pow.state = .running → s.m.train.running = true → s.m.live h.toNat k = true → ct.phase = .idle → ct.wait = .none →
    cStatic (s.m.imgOf h.toNat) = false →
    (∀ b i, i < n → b = (match ct.last with | none => i | some l => (l + 1 + i) % n) → isReady s.m h.toNat k b →
      (∀ j < i, ¬ isReady s.m h.toNat k (match ct.last with | none => j | some l => (l + 1 + j) % n)) →
      ∃ t, Completes s (.blockStart h core) t ∧ HasStarted s.m t h.toNat k b ct.sched) ∧
    ((∀ b < n, ¬ isReady s.m h.toNat k b) → Completes s (.blockStart h core) s.m)

/-- R183, R184, R198: at a schedule entry's cycle the core starts the named block; an input count not met is SCHED_MISSING, room
not available SCHED_ROOM, a core still inside its block SCHED_LATE, the lowest code first. -/
def Rule.ScheduledStart : Prop :=
  ∀ (s : State) (h : BitVec 13) (core : BitVec 7) (w : Nat),
    let k := core.toNat
    let c := cid h.toNat k
    let ct := s.m.ctl c
    let b := slice w 30 26
    let n := s.m.counts h.toNat k b
    let raised := fun (code : Nat) => Completes s (.schedEntryStart h core)
      (((s.m.schedRead h.toNat k).setCtl c { ct with sched := ct.sched + 1 }).raise h.toNat k 3 code)
    s.m.pow.state = .running → s.m.train.running = true → s.m.live h.toNat k = true → cStatic (s.m.imgOf h.toNat) = true →
    s.m.schedEntry h.toNat k ct.sched = some w →
    let missing := (List.range n.1.length).any fun q => decide
      ((s.m.inq (qid c q)).ready (s.m.hearth h.toNat).gen < nth 0 n.1 q)
    (missing = true → raised 1) ∧
    (missing = false → (∃ q < n.2.length, ¬ roomFound s.m c n.2 q) → raised 2) ∧
    (missing = false → (∀ q < n.2.length, roomFound s.m c n.2 q) →
    if ct.phase ≠ .idle ∨ ct.wait ≠ .none then raised 3
    else ∃ t, Completes s (.schedEntryStart h core) t ∧ HasStarted s.m t h.toNat k b (ct.sched + 1))

/-- R97, R118, R180, R185: what waits inside a block goes on: a VSEGR ends once its remaining rows are there and its result has room; a
LOAD from a queue completes once its remaining tokens are there; without a token both wait on, and in static firing, where the model
takes the wait to begin (log entry 92), raise SCHED_WAIT. -/
def Rule.WaitInsideBlock : Prop :=
  (∀ (s : State) (h : BitVec 13) (n : Fin 4) (d : BitVec 4) (aa : BitVec 3) (qd qo : BitVec 2) (sub rm : BitVec 2)
    (tag : BitVec 6) (fmt : BitVec 4) (rows : Nat),
    let c := vcAt h n
    let cmd := Instr.inblockWaitResume h (BitVec.ofNat 7 (n.val + 1))
    let f : Fmt := if fmt = 0 then .fp32 else if fmt = 1 then .bf16 else .fp16
    s.m.live h.toNat (coreVc n.val) = true → (s.m.ctl c).wait = .segr rows 0 → fmt.toNat < 3 →
    nth 0 (s.m.vc c).prog (s.m.vcPc h n) = fmtS 0x0B d aa qd qo fmt sub rm tag 0 →
    SegmentEnds s h n cmd f qd qo sub rm tag ((List.range (if fmt = 0 then 16 else 32)).map fun i =>
      BitVec.ofNat 32 (laneAt 32 ((s.m.vc c).getv (d.toNat + i / 8)) (i % 8))) rows ∧
    (0 < rows → (s.m.inq (qid c qd.toNat)).router = [] →
      if cStatic (s.m.imgOf h.toNat) then Completes s cmd (s.m.raise h.toNat (coreVc n.val) 3 4)
      else ∃ t, Completes s cmd t ∧ t.ctl c = s.m.ctl c ∧ t.grid.flights = s.m.grid.flights)) ∧
  (∀ (s : State) (h : BitVec 13) (p : McPend) (toks rest : List QTok),
    let c := cid h.toNat 0
    let mc := s.m.mc c
    let l := loadF p.unit p.desc.toNat p.off
    let x := s.m.inq (qid c l.q)
    let no := (if p.unit = 1 then 2 else 0) + l.half % 2
    s.m.live h.toNat 0 = true → mc.pend = [p] → p.unit < 2 → l.src = 2 → x.router = toks ++ rest →
    (∀ k ∈ toks, k.takeable (s.m.hearth h.toNat).gen = true ∧ k.tok.words.length ≤ 16) →
    (toks ≠ [] → p.done + toks.length = l.rows * l.rb / 64 →
      ∃ t, Completes s (.inblockWaitResume h 0) t ∧ (t.mc c).pend = [] ∧ (t.inq (qid c l.q)).router = rest ∧
        (tGet {} (t.mc c).halves no).rows = l.rows ∧ (tGet {} (t.mc c).halves no).rb = l.rb ∧
        (tGet {} (t.mc c).halves no).scales =
          (if l.scl then some (mRead (s.m.hearth h.toNat).hs l.saddr (scaleCount p.unit (mc.fmtOf p.unit) l.rows l.rb)) else none) ∧
        ∀ i < toks.length, ∀ j < 64, mGet (tGet {} (t.mc c).halves no).data (64 * (p.done + i) + j) =
          (let k := (nth {} toks i).tok
           if k.mask then 0 else (nth 0 k.words (j / 4)).extractLsb' (8 * (j % 4)) 8)) ∧
    (x.router = [] → p.done < l.rows * l.rb / 64 →
      ∃ t, Completes s (.inblockWaitResume h 0) t ∧ (t.mc c).pend = [p] ∧
        (cStatic (s.m.imgOf h.toNat) = false → t.ctl c = s.m.ctl c) ∧
        (cStatic (s.m.imgOf h.toNat) = true → (t.ctl c).faulted = true ∧ t.flt.count = s.m.flt.count + 1)))

/-- R168: the header of a token lies as the rule's table says, bits [21:20] zero, and every field is read back. -/
def Rule.TokenHeaderLayout : Prop :=
  ∀ t : Token, t.hdr.extractLsb' 0 20 = t.seq ∧ t.hdr.extractLsb' 20 2 = 0 ∧ t.hdr.getLsbD 22 = t.eot ∧
    t.hdr.getLsbD 23 = t.mask ∧ t.hdr.extractLsb' 24 6 = t.tag ∧ t.hdr.extractLsb' 30 2 = t.gen ∧
    Token.ofHdr t.hdr t.words = t

/-- R251 to R253: as the mesh moves, only flights, arbiters, and what the split routers of trees take and send on change; without a
tree in flight the flights only hop along their routes, until no flight may hop; an output grants, of the flights that may go by it,
one whose turn is nearest, and then favours the channel and the input port behind it. -/
def Rule.MeshMoves : Prop :=
  (∀ m : Mod,
    let t := m.meshOn
    t = { m with grid := { m.grid with
      flights := t.grid.flights, arbs := t.grid.arbs, trees := t.grid.trees, inqs := t.grid.inqs } } ∧
    ((∀ f ∈ m.grid.flights, f.tree = none) →
      t.grid.trees = m.grid.trees ∧ t.grid.inqs = m.grid.inqs ∧
      t.grid.flights.map (fun f => { f with hop := 0 }) = m.grid.flights.map (fun f => { f with hop := 0 }) ∧
      (∀ i, (nth {} m.grid.flights i).hop ≤ (nth {} t.grid.flights i).hop) ∧
      ((∀ f ∈ m.grid.flights, f.hop < f.hops.length) → ∀ i < t.grid.flights.length, t.mayHop i = false))) ∧
  (∀ (m : Mod) (o : Hop) (i : Nat), m.granted o = some i →
    (nth {} m.grid.flights i).asks = o ∧ m.mayHop i = true ∧ ∀ j < m.grid.flights.length, (nth {} m.grid.flights j).asks = o →
      m.mayHop j = true → m.turnOf (nth {} m.grid.flights i) ≤ m.turnOf (nth {} m.grid.flights j)) ∧
  (∀ (m : Mod) (o : Hop) (vc p : Nat), o.2 < 1024 →
    let arb := fun (m : Mod) (o : Hop) => tGet {} m.grid.arbs (1024 * o.1 + o.2)
    let t := m.grantOut o vc p
    (arb t o).chan = (vc + 1) % 4 ∧ tGet 0 (arb t o).ports vc = (p + 1) % 10 ∧
      (∀ k, k ≠ vc → tGet 0 (arb t o).ports k = tGet 0 (arb m o).ports k) ∧
      (∀ u : Hop, u.2 < 1024 → u ≠ o → arb t u = arb m u) ∧ t = { m with grid := { m.grid with arbs := t.grid.arbs } })

/-- R173, R237, R253, R266, R391: once the mesh has moved, a token that stands at the end of its way and first in its buffer there leaves
it. At the gateway of a remote window it joins those that wait for a batch. At its queue it is judged by its generation: one of the
hearth's generation, in a queue not drained, and an early one enter: the router part while nothing is spilled and one of its 16 places
is free, else the spill part. A token of a tree is counted for its target. Any other is dropped, counted in STALE and reported through
the FIFO of four, an overrun being counted. One that is not there yet, or on a die whose clock stands, stays on the mesh. -/
def Rule.TokenArrives : Prop :=
  ∀ (s : State) (q prod : Nat) (pre post : List Flight) (f : Flight),
    let h := qHearth q
    let m := s.m.meshOn
    let hh := m.hearth h
    let x := m.inq q
    let gen := f.tok.tok.gen
    let m0 : Mod := Mod.grantOut { m with grid := { m.grid with flights := pre ++ post } } f.asks f.vc f.inPort
    let m1 : Mod := match f.tree with
      | none => m0
      | some (t, ks) =>
        let k := ks.headD 0
        m0.setTree t { m.tree t with entered := setAt (m.tree t).entered k (nth 0 (m.tree t).entered k + 1) }
    let goes := fun (t : Mod) => Completes s (.tokenArrival prod q) t
    m.grid.flights = pre ++ f :: post → f.target = q → f.tok.prod = prod →
    (∀ g ∈ pre, ¬(g.target = q ∧ g.tok.prod = prod)) →
    let here := f.hop + 1 = f.hops.length ∧ m.dieClocks (hDie f.place.1) = true ∧ (f.hop = f.start ∨ ∀ g ∈ pre, g.place ≠ f.place)
    (¬ here → goes m) ∧
    (here → isGate q = true →
      let w := q - prodRem 0
      let o := tGet {} m.rem.out w
      goes { m0 with rem := { m.rem with out := tSet {} m.rem.out w { o with waiting := o.waiting ++ [f.tok.tok] } } }) ∧
    (here → isGate q = false →
    if (gen = hh.gen ∧ m.drained q = false) ∨ gen = hh.gen + 1 then
      if x.spill = [] ∧ x.router.length < 16 then
        goes (m1.setInq q { x with router := x.router ++ [{ f.tok with vis := !x.staged }] })
      else ∃ t, goes t ∧ t.grid.flights = pre ++ post ∧
        t.inq q = { x with spill := x.spill ++ [{ f.tok with vis := !x.staged }], spillNo := x.spillNo + 1 } ∧
        (let p := m.spillAddr q x.spillNo
         (t.hearth h).hs = mWrite (mWrite hh.hs p.1 (wsBytes f.tok.tok.words)) p.2 (wBytes f.tok.tok.hdr))
    else ∃ t, goes t ∧ t.grid.flights = pre ++ post ∧ t.inq q = { x with back := x.back + 1 } ∧
      (t.hearth h).urgent = true ∧ tGet 0 (t.hearth h).rep 27 = satAdd (2 ^ 48 - 1) (tGet 0 hh.rep 27) 1 ∧
      (hh.stale.length < 4 →
        (t.hearth h).stale = hh.stale ++ [{ queue := q, gen := gen, tag := f.tok.tok.tag }] ∧ t.cross = s.m.cross) ∧
      (4 ≤ hh.stale.length → (t.hearth h).stale = hh.stale ∧ t.cross.ovrHearth = true ∧
        t.cross.cntHearth = satAdd 65535 s.m.cross.cntHearth 1))

/-- R174, R175, R189, R236: the oldest spilled token moves into a free place of the router part; a credit that was on its way
reaches the producer; a tree credit returns once a token has entered every target; a marker of the hearth's generation at the
head of the router part leaves, its producer noted. -/
def Rule.QueueUpkeep : Prop :=
  (∀ (s : State) (q : Nat) (t : QTok) (rest : List QTok),
    let x := s.m.inq q
    let hh := s.m.hearth (qHearth q)
    let p := s.m.spillAddr q (x.spillNo - x.spill.length)
    x.spill = t :: rest →
    if x.router.length < 16 then
      ∃ u, Completes s (.spillRefill q) u ∧ u.inq q = { x with
          router := x.router ++ [{ t with tok := Token.ofHdr (mWord hh.hs p.2) (mWords hh.hs p.1 t.tok.words.length) }],
          spill := rest } ∧ (u.hearth (qHearth q)).hs = hh.hs
    else Completes s (.spillRefill q) s.m) ∧
  (∀ (s : State) (q : Nat),
    let x := s.m.inq q
    Completes s (.creditReturn q)
      (if 0 < x.back then s.m.setInq q { x with back := x.back - 1, credit := x.credit + 1 } else s.m)) ∧
  (∀ (s : State) (k : Nat),
    let tr := s.m.tree k
    Completes s (.treeCreditReturn k)
      (if tr.entered ≠ [] ∧ (∀ n ∈ tr.entered, tr.ret < n) then
        s.m.setTree k { tr with ret := tr.ret + 1, credit := tr.credit + 1 } else s.m)) ∧
  (∀ (s : State) (q : Nat) (t : QTok) (rest : List QTok),
    let x := s.m.inq q
    x.router = t :: rest →
    Completes s (.markerRemove q)
      (if t.tok.tag = 0x3F ∧ t.tok.eot = true ∧ t.tok.words = [] ∧ t.tok.gen = (s.m.hearth (qHearth q)).gen then
        s.m.setInq q { x with router := rest, back := x.back + 1, markers := x.markers ++ [t.prod] } else s.m))

/-- R188, R236: a split router forwards the tokens that it owes on one branch in entry order, as many as the target has credit for, and
keeps the others in their order; a token of another generation waits until the target is drained. On a branch that divides again
further on, a token goes towards that router when the link has room for it, else it waits. -/
def Rule.ReplicationForward : Prop :=
  ∀ (s : State) (k i b j : Nat) (toks : List Token),
    let tr := s.m.tree k
    let n := nth {} tr.nodes i
    let q := (nth (0, false) tr.targets j).1
    let go := min (s.m.inq q).credit toks.length
    let owes := fun (l : List Token) => l.map fun t => (t, [(b, [j])])
    let leaves := fun (t : Token) => tr.flight k t n.router [j]
    let kept := fun (u : Mod) => u.grid.flights = s.m.grid.flights ∧ (nth {} (u.tree k).nodes i).entries = n.entries
    i < tr.nodes.length → n.entries = owes toks →
    ∃ u, Completes s (.replicationForward k i) u ∧
      ((∀ t ∈ toks, tr.splitsAhead (leaves t) = false) →
        ((∃ t ts, toks = t :: ts ∧ s.m.opens q t.gen = false) → kept u) ∧
        ((∀ t ∈ toks, s.m.opens q t.gen = true) →
          u.grid.flights = s.m.grid.flights ++ (toks.take go).map leaves ∧
          (nth {} (u.tree k).nodes i).entries = owes (toks.drop go) ∧ (u.inq q).credit = (s.m.inq q).credit - go)) ∧
      (∀ t, toks = [t] → tr.splitsAhead (leaves t) = true →
        if (leaves t).roomIn s.m.grid.flights then
          u.grid.flights = s.m.grid.flights ++ [leaves t] ∧ (nth {} (u.tree k).nodes i).entries = [] ∧ u.grid.inqs = s.m.grid.inqs
        else kept u)

/-- R35 to R38, R44, R71: an engine serves the oldest request of a core on a hearth store: a gather's token, of the window as tag
and the element index as SEQ, enters its queue against a credit; a scatter writes its bytes; an atomic add adds words modulo 2^32
or in FP32; a compare and swap answers the old value and stores only on a match. Each leaves its slot. A request into no declared
region of the target is HS_ADDR on the issuing core. -/
def Rule.EngineServesHearthStore : Prop :=
  ∀ (s : State) (h : BitVec 13) (eng : Fin 4) (core : BitVec 7) (pre post : List Req) (r : Req),
    let hh := s.m.hearth h.toNat
    let tgt := s.m.hearth r.th
    let cmd := Instr.engineResponse h eng core
    let after := fun (t : Mod) => (t.hearth h.toNat).reqs = pre ++ post
    let wrote := fun (t : Mod) (b : List Byte) => (t.hearth r.th).hs = mWrite tgt.hs r.addr b
    hh.reqs = pre ++ r :: post → r.eng = eng.val → r.core = core.toNat → (∀ p ∈ pre, ¬(p.eng = eng.val ∧ p.core = core.toNat)) →
    eng.val ≤ 1 → s.m.coresRun = true → hh.stopped = false → s.m.dieRuns (hDie h.toNat) = true →
    s.m.dieRuns (hDie r.th) = true → tgt.stopped = false →
    (tgt.inRegion r.addr r.size = false → ∃ t, Completes s cmd t ∧ after t ∧ t.flt.count = s.m.flt.count + 1 ∧
      (t.ctl (cid h.toNat r.core)).faulted = true) ∧
    (tgt.inRegion r.addr r.size = true →
      (∀ d tag, r.op = .gather d tag → qHearth d = h.toNat → 0 < (s.m.inq d).credit →
        (s.m.inq d).spill = [] → (s.m.inq d).router.length < 16 →
        ∃ (t : Mod) (k : Token), Completes s cmd t ∧ after t ∧ k.tag = tag ∧ k.seq = BitVec.ofNat 20 r.idx ∧
          k.gen = hh.gen ∧ k.mask = false ∧ k.eot = false ∧
          k.words = bytesWords ((r.size + 3) / 4) (mRead tgt.hs r.addr r.size) ∧
          (t.inq d).credit = (s.m.inq d).credit - 1 ∧
          (t.inq d).router = (s.m.inq d).router ++
            [{ tok := k, prod := prodEng h.toNat r.eng, vis := !(s.m.inq d).staged }]) ∧
      (∀ b, r.op = .scatter b → ∃ t, Completes s cmd t ∧ after t ∧ wrote t b) ∧
      (∀ fp b, r.op = .atomic fp b → r.size % 4 = 0 → ∃ t, Completes s cmd t ∧ after t ∧
        wrote t (wsBytes (List.zipWith (fun x y => if fp then f32add x y else x + y)
          (mWords tgt.hs r.addr (r.size / 4)) (bytesWords (r.size / 4) b)))) ∧
      (∀ rd old new, r.op = .cas rd old new → ∃ t, Completes s cmd t ∧ after t ∧
        (if mWord tgt.hs r.addr = old then wrote t (wBytes new) else (t.hearth r.th).hs = tgt.hs) ∧
        t.sc (cid h.toNat r.core) = (s.m.sc (cid h.toNat r.core)).put rd (mWord tgt.hs r.addr) ∧
        (t.ctl (cid h.toNat r.core)).wait = .none))


/-! ### Events, hearth faults, the dies -/

/-- R482: an event takes the next sequence number and the module's time, enters the log of at most 4,096 records, and changes
nothing but the log, the journal with its wear, the sessions of KOP and what leaves the interfaces. -/
def Rule.EventRecord : Prop :=
  ∀ (m : Mod) (code d0 d1 : Nat),
    let t := m.event code d0 d1
    let e : EvRec := { seq := m.log.next, time := m.time, code := code, d0 := d0 % 2 ^ 32, d1 := d1 % 2 ^ 64 }
    t.log.next = m.log.next + 1 ∧ (m.log.ring.length ≤ 4096 → t.log.ring.length ≤ 4096) ∧
    t.log.ring.getLast? = some e ∧ (m.log.ring.length < 4096 → t.log.ring = m.log.ring ++ [e]) ∧
    t = { m with log := t.log, pow := { m.pow with journal := t.pow.journal, wear := t.pow.wear }, kop := t.kop,
                 eth := { m.eth with wire := t.eth.wire, link := t.eth.link, held := t.eth.held, asked := t.eth.asked } } ∧
    t.pow.journal = m.pow.journal ++ (if evJournal code then [{ kind := 2, boot := m.pow.powerUps, time := m.time, body := e.bytes }] else [])

/-- R31, R48: the scrub of a granule moves the hearth's pointer on, wraps after 2,048 granules and counts the pass, counts a
corrected word; an uncorrectable one is the hearth fault HS_UE. The scrub covers the unused spare column, which an uncorrectable
word marks unsound (the model's choice, log entry 83), and does nothing to a spare column in use. -/
def Rule.PatrolScrub : Prop :=
  ∀ (s : State) (h : BitVec 13) (found : Fin 3),
    s.m.pow.state ≠ .off → s.m.pow.state ≠ .kindling → s.m.dieClocks (hDie h.toNat) = true →
    let next := fun (x : Hearth) =>
      { x with scrub := x.scrub + 1, passes := if x.scrub = 2047#11 then min 255 (x.passes + 1) else x.passes,
               ce := if found = 1 then min 255 (x.ce + 1) else x.ce }
    let y := s.m.setHearth h.toNat (next (s.m.hearth h.toNat))
    let x := s.m.die (hDie h.toNat)
    let z := { x with spares := tSet {} x.spares (hRow h.toNat) (next (tGet {} x.spares (hRow h.toNat))) }
    (if found = 2 then exec (.patrolScrubGranule h false found) s = exec (.hearthFault [(h, 1)]) { s with m := y }
     else Completes s (.patrolScrubGranule h false found) y) ∧
    (x.f ≠ 64 → Completes s (.patrolScrubGranule h true found) s.m) ∧
    (x.f = 64 → found ≠ 2 ∨ x.sound = false → Completes s (.patrolScrubGranule h true found) (s.m.setDie (hDie h.toNat) z)) ∧
    (x.f = 64 → found = 2 → x.sound = true → Completes s (.patrolScrubGranule h true found)
      ((s.m.setDie (hDie h.toNat) { z with sound := false }).event 0x8204 (hDie h.toNat) 0))

/-- R31, R53, R58, R59, R273: one hearth fault on a die. The hearth stops with its cause; on a running die with the spare unused and
sound the column map takes the faulty physical column and the cord recovers, else the module is handled as lost; on a draining
die nothing more follows. A read that corrects a single-bit error is counted and nothing else (code 0, log entry 98). -/
def Rule.HearthFaultOutcome : Prop :=
  ∀ (s : State) (h : BitVec 13) (c : Fin 9),
    let d := hDie h.toNat
    let x := s.m.die d
    let y := s.m.hearth h.toNat
    let col := if hCol h.toNat < x.f then hCol h.toNat else hCol h.toNat + 1
    let stopped := (s.m.setHearth h.toNat { y with stopped := true, cause := c.val, urgent := true }).event
      0x8202 (h.toNat + 2 ^ 24 * c.val) col
    let r := stopped.remap d col [(h.toNat, c.val)]
    s.m.pow.state ≠ .off → s.m.dieClocks d = true →
    (c = 0 → Completes s (.hearthFault [(h, c)]) (s.m.setHearth h.toNat { y with ce := min 255 (y.ce + 1) })) ∧
    (c ≠ 0 → s.m.dieRuns d = false → Completes s (.hearthFault [(h, c)]) stopped) ∧
    (c ≠ 0 → s.m.dieRuns d = true → x.f = 64 ∧ x.sound = true →
      r.die d = { x with f := col, cause := tSet 0 [] (hRow h.toNat) c.val, spares := [], words := [] } ∧
      r.die (1 - d) = s.m.die (1 - d) ∧
      Completes s (.hearthFault [(h, c)])
        (r.hearthRecover fun k => decide ((r.die (hDie k)).f < (s.m.die (hDie k)).f ∧ (r.die (hDie k)).f ≤ hCol k))) ∧
    (c ≠ 0 → s.m.dieRuns d = true → x.f ≠ 64 ∨ x.sound = false → Completes s (.hearthFault [(h, c)]) (stopped.loseSelf 0x8202))

/-- R59: two faults on one running die in the same cycle are one fault in one physical column, the loss of the module in two. -/
def Rule.TwoHearthFaults : Prop :=
  ∀ (m : Mod) (d a b ca cb : Nat), hDie a = d → hDie b = d → m.dieRuns d = true →
    m.judgeDie d [(a, ca), (b, cb)] =
      (if m.physCol a = m.physCol b then (if (m.die d).f = 64 ∧ (m.die d).sound = true then .column (m.physCol a) else .loss) else .loss)

/-- R192 to R194, R196, R198: the stall fault freezes the counters, writes the dump of every queue of the region, keeps one record of
class 4, of a step's first 64, that names the microbatches of the region's stages, and changes nothing else; while the counters are frozen, and where the
conditions of R192 do not hold, there is none. -/
def Rule.StallFault : Prop :=
  ∀ (s : State) (h : BitVec 13) (levels : List (BitVec 13 × BitVec 17)),
    let near := levels.filter fun p => decide (p.1 ≠ h ∧ p.2.toNat ≤ 65536 ∧ s.m.stalls p.1.toNat = true)
    let had := if s.m.train.voted then s.m.flt.keptNext else s.m.flt.kept
    let region := (h.toNat :: (near.filter fun p => decide (32768 ≤ p.2.toNat)).map fun p => p.1.toNat).eraseDups
    (s.m.flt.frozen = true ∨ s.m.stalls h.toNat = false → Completes s (.stallFault h levels) s.m) ∧
    (s.m.coresRun = true → s.m.flt.frozen = false → s.m.stalls h.toNat = true →
      ∃ t, Completes s (.stallFault h levels) t ∧ (t.hearth h.toNat).stall = 65536#17 ∧ (t.hearth h.toNat).urgent = true ∧
        (∀ p ∈ near, (∀ q ∈ near, q.1 = p.1 → q.2 = p.2) → (t.hearth p.1.toNat).stall = p.2) ∧
        t.cord.dumps = s.m.cord.dumps ++ region.flatMap s.m.dumpHearth ∧
        (had < 64 → ∃ r, t.flt.recs = s.m.flt.recs ++ [r] ∧ r.cls = 4 ∧ r.code = 1 ∧ r.hlevel = true ∧
          r.hearth = h.toNat ∧ r.rerun = (s.m.flt.rerun && !s.m.train.voted) ∧ r.tick = s.m.tick.cnt.toNat % 2 ^ 32 ∧
          r.mbs = region.filterMap fun x => faultMb (s.m.imgOf x) x s.m.tick.k) ∧
        (64 ≤ had → t.flt.recs = s.m.flt.recs) ∧ t.flt.count = s.m.flt.count + 1 ∧ t.flt.frozen = true ∧
        t = { s.m with grid := { s.m.grid with hearths := t.grid.hearths }, cord := { s.m.cord with dumps := t.cord.dumps }, flt := t.flt })

/-- R196 to R199: with core faults recorded and no commit vote cast the collier reports each, counts the microbatches they void, takes
them as acted on, sends VOID where it is due, and returns the module to the last commit for a rerun, with the attempt number raised
where an attempt had begun; where a fault came in a rerun, a record of it being kept or not, the module enters Fault. After the vote
the faults wait; without one there is nothing to do. -/
def Rule.CoreFaultAnswer : Prop :=
  ∀ s : State,
    let f := s.m.flt
    let reported := s.m.faultEvents.addVoids s.m.faultMbs
    let taken := { reported with flt := { reported.flt with recs := [], hit := false, seen := f.made } }
    let back := taken.sendVoid.returnToCommit.nextAttempt s.m.train.running
    let v := ({ back with train := { back.train with rerun := true }, flt := { back.flt with rerun := true } } : Mod).checkVoids
    s.m.pow.state = .running →
    (s.m.train.voted = true ∨ (f.recs = [] ∧ f.hit = false) → Completes s .coreFault s.m) ∧
    (s.m.train.voted = false → f.hit = true →
      Completes s .coreFault (taken.enterFault 0x1121) ∧ (taken.enterFault 0x1121).pow.state = .fault) ∧
    (s.m.train.voted = false → f.recs ≠ [] → f.hit = false →
      Completes s .coreFault (if v.train.abort then v else v.restartVote))

/-- R197, R198, R368, R413: a voided step leaves no attempt running, counts as a rerun, and raises the attempt number by 1 modulo 16
where an attempt had begun; the records of its faults are gone but after the commit vote, when they are the next step's; the step and
the last committed one stay. -/
def Rule.VoidedStep : Prop :=
  ∀ (m : Mod) (tell : Bool),
    let t := m.voidCore tell
    t.train.running = false ∧ t.train.startAt = none ∧ t.train.rerun = true ∧ t.flt.rerun = true ∧
      t.flt.recs = (if m.train.voted then m.flt.recs else []) ∧ t.flt.kept = m.flt.kept ∧ t.flt.keptNext = m.flt.keptNext ∧
      t.flt.frozen = false ∧
      t.train.attempt = (if m.train.running ∨ m.train.voted then (m.train.attempt + 1) % 16 else m.train.attempt) ∧
      t.train.last = m.train.last ∧ t.train.step = m.train.step ∧ t.train.voted = false

/-- R237, R261, R268: the Hub takes what a ring stop holds: one event for each stale token, in their order, and the urgent
condition is gone; a stopped die's stop is not read. -/
def Rule.RingStop : Prop :=
  ∀ (s : State) (h : BitVec 13),
    let x := s.m.hearth h.toNat
    let m := x.stale.foldl (fun (m : Mod) e =>
      m.event 0x8106 (qHearth e.queue + 2 ^ 13 * qCore e.queue + 2 ^ 20 * (e.queue % 4)) (e.gen.toNat + 4 * e.tag.toNat)) s.m
    let t := m.setHearth h.toNat { x with urgent := false, stale := [] }
    x.urgent = true →
    ((s.m.die (hDie h.toNat)).run = .stopped → Completes s (.ringUrgent h) s.m) ∧
    ((s.m.die (hDie h.toNat)).run ≠ .stopped → x.stale.length ≠ 4 ∨ s.m.cross.ovrHearth = false → Completes s (.ringUrgent h) t) ∧
    ((s.m.die (hDie h.toNat)).run ≠ .stopped → x.stale.length = 4 → s.m.cross.ovrHearth = true →
      Completes s (.ringUrgent h) (t.event 0x8207 s.m.cross.word 0))

/-- R265, R266: an event enters a crossing's FIFO of 64, 16 or 2 places while one is free; else it is dropped, the overrun bit
is set, the drop is counted up to 65,535 and reported. -/
def Rule.CrossingFifos : Prop :=
  ∀ (s : State) (v : BitVec 32),
    let x := s.m.cross
    (x.power.length < 64 → Completes s (.crossingEvent 0 v false) { s.m with cross := { x with power := x.power ++ [v.toNat] } }) ∧
    (x.therm.length < 16 → Completes s (.crossingEvent 1 v false) { s.m with cross := { x with therm := x.therm ++ [v.toNat] } }) ∧
    (x.pps.length < 2 → Completes s (.crossingEvent 2 v false) { s.m with cross := { x with pps := x.pps ++ [v.toNat] } }) ∧
    (64 ≤ x.power.length → x.cntPower < 65535 →
      let y := { x with ovrPower := true, cntPower := x.cntPower + 1 }
      Completes s (.crossingEvent 0 v false) ({ s.m with cross := y }.event 0x8207 y.word 0)) ∧
    (16 ≤ x.therm.length → x.cntTherm < 65535 →
      let y := { x with ovrTherm := true, cntTherm := x.cntTherm + 1 }
      Completes s (.crossingEvent 1 v false) ({ s.m with cross := y }.event 0x8207 y.word 0)) ∧
    (2 ≤ x.pps.length → x.cntPps < 65535 →
      let y := { x with ovrPps := true, cntPps := x.cntPps + 1 }
      Completes s (.crossingEvent 2 v false) ({ s.m with cross := y }.event 0x8207 y.word 0)) ∧
    Completes s (.crossingEvent 0 v true) { s.m with cross := { x with power := [v.toNat] } } ∧
    Completes s (.crossingEvent 1 v true) { s.m with cross := { x with therm := [v.toNat] } } ∧
    Completes s (.crossingEvent 2 v true) { s.m with cross := { x with pps := [v.toNat] } }

/-- R269 to R273, R279, R299: a draining die stops once nothing under way concerns it and no retirement is in progress, and with it
the cord staged in its slot is gone, unless it starts again at once for a pending start; a drain that does not finish leaves it
running; a starting die runs at its stored setting. The settings in force are those asked for under the protections; under a
static cord on both dies, the slower of the two. -/
def Rule.DieStopsAndStarts : Prop :=
  (∀ (s : State) (d : Fin 2) (loc : BitVec 13),
    let x := s.m.die d.val
    let drop := (s.m.setSlot d.val {}).setDie d.val { x with pend := false, run := .stopped }
    let still := s.m.hbm.ret.isSome ∨ s.m.underWay d.val = true ∨ s.m.dmaUnder d.val = true
    (x.run = .draining → ¬still → x.pend = false → Completes s (.dieStopDone d) (drop.event 0x8205 d.val 2)) ∧
    (x.run = .draining → ¬still → x.pend = true →
      Completes s (.dieStopDone d) ((drop.event 0x8205 d.val 2).setRun d.val .starting)) ∧
    (x.run = .draining → still → Completes s (.dieStopDone d) s.m) ∧
    (x.run = .draining → Completes s (.dieDrainTimeout d loc)
      (((s.m.setDie d.val { x with pend := false, run := .running }).event 0x8205 d.val 0).event 0x8206 loc.toNat 0x906)) ∧
    (x.run = .starting → Completes s (.dieStartDone d)
      (((s.m.setDie d.val { x with base := x.want, req := none, run := .running }).event 0x8205 d.val 0).settleK))) ∧
  (∀ m : Mod,
    let lim := fun (x : DieSt) => min x.base (min (x.prot.getD 16) (x.powK.getD 16))
    (m.cord.inst = none ∨ cStatic m.img = false →
      m.settleK = { m with dieN := { m.dieN with k := lim m.dieN }, dieS := { m.dieS with k := lim m.dieS } }) ∧
    (m.cord.inst.isSome → cStatic m.img = true → cDies m.img = 0 → m.dieN.run = .running → m.dieS.run = .running →
      let k := min (lim m.dieN) (lim m.dieS)
      m.settleK = { m with dieN := { m.dieN with k := k }, dieS := { m.dieS with k := k } }))


/-! ### The tick -/

/-- R242, R245, R269, R376, R377: the boundary of a tick in which the attempt runs, no hearth is busy, and nothing waits for the
boundary but clock changes (local source, no pulse per second): TICK_CNT, the time and the schedule tick go on, the tick that ends is
the one to compare, a requested setting comes into force under the protections, every hearth's record is frozen, but for the idle
causes that the schedule settles and what the Hub writes. -/
def Rule.QuietBoundary : Prop :=
  ∀ (s : State) (hbm eth : Fin 101),
    let m := s.m
    let ask := fun (x : DieSt) => match x.req with
      | none => x
      | some k => { x with base := k, req := none }
    let n := ({ m with dieN := ask m.dieN, dieS := ask m.dieS } : Mod).settleK
    m.tick.gen = true → m.tick.src = 0 → m.tick.ppsEn = false → m.tick.began = true → m.tick.hold = false →
    m.pow.state = .running → m.train.running = true → m.train.stop = none → m.train.flipDue = none → m.train.departDue = false →
    m.train.andDue = false → (∀ h ∈ m.placed, m.busy h = false) → m.tick.k + 1 ≠ cStepTicks m.img →
    m.mbSlots (m.tick.k + 1) = [] → m.hbm.ret = none → m.exch.held = [] → m.clus.held = [] → m.clus.lossDue = [] →
    m.clus.pairFail = none → m.clus.hands = [] → m.train.startAt = none → m.train.exports = [] → m.hbm.settle = [] → m.rem.inb = [] → m.rem.out = [] → tWf {} m.grid.hearths = true → m.settleK = m →
    ∃ t, Completes s (.tickBoundary [] hbm eth) t ∧
      t.tick = { m.tick with cnt := m.tick.cnt + 1, now := m.tick.now + 1000 * m.tick.us, k := m.tick.k + 1 } ∧
      t.train.running = true ∧ t.train.prevK = m.train.tickK ∧ t.train.prevStep = m.train.tickStep ∧
      t.train.prevWaive = m.train.nowWaive ∧ t.train.tickK = (if m.train.voted then none else some (m.tick.k + 1)) ∧ t.dieN = n.dieN ∧ t.dieS = n.dieS ∧
      (∀ h w, w ≠ 10 → w < 16 ∨ 23 < w → tGet 0 (t.hearth h).repPrev w = tGet 0 (m.hearth h).rep w)

/-- R376: with the generator stopped, or the module off, no boundary comes. -/
def Rule.NoBoundary : Prop :=
  ∀ (s : State) (times : List (BitVec 13 × Fin 28 × BitVec 48)) (hbm eth : Fin 101),
    s.m.tick.gen = false ∨ s.m.pow.state = .off → Completes s (.tickBoundary times hbm eth) s.m

/-- R178, R227: with a boundary the tokens of the tick-staged queues of a running die are visible and its cores' source blocks
and static schedules start afresh; a stopped die's are not touched. -/
def Rule.BoundaryDelivered : Prop :=
  ∀ (m : Mod), (∀ p ∈ m.grid.inqs, ∃ q ∈ m.deliverTick.grid.inqs, q.1 = p.1 ∧
      (p.2.staged = true → m.dieRuns (hDie (qHearth p.1)) = true →
        q.2 = { p.2 with router := p.2.router.map (fun t => { t with vis := true }), spill := p.2.spill.map fun t => { t with vis := true } }) ∧
      (p.2.staged = false ∨ m.dieRuns (hDie (qHearth p.1)) = false → q.2 = p.2)) ∧
    (∀ p ∈ m.grid.ctls, ∃ q ∈ m.deliverTick.grid.ctls, q.1 = p.1 ∧
      q.2 = if m.dieRuns (hDie (p.1 / 128)) then { p.2 with srcDone := [], sched := 0 } else p.2) ∧
    m.deliverTick = { m with grid := { m.grid with inqs := m.deliverTick.grid.inqs, ctls := m.deliverTick.grid.ctls } }

/-- R264: a placed hearth contributes 1 to the commit AND exactly where no core fault of the step lies on it, it is not
stopped, it is not busy, and no request of it is outstanding. -/
def Rule.CommitLeaf : Prop :=
  ∀ (m : Mod) (h : Nat), m.commitLeaf h = true ↔
    (∀ r ∈ m.flt.recs, r.hearth ≠ h) ∧ (m.hearth h).stopped = false ∧ m.busy h = false ∧ (m.hearth h).reqs = []

/-- R245, R246: the comparison of the tick before, with the digests of the cord that ran in it. With none kept nothing happens; past the
step's ticks, or with no cord, none is due; compact mode compares bounds only; a waived tick counts; without a mismatch only the
digests are kept; each group that mismatches counts and is reported with expected and computed digest, and where DIGEST_ACT asks for it
the uncommitted step is voided, or a rerun enters Fault. -/
def Rule.DigestComparison : Prop :=
  ∀ (s : State),
    (s.m.train.prevK = none → Completes s .digestCompare s.m) ∧
    (∀ k, s.m.train.prevK = some k →
      let m := { s.m with train := { s.m.train with prevK := none } }
      let p := s.m.train.prevDig
      let ds := (List.range 128).map fun g => (g, (s.m.groupDigest g k).toNat)
      let b := ({ m with train := { m.train with digests := ds } }).checkBounds k
      let bad := ds.filter fun d => d.2 ≠ slice (nth 0 p.ents d.1) 63 0
      let waived := s.m.train.prevWaive = true ∨ s.m.idleWaive = true
      let uncommitted := s.m.train.prevStep = s.m.train.step ∧ (s.m.train.running = true ∨ s.m.train.voted = true)
      let stops := s.m.train.rerun = true ∨ (s.m.flt.hit = true ∧ s.m.train.voted = false)
      (s.m.cord.inst = none ∨ p.ents = [] → Completes s .digestCompare m) ∧
      (s.m.cord.inst ≠ none → p.ents ≠ [] →
        (p.compact = true → Completes s .digestCompare b) ∧
        (p.compact = false → waived →
          Completes s .digestCompare { b with train := { b.train with waives := b.train.waives + 1 } }) ∧
        (p.compact = false → ¬waived → bad = [] → Completes s .digestCompare b) ∧
        (p.compact = false → ¬waived → bad ≠ [] →
          ∃ t, Completes s .digestCompare t ∧
            (p.act ≠ 1 ∨ ¬uncommitted →
              t.train.mismatch = s.m.train.mismatch + bad.length ∧ t.log.next = b.log.next + bad.length ∧
              t.train.misWant = (bad.getLast?.map fun d => slice (nth 0 p.ents d.1) 63 0).getD 0 ∧
              t.train.misGot = (bad.getLast?.map Prod.snd).getD 0 ∧ t.train.running = s.m.train.running) ∧
            (p.act = 1 → uncommitted → (stops → t.pow.state = .fault) ∧
              (¬stops → t.train.running = false ∧ t.train.rerun = true)))))

/-- R244: the group digest starts from the group and the schedule tick, and folds words 0 to 14 of the 64 hearths in row-major
order, zeros for a hearth that the cord did not place in the tick; what one fold mixes. -/
def Rule.GroupDigest : Prop :=
  (∀ x : BitVec 64, let y := (x ^^^ (x >>> 31)) * 0xA4C15E9B3D27F06B#64
    mix x = y ^^^ (y >>> 29)) ∧
  ∀ (m : Mod) (g k : Nat),
    let words := (List.range 64).flatMap fun i =>
      let h := hPack (g / 64) (8 * (g % 64 / 8) + i / 8) (8 * (g % 8) + i % 8)
      (List.range 15).map fun w => (w, if h ∈ m.train.prevOn then tGet 0 (m.hearth h).repPrev w else 0)
    m.groupDigest g k =
      words.foldl (fun d p => mix (d ^^^ BitVec.ofNat 64 (p.2 % 2 ^ 48) ^^^ (BitVec.ofNat 64 p.1 <<< 56)))
        (mix (BitVec.ofNat 64 (g * 2 ^ 32 + k)))


/-! ### HBM -/

/-- R289, R291, R331: a move ends once it is in progress, no earlier overlapping move is left, the dies run and its completion queue
has a credit: its bytes are moved on the mapping of its start, its bytes are counted, its place goes to the next move, the completion
token leaves for its queue. Where the settle holds it, it waits and the wait is counted once. Else it goes on. -/
def Rule.MoveEnds : Prop :=
  ∀ (s : State) (i : Nat) (r : MoveRun),
    let m := s.m
    let e := nth 0 m.hbmmap i
    let before := m.hbm.moves.takeWhile (·.idx ≠ i)
    let clear := r.live = true ∧ (∀ b ∈ before, mvOverlap (nth 0 m.hbmmap b.idx) e = false) ∧
      m.dieClocks (hDie (mvHearth e)) = true ∧ m.dieClocks r.die = true ∧ 0 < (m.inq (mvQueue e)).credit
    let d := m.moveEffect r.side e
    m.hbm.moves.find? (·.idx = i) = some r →
    (clear → m.moveWaits r.side e = false → Completes s (.moveComplete i) (Mod.hubToken { d with hbm := { d.hbm with
      moves := m.goMoves (before ++ m.hbm.moves.drop (before.length + 1)),
      moved := tSet 0 m.hbm.moved (r.die * 8 + mvOp e) (tGet 0 m.hbm.moved (r.die * 8 + mvOp e) + mvRows e * mvRb e) } }
      (mvQueue e) (BitVec.ofNat 6 (mvTag e)))) ∧
    (clear → m.moveWaits r.side e = true → ∃ t, Completes s (.moveComplete i) t ∧
      t = { m with hbm := { m.hbm with moves := t.hbm.moves, settleWait := m.hbm.settleWait + if r.waited then 0 else 1 } } ∧
      t.hbm.moves.map (fun x => (x.idx, x.die, x.live)) = m.hbm.moves.map (fun x => (x.idx, x.die, x.live))) ∧
    (¬ clear → Completes s (.moveComplete i) m)

/-- R288, R327: what a move does: LOAD copies its rows to the rows of the hearth store, a transposing LOAD the columns of its elements;
of one row, STORE copies it to HBM, ADD adds each FP32 word into HBM. A write of the update is a write through the views of its side. -/
def Rule.MoveOperations : Prop :=
  (∀ (m : Mod) (side : Bool) (e : Nat), mvOp e ∈ [1, 2, 3] → mvHsRow e ≤ mvHsPitch e →
    let rows := (List.range (mvRows e)).map fun r => m.hbmReadAt side (mvHbm e + r * mvHbmPitch e) (mvRb e)
    ∀ i < mvHsRows e, (m.moveEffect side e).hsGet (mvHearth e) (mvHs e + i * mvHsPitch e) (mvHsRow e) =
      if mvOp e = 1 then nth [] rows i else column rows (mvW e) i) ∧
  (∀ (m : Mod) (side : Bool) (e : Nat), mvRows e = 1 →
    let row := m.hsGet (mvHearth e) (mvHs e) (mvRb e)
    let there := m.hbmReadAt side (mvHbm e) (mvRb e)
    (mvOp e = 1 → m.moveEffect side e = m.hsPut (mvHearth e) (mvHs e) there) ∧
    (mvOp e = 4 → m.moveEffect side e = m.hbmUpdate side (mvHbm e) row) ∧
    (mvOp e = 5 → m.moveEffect side e = m.hbmUpdate side (mvHbm e)
      (wsBytes (List.zipWith f32add (bytesWords (mvRb e / 4) there) (bytesWords (mvRb e / 4) row))))) ∧
  (∀ (m : Mod) (side : Bool) (a : Nat) (b : List Byte),
    (m.hbmUpdate side a b).hbm.mem = mWrite m.hbm.mem (m.viewAt side a) b)

/-- R288: a transposing move: element i of source row r becomes element r of hearth store row i. -/
def Rule.Transposition : Prop :=
  ∀ (rows : List (List Byte)) (w n r i : Nat), 0 < w → (∀ x ∈ rows, x.length = n * w) → i < n → ∀ x, rows[r]? = some x →
    ((column rows w i).drop (r * w)).take w = (x.drop (i * w)).take w ∧ (column rows w i).length = rows.length * w

/-- R268, R289: of each running die the oldest 16 moves are in progress, of another none begins, and every move of the list keeps its
place. -/
def Rule.MovePlaces : Prop :=
  ∀ (d : Nat) (l : List MoveRun),
    let t := goLive d 16 l
    goLive d 0 l = l ∧ t.map (fun r => (r.idx, r.die)) = l.map (fun r => (r.idx, r.die)) ∧
    (∀ (i : Nat) (x : MoveRun), l[i]? = some x → x.die = d → (((l.take i).filter fun r => r.die = d).length < 16 → (t[i]?.map (·.live)) = some true)) ∧
    (∀ (i : Nat) (x : MoveRun), l[i]? = some x → x.die ≠ d → t[i]? = some x)

/-- R285, R532: the slots of a tick are the least number of equal intervals of at most 3.9 us; each is served, on the dies that are
clocked, but in self-refresh none. -/
def Rule.RefreshSlots : Prop :=
  ∀ s : State,
    let h := s.m.hbm
    let on := fun (t : Tbl Nat) (d : Nat) => if s.m.dieClocks d then tSet 0 t d (tGet 0 t d + 1) else t
    (∀ k, s.m.refreshSlots ≤ k ↔ 10 * s.m.tick.us ≤ 39 * k) ∧
    (h.selfRef = true ∨ s.m.refreshSlots ≤ h.refresh → Completes s .refreshSlot s.m) ∧
    (h.selfRef = false → h.refresh < s.m.refreshSlots →
      Completes s .refreshSlot { s.m with hbm := { h with refresh := h.refresh + 1, served := on (on h.served 0) 1 } })

/-- R294, R295, R297: a scrubbed burst moves the channel's position on, past the last burst back to the first; a corrected one
counts and notes the shards that hold it; an uncorrectable one goes the way of every uncorrectable error. Nothing is scrubbed in
self-refresh or on a stopped die. -/
def Rule.HbmScrub : Prop :=
  ∀ (s : State) (c : Fin 384) (found : Fin 4),
    let n := tGet 0 s.m.hbm.scrub c.val
    let a := s.m.burstAddr c.val n
    let m := { s.m with hbm := { s.m.hbm with scrub := tSet 0 s.m.hbm.scrub c.val ((n + 1) % 31250000) } }
    let x := m.chan c.val
    let ats := (x.ceAt.filter fun t => decide (m.tick.now < t + 86400000000000)) ++ [m.tick.now]
    let ce := m.setChan c.val { x with ce := x.ce + 1, ceAt := ats }
    (s.m.hbm.selfRef = true ∨ s.m.dieClocks (c.val / 192) = false → Completes s (.hbmScrubBurst c found) s.m) ∧
    (s.m.hbm.selfRef = false → s.m.dieClocks (c.val / 192) = true → Completes s (.hbmScrubBurst c found)
      (if found = 0 then m
       else if found = 1 then (if 4096 ≤ ats.length then ce.retireChan c.val 1 else ce).noteErr a
       else m.ueAt a (decide (found = 3))))

/-- R294, R296, R297: an uncorrectable burst at an address of HBM is counted in its channel with its address and region, never
delivered again as data, and reported; in no region that is all. A recurrence, or the second on the channel within 24 h, retires the
channel's set. A corrected burst is counted and noted. -/
def Rule.UncorrectableBurst : Prop :=
  ∀ (s : State) (a : BitVec 40) (found : Fin 3),
    let c := s.m.hbmChan a.toNat
    let x := s.m.chan c
    let ats := (x.ueAt.filter fun t => decide (s.m.tick.now < t + 86400000000000)) ++ [s.m.tick.now]
    let y := s.m.setChan c { x with ue := x.ue + 1, ueAt := ats, last := some (a.toNat, s.m.regionKind a.toNat) }
    let b := { y with hbm := { y.hbm with bad := if y.hbm.bad.contains (a.toNat / 64) then y.hbm.bad else y.hbm.bad ++ [a.toNat / 64] } }
    let t := (b.event 0x8301 c a.toNat).ueRegion a.toNat
    (768000000000 ≤ a.toNat → Completes s (.hbmUe a found) s.m) ∧
    (a.toNat < 768000000000 → found = 0 → Completes s (.hbmUe a found) ((s.m.ceOn c).noteErr a.toNat)) ∧
    (a.toNat < 768000000000 → found ≠ 0 →
      Completes s (.hbmUe a found) (if found = 2 ∨ 2 ≤ ats.length then t.retireChan c 2 else t)) ∧
    (∀ n ≤ 64, b.hbmRaw (64 * (a.toNat / 64)) n = List.replicate n 0) ∧
    (hbmReserved a.toNat = false → b.regionKind a.toNat = 0 → t = b.event 0x8301 c a.toNat)

/-- R296, R324: what an uncorrectable error asks for, by the region that holds it: nothing on the uncommitted side; on the committed
side, in MOMENTS, EMBER and TABLE the restoring from the mirror and a rerun, or Fault where there is no mirror; a rerun for REDUCE,
OFFLOAD, SHAPE_IN and HOSTVIS, for WORKING after it is made afresh, for PEAT_STAGE with the turf staged again; a rerun for a settled
stage, and for one not settled the restoring of the granule while the settle goes on without it; the owner's resending for MIRROR. -/
def Rule.UncorrectableRegions : Prop :=
  ∀ (m : Mod) (a : Nat), hbmReserved a = false →
    let k := m.regionKind a
    let committed := (k = 1 ∧ m.hbm.side = false) ∨ (k = 2 ∧ m.hbm.side = true) ∨ k = 3 ∨ k = 4 ∨ k = 9
    let resend := fun (m : Mod) => { m with clus := { m.clus with digDue := true } }
    let slots := m.peat.slots.map fun p =>
      if p.2.turf.isSome && decide (p.2.addr ≤ a ∧ a < p.2.addr + 16384) then (p.1, { p.2 with landed := false, dirty := false, begun := false }) else p
    let h := m.hbm
    (((k = 1 ∧ m.hbm.side = true) ∨ (k = 2 ∧ m.hbm.side = false) ∨ k = 0) → m.ueRegion a = m) ∧
    (committed → m.paired = true → m.ueRegion a = (resend (m.noteErr a)).voidStep true) ∧
    (committed → m.paired = false → m.ueRegion a = m.enterFault 0x1123) ∧
    (k ∈ [7, 8, 11, 12] → m.ueRegion a = m.voidStep true) ∧
    (k = 5 → m.ueRegion a = ({ m with train := { m.train with regen := true } }).voidStep true) ∧
    (k = 10 → m.ueRegion a = ({ m.noteErr a with peat := { (m.noteErr a).peat with slots := slots } }).voidStep true) ∧
    (k = 13 → m.unsettledSrc a 64 = false → m.ueRegion a = m.voidStep true) ∧
    (k = 13 → m.unsettledSrc a 64 = true → m.paired = true → m.ueRegion a = { resend (m.noteErr a) with
      hbm := { h with settle := h.settle.flatMap (carve a), restore := h.restore ++ h.settle.flatMap (carved a) } }) ∧
    (k = 6 → m.unsettledSrc a 64 = false → m.ueRegion a = resend (m.noteErr a))

/-- R297 to R299: retirement of a channel's set: with a free set it starts, names the sets in HBM_RETIRE and waits where one is in
progress; without one it is HBM_NO_SPARE; a set already retired or being retired stays as it is. Its copy begins at the next boundary,
and ends. -/
def Rule.ChannelRetirement : Prop :=
  (∀ (m : Mod) (c why : Nat),
    let p := psetOf c
    let l := m.lsetOf p
    (p ∈ m.hbm.retired → m.retireChan c why = m) ∧
    (p ∉ m.hbm.retired → (∀ r, m.hbm.ret = some r → r.pset ≠ p) → (∀ r ∈ m.hbm.retQ, r.pset ≠ p) →
      (m.freeSet l = none → why ≠ 2 → m.retireChan c why = m.event 0x8303 c 0) ∧
      (m.freeSet l = none → why = 2 → m.retireChan c why = (m.event 0x8303 c 0).loseSelf 0x8303) ∧
      (∀ f, m.freeSet l = some f →
        let e : EvRec := { seq := m.log.next, time := m.time, code := 0x8302, d0 := l + 256 * f, d1 := p }
        let r : RetRun := { l := l, f := f, pset := p, chan := c, why := why, ev := e.bytes }
        (m.hbm.ret = none → m.retireChan c why = Mod.event { m with hbm := { m.hbm with ret := some r } } 0x8302 (l + 256 * f) p) ∧
        (m.hbm.ret ≠ none → m.retireChan c why = { m with hbm := { m.hbm with retQ := m.hbm.retQ ++ [r] } })))) ∧
  (∀ (m : Mod) (r : RetRun), m.hbm.ret = some r → r.copied = false →
    m.retireBoundary = { m with hbm := { m.hbm with ret := some { r with begun := true } } }) ∧
  (∀ s : State, (s.m.hbm.ret = none → Completes s .hbmRetireCopyDone s.m) ∧
    ∀ r, s.m.hbm.ret = some r →
      (r.begun = false → Completes s .hbmRetireCopyDone s.m) ∧
      (r.begun = true →
        Completes s .hbmRetireCopyDone { s.m with hbm := { s.m.hbm with ret := some { r with copied := true } } }))

/-- R298: a free set is another logical set without a region of the cord, not one of the reserved areas', not retired; on the same
die where such a one exists. -/
def Rule.FreeSetChoice : Prop :=
  ∀ (m : Mod) (l f : Nat), m.freeSet l = some f →
    f < 32 ∧ f ≠ l ∧ m.setUsed f = false ∧ f ≠ 15 ∧ f ≠ 31 ∧ nth 0 m.hbm.setMap f ∉ m.hbm.retired ∧
    (f / 16 ≠ l / 16 → ∀ j < 32, j ≠ l → m.setUsed j = false → j ≠ 15 → j ≠ 31 → nth 0 m.hbm.setMap j ∉ m.hbm.retired → j / 16 ≠ l / 16)

/-- R297, R298: the swap of a retirement leaves every byte of the cord's regions at its logical address, and none of the set's errors
in them. -/
def Rule.SwapKeepsRegions : Prop :=
  ∀ (m : Mod) (l f a : Nat), l ≠ f → m.covered a = true → (∀ b, m.covered b = true → b / 24000000000 ≠ f) →
    mGet (m.swapMem l f) a = mGet m.hbm.mem a ∧
    (∀ u, 64 * u = a → a / 24000000000 = l → u ∉ m.swapBad l f)

/-- R308, R327, R331, R416: engine 2 serves a request at HBM on the mapping that it met: a scatter stores its bytes and leaves its slot,
and a gather's token enters its queue; where the settle has not yet copied what they touch they wait, and the wait is counted once;
a gather waits for bytes being rewritten. -/
def Rule.EngineServesHbm : Prop :=
  ∀ (s : State) (h : BitVec 13) (core : BitVec 7) (r : Req),
    let m := s.m
    let hh := m.hearth h.toNat
    let cmd := Instr.engineResponse h 2 core
    let a := m.viewAt r.side r.addr
    let fresh := ∀ g ∈ m.clus.rewrite, overlap a r.size g.1 g.2 = false
    let waits := fun (t : Mod) => (t.hbm.settleWait = m.hbm.settleWait + if r.waited then 0 else 1) ∧ t.hbm.mem = m.hbm.mem
    hh.oldest 2 core.toNat = some r → r.eng = 2 → r.core = core.toNat → m.coresRun = true → hh.stopped = false →
    m.dieRuns (hDie h.toNat) = true → m.dieRuns (m.dieAt a) = true →
    (∀ b, r.op = .scatter b → m.unsettledSrc a r.size = false →
      Completes s cmd (((m.reach h.toNat r).hbmUpdate r.side r.addr b).dropReq h.toNat 2 core.toNat)) ∧
    (∀ b, r.op = .scatter b → m.unsettledSrc a r.size = true → ∃ t, Completes s cmd t ∧ waits t) ∧
    (∀ q tag, r.op = .gather q tag → 0 < (m.inq q).credit → fresh → m.unsettledDst a r.size = false →
      Completes s cmd ((m.reach h.toNat r).deliver h.toNat r (m.hbmReadAt r.side r.addr r.size))) ∧
    (∀ q tag, r.op = .gather q tag → 0 < (m.inq q).credit → fresh → m.unsettledDst a r.size = true →
      ∃ t, Completes s cmd t ∧ waits t) ∧
    (∀ q tag, r.op = .gather q tag → 0 < (m.inq q).credit → ¬fresh → ∃ t, Completes s cmd t ∧ t.hbm = m.hbm) ∧
    (∀ q tag, r.op = .gather q tag → (m.inq q).credit = 0 → Completes s cmd m)


/-! ### The peat tier -/

/-- R309 to R311, R314: a staged turf whose read has begun lands: its bytes stand in its slot, the slot is resident, turves that wait
take slots and reads begin; a turf that has landed already, has no slot or whose read has not begun changes nothing. Of the reads that
wait on a channel the one that begins is a demand fetch where there is one, and among those of its rank the one asked for first. -/
def Rule.TurfLands : Prop :=
  (∀ (s : State) (t : BitVec 31),
    (s.m.slotOf t.toNat = none → Completes s (.turfLanded t) s.m) ∧
    (∀ i, s.m.slotOf t.toNat = some i →
      let x := s.m.pslot i
      (x.landed = true ∨ x.begun = false ∨ s.m.peat.state = .off → Completes s (.turfLanded t) s.m) ∧
      (x.landed = false → x.begun = true → s.m.peat.state ≠ .off →
        let n := (s.m.hbmPut x.addr (s.m.turfBytes t.toNat)).setPslot i { x with landed := true, demand := false, begun := false }
        Completes s (.turfLanded t) n.pumpSlots.beginReads ∧ mRead n.hbm.mem x.addr 16384 = s.m.turfBytes t.toNat ∧
        (s.m.peat.waitQ = [] → n.pumpSlots = n)))) ∧
  (∀ (m : Mod) (c i : Nat), m.nextRead c = some i →
    ∃ p ∈ m.peat.slots, p.1 = i ∧ m.readOn c false p.2 = true ∧ ∀ q ∈ m.peat.slots, m.readOn c false q.2 = true →
      (q.2.demand = true → p.2.demand = true) ∧ (q.2.demand = p.2.demand → p.2.used ≤ q.2.used)) ∧
  (∀ m : Mod, tWf {} m.peat.slots = true →
    let n := m.beginReads
    n = { m with peat := { m.peat with slots := n.peat.slots } } ∧
      ∀ i, { n.pslot i with begun := false } = { m.pslot i with begun := false } ∧
        ((m.pslot i).begun = true → (n.pslot i).begun = true))

/-- R311, R314: staging takes a free slot of lowest number; with none free, the unpinned clean slot of oldest last use; a turf that
finds none waits, and the wait is counted once. A demand for a turf that waits or is in flight gives it a demand's rank, a list that
names it pins it. What waits already takes slots first. -/
def Rule.StagingSlots : Prop :=
  ∀ (m : Mod) (t : Nat) (demand : Bool) (l : List Nat),
    (∀ i, m.slotOf t = some i → m.stage t demand l = m.setPslot i { m.pslot i with
      listed := ((m.pslot i).listed ++ l).eraseDups, demand := (m.pslot i).demand || demand && !(m.pslot i).landed }) ∧
    (m.slotOf t = none →
      (tWf {} m.peat.slots = true → ∀ i, m.takeSlot = some i → (m.pslot i).turf ≠ none →
        (∀ j < m.nslots, (m.pslot j).turf ≠ none) ∧ m.pinnedSlot (m.pslot i) = false ∧
        (∀ j < m.nslots, m.pinnedSlot (m.pslot j) = false → (m.pslot i).used ≤ (m.pslot j).used)) ∧
      (∀ i, (List.range m.nslots).find? (fun i => (m.pslot i).turf.isNone) = some i → m.takeSlot = some i) ∧
      (∀ i, m.takeSlot = some i → m.peat.waitQ = [] → m.stage t demand l =
        ((m.setPslot i { turf := some t, listed := l, demand := demand, addr := m.slotAddr i }).useSlot i).beginReads) ∧
      (m.takeSlot = none → (∀ w ∈ m.peat.waitQ, m.slotOf w.1 = none) →
        let n := fun (q : List (Nat × Bool × List Nat)) => Mod.beginReads { m with peat := { m.peat with waitQ := q } }
        ((∃ w ∈ m.peat.waitQ, w.1 = t) → m.stage t demand l = n (m.peat.waitQ.map fun w =>
          if w.1 = t then (t, w.2.1 || demand, (w.2.2 ++ l).eraseDups) else w)) ∧
        ((∀ w ∈ m.peat.waitQ, w.1 ≠ t) → m.stage t demand l =
          { n (m.peat.waitQ ++ [(t, demand, l)]) with peat :=
            { (n (m.peat.waitQ ++ [(t, demand, l)])).peat with noslot := m.peat.noslot + 1 } })))

/-- R303 to R305: a turf is written to a fresh place that is not its stripe's parity place, with the stripe's parity, and the map then
names it: it reads back, the write count has risen, and every turf that the map joins to a place that holds something reads as
before. -/
def Rule.FlashPlaces : Prop :=
  ∀ (m : Mod) (t die : Nat) (b : List Byte), die < 64 → b.length = 16384 →
    let d := m.pickDie die
    (∃ s < 16 * (m.peat.locs.length + 1), s % 16 ≠ d / 4 ∧ (m.parityDie s).isSome ∧ ∀ c < 16, m.flashLoc (16 * s + c) = none) →
    let n := m.placeTurf t die b
    n.turfBytes t = b ∧ n.peat.wcnt = m.peat.wcnt + 1 ∧ n.peat.gov = m.peat.gov ∧
    (∃ l, n.turfLoc t = some l ∧ (∀ c < 16, m.flashLoc (16 * (l / 16) + c) = none) ∧ l % 16 = d / 4 ∧ l % 16 ≠ l / 16 % 16 ∧
      (n.flashLoc l).map (fun x => (x.die, x.turf, x.wcnt)) = some (d, some t, n.peat.wcnt) ∧
      mRead n.peat.flash (16384 * (16 * (l / 16) + l / 16 % 16)) 16384 = b) ∧
    ((∀ u l, m.turfLoc u = some l → (m.flashLoc l).isSome) → ∀ u, u ≠ t → n.turfBytes u = m.turfBytes u)

/-- R317, R319, R320: a write-back ends while the bucket holds a turf, or, draining or shutting down, while it is no further than its
capacity below empty: what the slot holds is written to flash, the budget falls by 16,384 B, the slot is clean. With the bucket empty it does not end, and PEAT_GOVERNED is raised once. -/
def Rule.TurfWrittenBack : Prop :=
  ∀ (s : State) (t : BitVec 31) (die : Fin 64) (i : Nat), s.m.slotOf t.toNat = some i →
    let x := s.m.pslot i
    let p := s.m.peat
    let w := s.m.writeTurf t.toNat die.val (s.m.hbmRaw x.addr 16384)
    let low := decide (-5600000000000 + 16384 ≤ p.gov)
    let may := 16384 ≤ p.gov ∨ ((s.m.pow.state = .draining ∨ p.state = .shutting) ∧ low = true)
    w.peat.gov = p.gov - 16384 ∧
    (x.dirty = false → Completes s (.turfWritebackDone t die) s.m) ∧
    (x.dirty = true → p.state ≠ .off → may → Completes s (.turfWritebackDone t die)
      (w.setPslot i { x with dirty := false, wb := false }).pumpSlots.beginReads) ∧
    (x.dirty = true → p.state ≠ .off → ¬ may → p.governed = true → Completes s (.turfWritebackDone t die) s.m) ∧
    (x.dirty = true → p.state ≠ .off → ¬ may → p.governed = false → Completes s (.turfWritebackDone t die)
      (Mod.event { s.m with peat := { p with governed := true } } 0x8311 0 0))

/-- R319: the budget accrues 64,814,815 B for each second of powered time, with what a tick leaves of a byte kept, up to 5.6 TB. -/
def Rule.GovernorAccrues : Prop :=
  ∀ (m : Mod) (us : Nat),
    let n := 64814815 * us + m.peat.govFrac
    (m.accrue us).peat.gov = min 5600000000000 (m.peat.gov + (n / 1000000 : Nat)) ∧
    (m.peat.gov + (n / 1000000 : Nat) < 5600000000000 → (m.accrue us).peat.govFrac = n % 1000000) ∧
    m.accrue us = { m with peat := { m.peat with gov := (m.accrue us).peat.gov, govFrac := (m.accrue us).peat.govFrac,
                                                 governed := (m.accrue us).peat.governed } }

/-- R321, R322: a failed turf read counts on its die. Rebuilt it is served and written afresh on a sound die, and the third within 24 h retires the die; not rebuilt,
it reads zeros and the die is retired; of a mirror segment the owner resends it, of a trained one the step is voided and the mirror
restores it, or the module enters Fault; of a TRAINED = 0 segment the step is voided, the cord stops and PEAT_LOST names the turf. -/
def Rule.TurfReadFails : Prop :=
  ∀ (s : State) (t : BitVec 31) (d : Fin 64),
    let x := s.m.fdie d.val
    let ats := (x.reads.filter fun u => decide (s.m.tick.now < u + 86400000000000)) ++ [s.m.tick.now]
    let m := (s.m.setFdie d.val { x with reads := ats, fails := x.fails + 1 }).notePeat t.toNat
    let v := m.moveTurf t.toNat (m.nextDie d.val)
    let l := { m with peat := { m.peat with lost := (m.peat.lost ++ [t.toNat]).eraseDups } }
    (ats.length < 3 → Completes s (.turfReadFail t d true) v) ∧
    (3 ≤ ats.length → Completes s (.turfReadFail t d true) (v.retireFlash d.val false)) ∧
    (l.segOf t.toNat = none → Completes s (.turfReadFail t d false) (l.retireFlash d.val true)) ∧
    (∀ e, l.segOf t.toNat = some e → bitAt e 17 = false → bitAt e 16 = false → Completes s (.turfReadFail t d false)
      ((((l.event 0x8313 (slice e 11 4) t.toNat).voidStep true).stopAtEnd 0x8313 false).retireFlash d.val true)) ∧
    (∀ e, l.segOf t.toNat = some e → bitAt e 17 = true → Completes s (.turfReadFail t d false)
      (Mod.retireFlash { l with clus := { l.clus with digDue := true } } d.val true)) ∧
    (∀ e, l.segOf t.toNat = some e → bitAt e 17 = false → bitAt e 16 = true → Completes s (.turfReadFail t d false)
      (Mod.retireFlash (if l.paired then Mod.voidStep { l with clus := { l.clus with digDue := true } } true else l.enterFault 0x1124)
        d.val true)) ∧
    (l.turfBytes t.toNat = List.replicate 16384 0)

/-- R322: retirement of a flash die: PEAT_DIE_RETIRE names it and its rebuild starts, or it waits for the one in progress; where the
declared turves would no longer fit it is PEAT_NO_SPARE. The 64th program or erase failure retires the die. When the rebuild ends
the die is retired, the journal holds the event with the capacity left, and the next one begins. -/
def Rule.FlashDieRetirement : Prop :=
  (∀ (m : Mod) (d : Nat),
    let k := m.retiredDies + m.peat.rebuild.toList.length + m.peat.rebuildQ.length + 1
    let room := m.declTurves ≤ min 28000000000000 (29875000000000 - 468750000000 * k) / 16384
    let e : EvRec := { seq := m.log.next, time := m.time, code := 0x8314, d0 := d, d1 := 0 }
    m.startRebuild d =
      (Mod.setFdie { m with peat := { m.peat with rebuild := some d } } d { m.fdie d with ev := e.bytes }).event 0x8314 d 0 ∧
    ((m.fdie d).retired = false → m.peat.rebuild ≠ some d → d ∉ m.peat.rebuildQ →
      (room → m.peat.rebuild = none → m.retireFlash d false = m.startRebuild d) ∧
      (room → m.peat.rebuild ≠ none → m.retireFlash d false = { m with peat := { m.peat with rebuildQ := m.peat.rebuildQ ++ [d] } }) ∧
      (¬ room → m.retireFlash d false = m.event 0x8315 d 0) ∧
      (¬ room → m.retireFlash d true = (m.event 0x8315 d 0).loseSelf 0x8315))) ∧
  (∀ (s : State) (d : Fin 64),
    let x := s.m.fdie d.val
    let m := s.m.setFdie d.val { x with progs := x.progs + 1, fails := x.fails + 1 }
    Completes s (.flashProgramFail d) (if 64 ≤ x.progs + 1 then m.retireFlash d.val false else m)) ∧
  (∀ s : State, (s.m.peat.rebuild = none → Completes s .flashRebuildDone s.m) ∧
    ∀ d, s.m.peat.rebuild = some d →
      let m := (s.m.rebuildDie d).setFdie d { s.m.fdie d with retired := true, ev := [] }
      let left := min 28000000000000 (29875000000000 - 468750000000 * m.retiredDies) / 16384
      let j := m.journal 2 ((s.m.fdie d).ev ++ leBytes 8 left)
      (s.m.peat.rebuildQ = [] → Completes s .flashRebuildDone { j with peat := { j.peat with rebuild := none } }) ∧
      (∀ n l, s.m.peat.rebuildQ = n :: l →
        Completes s .flashRebuildDone (Mod.startRebuild { j with peat := { j.peat with rebuildQ := l } } n)))

/-- R314, R316: at the flip the pending image of a turf becomes its committed image, dirty, under the lists that named the turf, and no
pending image is left. -/
def Rule.TurvesCommit : Prop :=
  ∀ (m : Mod), tWf {} m.peat.slots = true →
    let lists := fun (x : PeatSlot) => (m.peat.slots.filter fun p => !p.2.pending && p.2.turf = x.turf).flatMap fun p => p.2.listed
    (∀ p ∈ m.commitTurves.peat.slots, p.2.pending = false) ∧
    (∀ p ∈ m.peat.slots, p.2.pending = true →
      (p.1, { p.2 with pending := false, dirty := true, listed := lists p.2 }) ∈ m.commitTurves.peat.slots) ∧
    (∀ p ∈ m.peat.slots, p.2.pending = false → ∀ t, p.2.turf = some t → (∃ q ∈ m.peat.slots, q.2.pending = true ∧ q.2.turf = some t) →
      p ∉ m.commitTurves.peat.slots) ∧
    m.commitTurves = { m with peat := { m.peat with slots := m.commitTurves.peat.slots } }

/-- R323: with no dirty turf, no write-back and no rebuild left the tier is off, or on again where that request was held. -/
def Rule.PeatShutDown : Prop :=
  ∀ s : State,
    let p := s.m.peat
    let done := p.state = .shutting ∧ p.rebuild = none ∧ ∀ q ∈ p.slots, q.2.dirty = false ∧ q.2.wb = false
    (done → Completes s .peatOffDone { s.m with peat := { p with state := if p.pendOn then .on else .off, pendOn := false } }) ∧
    (¬ done → Completes s .peatOffDone s.m)


/-! ### Commit, flip, the update -/

/-- R24, R328, R410, R412: the commit vote is cast once the commit AND holds, the update has written the other side whole, no move is in
progress, no abort vote is held and the partner has acknowledged; the step's decisions are taken; while a child's vote is missing or a
loss is to be acted on it waits here, else it goes up with the children's; at the root, once it covers every rank under one partition, it
is the outcome, with the CKPT bit. -/
def Rule.CommitVote : Prop :=
  ∀ s : State,
    let d := s.m.decideAll
    let t := d.train
    let ok := t.running = true ∧ t.voted = false ∧ t.andOk = true ∧ s.m.updateDone = true ∧ s.m.hbm.moves = [] ∧ t.abort = false ∧
      (∀ v ∈ s.m.clus.votes, v.vkind ≠ 2) ∧ (s.m.mate = none ∨ s.m.clus.mack = true)
    let own : ClMsg := { kind := 2, vkind := 1, nfSkip := t.nfSkip, cover := 1, last := 0, sender := s.m.self, attempt := t.attempt,
                         part := s.m.clus.part, step := t.step, tick := s.m.tick.cnt.toNat + slice s.m.schedHdr 15 12 }
    let m := { s.m with train := { t with voted := true, running := false, owed := some t.step },
                        clus := { s.m.clus with own := some own, voteSent := false } }
    (¬ ok → Completes s .commitVoteCast s.m) ∧
    (ok → (∃ r ∈ s.m.children, ∀ v ∈ s.m.clus.votes, v.sender ≠ r) ∨ s.m.clus.lossDue ≠ [] → Completes s .commitVoteCast m) ∧
    (ok → (∀ r ∈ s.m.children, ∃ v ∈ s.m.clus.votes, v.sender = r) → s.m.clus.lossDue = [] → s.m.clus.outcome = none →
      ∀ p, s.m.parent? = some p →
      Completes s .commitVoteCast (Mod.sendCl { m with clus := { m.clus with voteSent := true } } p
        { aggregate own s.m.clus.votes with sender := s.m.self, kind := 2 })) ∧
    (ok → (∀ r ∈ s.m.children, ∃ v ∈ s.m.clus.votes, v.sender = r) → s.m.clus.lossDue = [] → s.m.clus.outcome = none →
      s.m.parent? = none →
      let a := { aggregate own s.m.clus.votes with sender := s.m.self, kind := 3, ckpt := false }
      let n := { m with clus := { m.clus with voteSent := true, outcome := some a } }
      if a.cover = s.m.ranks.length ∧ (∀ v ∈ s.m.clus.votes, v.part = s.m.clus.part) then
        Completes s .commitVoteCast (n.passOutcome { a with ckpt := decide (a.vkind = 1) && n.ckptWanted })
      else Completes s .commitVoteCast m)

/-- R328, R332: the update is done exactly where the writes of the attempt cover, of every owned shard, its W-view masters and in its
stage the moments, but for what rounds the last group up, and the ember values. -/
def Rule.UpdateCovers : Prop :=
  ∀ (m : Mod),
    (m.updateDone = true ↔ ∀ e ∈ m.owned,
      (∃ p ∈ m.hbm.wrote, p.1 ≤ shMaster e + m.sideDelta ∧ shMaster e + m.sideDelta + 4 * shCount e ≤ p.2) ∧
      (∃ p ∈ m.hbm.wrote, p.1 ≤ shStage e ∧
        shStage e + 4224 * (shCount e / 2048) + 2 * (shCount e % 2048) + 2 * (shCount e % 2048 / 32) ≤ p.2) ∧
      (∃ p ∈ m.hbm.wrote, p.1 ≤ shStage e + momBytes (shCount e) ∧
        shStage e + momBytes (shCount e) + m.embBytes (shCount e) ≤ p.2)) ∧
    (∀ (l : List (Nat × Nat)) (a b x : Nat), (∀ p ∈ l, p.1 < p.2) → a < b →
      ((∃ p ∈ addRun l a b, p.1 ≤ x ∧ x < p.2) ↔ (a ≤ x ∧ x < b) ∨ ∃ p ∈ l, p.1 ≤ x ∧ x < p.2))

/-- R412: the aggregate of own vote and children's votes: an abort where one of them is, COVER summed, NF_SKIP where one has it, the
latest start tick and the highest LAST. -/
def Rule.VoteAggregate : Prop :=
  ∀ (own : ClMsg) (vs : List ClMsg),
    let a := aggregate own vs
    (a.vkind = 2 ↔ own.vkind = 2 ∨ ∃ v ∈ vs, v.vkind = 2) ∧ (a.vkind ≠ 2 → a.vkind = own.vkind) ∧
    a.cover = own.cover + (vs.map (·.cover)).sum ∧ (a.nfSkip = true ↔ own.nfSkip = true ∨ ∃ v ∈ vs, v.nfSkip = true) ∧
    (∀ v ∈ own :: vs, v.tick ≤ a.tick ∧ v.last ≤ a.last) ∧ (∃ v ∈ own :: vs, v.tick = a.tick) ∧ (∃ v ∈ own :: vs, v.last = a.last) ∧
    a.step = own.step ∧ a.attempt = own.attempt ∧ a.part = own.part

/-- R25, R327, R343: the flip of a step whose outcome is a commit: the other side is the committed one, the step is the last
committed and the next one begins at attempt 0, nothing of the step's decisions and voids is left, the loss scale follows its rule.
With no flip due nothing happens. -/
def Rule.SideFlipEffect : Prop :=
  ∀ s : State,
    (s.m.train.flipDue = none → Completes s .sideFlip s.m) ∧
    (∀ n, s.m.train.flipDue = some n → s.m.exch.held = [] → s.m.clus.held = [] → s.m.clus.stateDue = [] → s.m.train.ckptDue = false →
      let nf := s.m.train.nfSkip
      let h := s.m.parHdr
      let ls := s.m.train.ls
      let g := slice h 223 192
      let up := g ≠ 0 ∧ s.m.train.clean + 1 = g
      ∃ t, Completes s .sideFlip t ∧ t.hbm.side = !s.m.hbm.side ∧ t.train.last = s.m.train.step ∧
        t.train.step = s.m.train.step + 1 ∧ t.train.haveState = true ∧ t.train.attempt = 0 ∧ t.train.running = false ∧
        t.train.voted = false ∧ t.train.owed = none ∧ t.train.flipDue = none ∧ t.train.voided = [] ∧ t.train.voidCnt = 0 ∧
        t.train.decided = [] ∧ t.train.rerun = false ∧ t.flt.rerun = false ∧ t.hbm.wrote = [] ∧ t.pow.flips = s.m.pow.flips + 1 ∧
        t.train.ls = (if nf then f32max (f32mul ls (wf h 95 64)) (wf h 159 128)
          else if up then f32min (f32mul ls (wf h 127 96)) (wf h 191 160) else ls) ∧
        t.train.clean = (if nf then 0 else if up then 0 else if g = 0 then s.m.train.clean else s.m.train.clean + 1))

/-- R326: the sides behind the two views: with side A committed addresses stand as they are; with side B committed SIDE_A addresses
reach SIDE_B and SIDE_B addresses SIDE_A; no other region but MIRROR moves. -/
def Rule.SideViews : Prop :=
  ∀ (m : Mod) (a : Nat),
    (m.hbm.side = false → m.view a = a) ∧
    (m.hbm.side = true → m.regionKind a = 1 → m.view a = a + m.sideDelta) ∧
    (m.hbm.side = true → m.regionKind a = 2 → m.view a = a - m.sideDelta) ∧
    (m.regionKind a ≠ 1 → m.regionKind a ≠ 2 → m.regionKind a ≠ 6 → m.view a = a)

/-- R338, R341, R366, R409, R415: a step parameter entry is written once every summary of its tensor's buckets is held, for a replay
entry once the partner's gradient has landed too, unless its tensor's VALID is held back; a written entry is VALID and is not written
again in the step. The decisions of tensors without an entry here are taken with it. With no attempt running none is. -/
def Rule.StepParameterEntries : Prop :=
  ∀ (s : State) (p : Nat × Nat × Nat × Nat),
    let m := s.m
    let own := shOwner p.2.2.2 = m.self
    let sums := if own then m.exch.sums else m.clus.msums
    let may := m.entryValid p = false ∧ p.2.2.1 ∉ m.clus.holdV ∧ m.sumsOf sums p.2.2.1 = true ∧ (own ∨ m.gradHere p.2.2.2 = true)
    let r := m.decided sums p.2.2.1
    (m.train.running = false → Completes s .stepParamWrite m) ∧
    (m.train.running = true → m.entryPlaces = [p] → ¬ may → Completes s .stepParamWrite m.decideAll) ∧
    (m.train.running = true → m.entryPlaces = [p] → may → p.2.2.1 < 65536 →
      ∃ t, Completes s .stepParamWrite t ∧ t.entryValid p = true ∧
        (t.hearth p.1).hs = mWrite (m.hearth p.1).hs p.2.1
          (leBytes 64 (entryLoader p.2.2.1 (m.tensorRec p.2.2.1) (m.keyOf p.2.2.2) + entryCollier m.train.step r.1 + 2 ^ 19)) ∧
        t = { r.2.decideAll with grid := t.grid })

/-- R341, R342: the shared decision for a tensor is taken once in an attempt; a skip, for a non-finite flag or a count of 0, is
counted. Every tensor whose summaries are held is decided, with an entry here or without. -/
def Rule.SharedDecision : Prop :=
  ∀ (m : Mod) (sums : List SumHeld) (t : Nat),
    (∀ d, m.train.decided.find? (·.1 = t) = some d → m.decided sums t = (d.2, m)) ∧
    (m.train.decided.find? (·.1 = t) = none →
      let r := m.decided sums t
      r.1 = m.judge sums t ∧ r.2.train.decided = m.train.decided ++ [(t, r.1)] ∧
      (r.2.tensor t).skips = (m.tensor t).skips + (if r.1.skip then 1 else 0) ∧
      r.2.train.nfSkip = (m.train.nfSkip || (r.1.skip && r.1.nonfin))) ∧
    (∀ flag sq cnt, let d := m.decideFrom t flag sq cnt
      (d.skip = true ↔ flag = true ∨ cnt = 0) ∧ d.nonfin = flag ∧
      d.bp1 = f32mul (m.tensor t).bp1 (wf (m.tensorRec t) 159 128) ∧
      d.nrm = f32mul (f32div f32one (f32mul m.train.ls (f32ofNat cnt))) (f32sqrt sq) ∧
      d.bc1 = f32div f32one (f32sub f32one d.bp1) ∧ d.bc2 = f32div f32one (f32sub f32one d.bp2)) ∧
    (∀ e ∈ m.params, slice e 3 0 = 3 → m.sumsOf m.exch.sums (slice e 31 16) = true →
      ∃ p ∈ m.decideAll.train.decided, p.1 = slice e 31 16)

/-- R350: the drift audit of a step that is a multiple of AUDIT_PERIOD, once in the step, after REGEN_TICK: AUDIT_BLOCKS blocks chosen by the
rule are compared with their committed masters' conversions, the counts rise, the first difference is reported. -/
def Rule.DriftAuditEffect : Prop :=
  ∀ s : State,
    let m := s.m
    let per := slice m.parHdr 335 320
    let total := (m.owned.map fun e => shCount e / 32).sum
    let due := per ≠ 0 ∧ m.train.audited ≠ some m.train.step ∧ m.train.running = true ∧ m.train.step % per = 0 ∧ slice m.parHdr 367 352 < m.tick.k ∧ total ≠ 0
    let bs := (List.range (slice m.parHdr 351 336)).filterMap fun i =>
      nthBlock m.owned ((m.train.step * 0x2C1B3C6D + i) % 2 ^ 32 % total)
    let bad := bs.filter fun p => !m.blockSame p.1 p.2
    let w : TrainSt := { m.train with audits := m.train.audits + bs.length, auditBad := m.train.auditBad + bad.length,
                                      audited := some m.train.step }
    let t := { m with train := w }
    (¬ due → Completes s .driftAudit m) ∧
    (due → bad = [] → Completes s .driftAudit t) ∧
    (due → ∀ p l, bad = p :: l → Completes s .driftAudit (t.event 0x8402 (shTensor p.1) p.2))


/-! ### The gradient exchange -/

/-- The module after it has accepted a sealed message of rank r with counter ctr (R512). -/
def accepted (m : Mod) (r ctr : Nat) (qp : Nat := 0) : Mod := m.setMsess r { m.msess r with rx := tSet 0 (m.msess r).rx qp ctr }

/-- A session with rank r is open, and ctr is beyond the last counter accepted on a queue pair: 0 that of exchange and cluster. -/
def mayAccept (m : Mod) (r ctr : Nat) (qp : Nat := 0) : Prop := (m.msess r).open' = true ∧ tGet 0 (m.msess r).rx qp < ctr

/-- R361, R362, R369, R404, R512, R513: an exchange message as it arrives while the cord runs and it can land, for the die of its
receive slot runs; a rank outside the own groups has no slot. One whose fields are in range goes on to its judgement under the
sender's rank; one with a field out of range or a reserved SUITE is MSG_RESERVED; a repeated counter is a replay, counted and reported;
one whose tag fails, or without an open session, is discarded and counted, a CONTRIB or a SUMMARY is asked for again, and the fourth
failure of one reports the sender and declares it lost. Every one of them frees its slot. One that cannot land changes nothing. -/
def Rule.ExchangeReceipt : Prop :=
  ∀ (s : State) (r : BitVec 12) (suite : BitVec 8) (ctr : BitVec 64) (p : List Byte) (b q : BitVec 16) (c : BitVec 32),
    let x := ExMsg.ofBytes p
    let y := { x with sender := r.toNat }
    let n := s.m.landEx r.toNat p.length
    let a := accepted n r.toNat ctr.toNat
    let cmds : Option (List Byte) → List Instr := fun o =>
      [.contribReceive r suite ctr o b q c, .summaryReceive r suite ctr o b, .resendReceive r suite ctr o b q c, .voidReceive r suite ctr o]
    let keys : List (Nat × Nat × Nat) :=
      [(b.toNat, q.toNat, c.toNat), (b.toNat, 0, 0xFFFFFFFF), (2 ^ 19 + b.toNat, q.toNat, c.toNat), (2 ^ 20, 0, 0)]
    let lands := s.m.cord.inst ≠ none ∧ s.m.coresRun = true ∧ s.m.mayLand r.toNat = true
    (s.m.mayLand r.toNat = true ↔
      r.toNat ∉ s.m.exPeers ∨ s.m.dieRuns (s.m.dieAt (s.m.rxArea + 69632 * s.m.rxSlot r.toNat)) = true) ∧
    (¬lands → ∀ o, ∀ cmd ∈ cmds o, Completes s cmd s.m) ∧
    (lands →
    (mayAccept s.m r.toNat ctr.toNat → suite = 1 → exReserved x = none →
      ∀ k < 4, x.kind = k + 1 → ∀ cmd, (cmds (some p))[k]? = some cmd → Completes s cmd (a.takeEx y)) ∧
    (mayAccept s.m r.toNat ctr.toNat → suite = 1 → ∀ bit, exReserved x = some bit →
      ∀ cmd ∈ cmds (some p), Completes s cmd ((a.msgReserved r.toNat x.kind 0 bit).freeSlot r.toNat)) ∧
    (mayAccept s.m r.toNat ctr.toNat → suite ≠ 1 →
      ∀ cmd ∈ cmds (some p), Completes s cmd ((a.msgReserved r.toNat 0 0 32).freeSlot r.toNat)) ∧
    ((s.m.msess r.toNat).open' = true → ctr.toNat ≤ tGet 0 (s.m.msess r.toNat).rx 0 →
      ∀ cmd ∈ cmds (some p), Completes s cmd
        (({ n with sec := { n.sec with replay := n.sec.replay + 1 } }.event 0x8B03 r.toNat ctr.toNat).freeSlot r.toNat)) ∧
    (∀ (o : Option (List Byte)) (i : Nat) (cmd : Instr) (key : Nat × Nat × Nat), o = none ∨ (s.m.msess r.toNat).open' = false →
      (cmds o)[i]? = some cmd → keys[i]? = some key →
      let l := s.m.landEx r.toNat ((o.map List.length).getD 0)
      let m : Mod := { l with exch := { l.exch with sealFail := l.exch.sealFail + 1, fails := l.exch.fails ++ [(r.toNat, key)] } }
      let again : ExMsg := { kind := 3, bucket := key.1, piece := key.2.1, chunk := key.2.2, sender := m.self,
                             attempt := m.train.attempt, step := m.train.step }
      Completes s cmd
        ((if 3 ≤ (s.m.exch.fails.filter (· = (r.toNat, key))).length then (m.event 0x8403 r.toNat m.train.step).declareLost r.toNat false
          else if i < 2 then m.queueEx r.toNat again else m).freeSlot r.toNat)))

/-- R368, R371: a message judged by STEP and ATTEMPT: older ones are counted stale and free their slot, those of a newer step are
held, those of a newer attempt void the receiver's attempt and are held, and a VOID of the current one voids it, or waits until it has
begun. -/
def Rule.ExchangeJudgement : Prop :=
  ∀ (m : Mod) (x : ExMsg), x.attempt < 16 → m.train.attempt < 16 →
    let newer := (x.attempt + 16 - m.train.attempt) % 16
    let stale := ({ m with exch := { m.exch with stale := m.exch.stale + 1 } }).freeSlot x.sender
    let held := fun (m : Mod) => { m with exch := { m.exch with held := m.exch.held ++ [x] } }
    (x.step < m.train.step ∨ (x.step = m.train.step ∧ 8 < newer) → m.takeEx x = stale) ∧
    (m.train.step < x.step → m.takeEx x = held m) ∧
    (x.step = m.train.step → 1 ≤ newer → newer ≤ 8 → m.takeEx x = held m.voidByPeer) ∧
    (x.step = m.train.step → x.attempt = m.train.attempt → x.kind = 4 → m.train.running = true ∨ m.train.voted = true →
      m.takeEx x = (m.voidStep false).freeSlot x.sender) ∧
    (x.step = m.train.step → x.attempt = m.train.attempt → x.kind = 4 → m.train.running = false → m.train.voted = false →
      m.takeEx x = held m)

/-- R364, R368, R370: a CONTRIB of the current attempt: a chunk not yet received is added element by element into the owner's LOC,
its received bit is set and EXCH_RX_CNT rises; a repeated one only counts; before the bucket's exchange tick, or with the die of LOC
stopped, it is held; one that
does not fit the owner's own section is EXCH_MISMATCH and abandons the step. -/
def Rule.ContribAdded : Prop :=
  ∀ (m : Mod) (x : ExMsg),
    (m.piece? x.bucket x.piece = none →
      m.takeContrib x = ((m.event 0x8404 (x.bucket + 2 ^ 16 * x.sender) x.piece).freeSlot x.sender).abandon 0x8404) ∧
    ∀ e : Nat, m.piece? x.bucket x.piece = some e →
    let fits := pcOwner e = m.self ∧ x.tensor = pcTensor e ∧ x.first = pcFirst e + 16384 * x.chunk ∧
      x.len = min 65536 (4 * pcCount e - 65536 * x.chunk) ∧ x.body.length = x.len
    let key := (x.bucket, x.piece, x.sender, x.chunk)
    let old := bytesWords (x.body.length / 4) (m.locRead e (65536 * x.chunk) x.body.length)
    let put := m.locWrite e (65536 * x.chunk) (wsBytes (List.zipWith f32add old (bytesWords (x.body.length / 4) x.body)))
    (¬ fits → m.takeContrib x = ((m.event 0x8404 (x.bucket + 2 ^ 16 * x.sender) x.piece).freeSlot x.sender).abandon 0x8404) ∧
    (fits → x.bucket ∉ m.exch.open' ∨ m.locRuns e = false → m.takeContrib x = { m with exch := { m.exch with held := m.exch.held ++ [x] } }) ∧
    (fits → x.bucket ∈ m.exch.open' → m.locRuns e = true → key ∈ m.exch.got →
      m.takeContrib x = ({ m with exch := { m.exch with dup := m.exch.dup + 1 } }).freeSlot x.sender) ∧
    (fits → x.bucket ∈ m.exch.open' → m.locRuns e = true → key ∉ m.exch.got →
      let t := m.takeContrib x
      t.grid = put.grid ∧ t.hbm = put.hbm ∧ t.exch.rx = m.exch.rx + 1 ∧ t.exch.got = m.exch.got ++ [key] ∧
      (x.nonfin = true → (x.bucket, x.piece) ∈ t.exch.flags) ∧ (x.nonfin = false → t.exch.flags = m.exch.flags) ∧
      tGet 0 t.exch.freed x.sender = tGet 0 m.exch.freed x.sender + 1 ∧
      t = { m with grid := t.grid, hbm := t.hbm, exch := t.exch })

/-- R365, R366, R373, R408: once every other member's chunks of the owner's pieces are added, the owner makes the bucket's summary: one
partial record for each of its pieces in ascending order, held here, for each other member the messages of the next first slot, and for
a partner the mirror traffic. Until then, or twice, nothing is made. -/
def Rule.SummaryMade : Prop :=
  ∀ (s : State) (b : BitVec 16),
    let m := s.m
    (m.bucket? b.toNat = none → Completes s (.summaryMake b) m) ∧
    ∀ e : Nat, m.bucket? b.toNat = some e →
    let own := (m.pieces.filter fun p => pcBucket p = b.toNat && pcOwner p = m.self).foldr insPiece []
    let others := (m.members (bkGroup e)).filter (· ≠ m.self)
    let nf := (own.any fun p => (m.locWords p).any f32nonfin) || m.exch.flags.any (·.1 = b.toNat)
    let h : SumHeld := { bucket := b.toNat, owner := m.self, nonfin := nf, recs := own.map m.partOf }
    let n : Mod := { m with exch := { m.exch with
      made := m.exch.made ++ [b.toNat], sums := joinSum m.exch.sums b.toNat m.self nf h.recs,
      sumsOut := m.exch.sumsOut ++ others.flatMap fun r => (m.sumMsgs h).map fun x => (r, x) } }
    let due := m.train.running = true ∧ m.exch.open'.contains b.toNat = true ∧ m.exch.made.contains b.toNat = false ∧ own ≠ [] ∧
      m.allGot e = true ∧ (∀ p ∈ own, m.locRuns p = true) ∧ (others = [] → bkTick e < m.tick.k)
    (¬due → Completes s (.summaryMake b) m) ∧
    (due → m.mate = none → Completes s (.summaryMake b) n) ∧
    (due → ∀ r, m.mate = some r → Completes s (.summaryMake b) ((own.foldl (fun (a : Mod) p => a.sendGrad r p) n).forwardSums))

/-- R361, R508: a message takes a slot credit of its receiver, whose slots are shared equally among the peers, and is sealed and sent;
with none left, behind one that waits, or with no session open to it, it waits. -/
def Rule.ExchangeCredit : Prop :=
  ∀ (m : Mod) (r : Nat) (x : ExMsg),
    let u := tGet 0 m.exch.used r
    m.exShare = slice (m.buckets.headD 0) 59 44 / max 1 m.exPeers.length ∧
    ((∃ p ∈ m.exch.waiting, p.1 = r) ∨ m.exShare ≤ u ∨ (m.msess r).open' = false →
      m.sendEx r x = { m with exch := { m.exch with waiting := m.exch.waiting ++ [(r, x)] } }) ∧
    ((∀ p ∈ m.exch.waiting, p.1 ≠ r) → u < m.exShare → (m.msess r).open' = true →
      m.sendEx r x = ({ m with exch := { m.exch with used := tSet 0 m.exch.used r (u + 1),
                                                     tx := m.exch.tx + if x.kind = 1 then 1 else 0 } }).sendTo r 0 x.bytes)

/-- R360, R365, R381: a later exchange slot of the tick starts while NXS allows one more: after the shards of gathers that waited for a
session, summaries whose tick has come leave, and the chunks that are due in their order, each read from its piece; one whose LOC lies
on a stopped die or whose owner has no credit waits, and with it those of its bucket behind it. -/
def Rule.ExchangeSlot : Prop :=
  (∀ s : State, s.m.cord.inst ≠ none → s.m.pow.state = .running →
    let g := Mod.flushGathers { s.m with exch := { s.m.exch with slot := s.m.exch.slot + 1 } }
    (cNxs s.m.img ≤ s.m.exch.slot + 1 → Completes s .exchangeSlotStart s.m) ∧
    (s.m.exch.slot + 1 < cNxs s.m.img → s.m.exch.waiting = [] → (∀ p ∈ s.m.exch.sumsOut, s.m.sumReady p.2 = false) →
      Completes s .exchangeSlotStart (sendChunks s.m.exch.toSend [] { g with exch := { g.exch with toSend := [] } })) ∧
    (s.m.exch.slot + 1 < cNxs s.m.img → s.m.exch.waiting = [] → s.m.exch.toSend = [] → (∀ p ∈ s.m.exch.sumsOut, s.m.sumReady p.2 = true) →
      Completes s .exchangeSlotStart
        (s.m.exch.sumsOut.foldl (fun t p => t.sendEx p.1 p.2) { g with exch := { g.exch with sumsOut := [] } }))) ∧
  (∀ (m : Mod) (x : ExMsg) (e : Nat), m.bucket? x.bucket = some e → (m.sumReady x = true ↔ bkTick e < m.tick.k)) ∧
  (∀ (m : Mod) (q : Nat × Nat × Nat) (l : List (Nat × Nat × Nat)) (held : List Nat) (e : Nat), m.piece? q.1 q.2.1 = some e →
    (q.1 ∉ held → m.locRuns e = true → m.mayEx (pcOwner e) = true →
      sendChunks (q :: l) held m = sendChunks l held (m.sendEx (pcOwner e) (m.chunkMsg e q.2.2))) ∧
    (q.1 ∈ held ∨ m.locRuns e = false ∨ m.mayEx (pcOwner e) = false →
      sendChunks (q :: l) held m = sendChunks l (q.1 :: held) { m with exch := { m.exch with toSend := m.exch.toSend ++ [q] } }))


/-! ### PTP and the pulse per second -/

/-- R377, R378, R447: a PTP message counts with the collier started, on an up interface and in the module's domain. A follower keeps
the Announces heard and follows the best; a leader answers a Delay_Req with a Delay_Resp that holds its clock identity and its PTP
time. -/
def Rule.PtpMessages : Prop :=
  ∀ (s : State) (i : Fin 32) (domain : BitVec 8) (type : BitVec 4) (rank : BitVec 144) (ptp : Bool) (off : BitVec 64) (time : BitVec 63),
    let t := s.m.tick
    let cmd := Instr.ptpMessageReceive i domain type rank ptp off time
    let heard := s.m.pow.collier = true ∧ (s.m.iface i.val).up = true ∧ domain.toNat = t.domain
    let ann := tSet 0 t.ann i.val rank
    let rest := t.scale.filter (· ≠ i.val)
    (¬ heard → Completes s cmd s.m) ∧
    (heard → type = 0xB → t.src = 1 → Completes s cmd { s.m with tick := { t with
      ann := ann, iface := bestIface ann, scale := if ptp then rest ++ [i.val] else rest } }) ∧
    (heard → type = 0xB → t.src ≠ 1 → Completes s cmd s.m) ∧
    (heard → type = 0x1 → Completes s cmd (if t.src = 2 then
      s.m.put (.ptp i.val 9 t.domain (eui64 s.m.eth.mac.toNat) (t.epoch.getD 0 + t.now)) else s.m)) ∧
    (heard → type = 0x8 → t.src ≠ 1 ∨ t.iface ≠ i.val → Completes s cmd s.m) ∧
    (heard → type ≠ 0xB → type ≠ 0x8 → type ≠ 0x1 → Completes s cmd s.m)

/-- R378, R447: a synchronisation. 16 in a row within 40 ns lock the follower; holdover ends; with a cord installed the clock only
slews, by at most 100 ppm of the Sync interval, with none it takes the leader's time. A Delay_Req follows it to the leader. -/
def Rule.Synchronisation : Prop :=
  ∀ (s : State) (i : Fin 32) (domain : BitVec 8) (rank : BitVec 144) (ptp : Bool) (off : BitVec 64) (time : BitVec 63),
    let t := s.m.tick
    s.m.pow.collier = true → (s.m.iface i.val).up = true → domain.toNat = t.domain → t.src = 1 → t.iface = i.val →
    let most : Nat := 100000 / 2 ^ (0 - t.syncLog).toNat
    let n := if off.toInt.natAbs ≤ 40 then min 16 (t.inLock + 1) else 0
    ∃ u, Completes s (.ptpMessageReceive i domain 8 rank ptp off time) u ∧
      u.tick.offset = off.toInt ∧ u.tick.inLock = n ∧ u.tick.locked = decide (n = 16) ∧ u.tick.hold = false ∧
      u.eth.wire.getLast? = some (.ptp i.val 1 t.domain (eui64 s.m.eth.mac.toNat) (u.tick.epoch.getD 0 + t.now)) ∧
      u.tick.cnt = t.cnt ∧ u.tick.now = t.now ∧ u.tick.k = t.k ∧
      (s.m.cord.inst = none → u.tick.epoch = some (time.toNat - t.now)) ∧
      (s.m.cord.inst ≠ none → u.tick.epoch =
        some ((t.epoch.getD 0 : Int) + max (-(most : Int)) (min (most : Int) (-off.toInt))).toNat)

/-- R447: the best Announce is the one of the lowest rank; with none heard there is no interface. -/
def Rule.BestAnnounce : Prop :=
  bestIface [] = 255 ∧ ∀ (l : Tbl (BitVec 144)), (∀ p ∈ l, p.2 ≠ BitVec.allOnes 144) → l ≠ [] →
    ∃ p ∈ l, bestIface l = p.1 ∧ ∀ q ∈ l, p.2.toNat ≤ q.2.toNat

/-- R378, R397, R447: when an interface's Announces stop the follower turns to the next best, and with none left holds over; after 10 s of
holdover the module reports it, departs, at the end of the tick where that is an update tick, and stops its cord. A leader sends Sync, Follow_Up and Announce on every up interface. -/
def Rule.HoldoverAndLeader : Prop :=
  ∀ (s : State) (i : Fin 32),
    let t := s.m.tick
    let ann := tSet 0 t.ann i.val 0
    let lost := bestIface ann = 255
    let msg := fun (m : Mod) (i kind : Nat) => m.put (.ptp i kind t.domain (eui64 s.m.eth.mac.toNat) (t.epoch.getD 0 + t.now))
    let out := (s.m.eth.ifs.filter fun p => p.2.up).foldl (fun m p => msg (msg (msg m p.1 0) p.1 8) p.1 11) s.m
    let n := Mod.event { s.m with tick := { t with holdEnd := true } } 0x810C 0 t.cnt.toNat
    let late := s.m.train.tickK ≠ none ∧ ∃ x ∈ s.m.sched, slice x 3 0 = 4 ∧ slice x 19 4 = t.k
    let e := if late then { n with train := { n.train with departDue := true } } else n.depart
    (t.src ≠ 1 ∨ ann = t.ann → Completes s (.ptpAnnounceTimeout i) s.m) ∧
    (t.src = 1 → ann ≠ t.ann → Completes s (.ptpAnnounceTimeout i) { s.m with tick := { t with
      ann := ann, scale := t.scale.filter (· ≠ i.val), iface := bestIface ann, hold := decide lost || t.hold,
      locked := t.locked && !decide lost, inLock := if lost then 0 else t.inLock } }) ∧
    (t.hold = false ∨ t.holdEnd = true ∨ t.holdNs < 10000000000 → Completes s .holdoverEnd s.m) ∧
    (t.hold = true → t.holdEnd = false → 10000000000 ≤ t.holdNs →
      Completes s .holdoverEnd (if e.pow.state = .running then e.stopAtEnd 0x810C false else e)) ∧
    (t.src ≠ 2 ∨ s.m.pow.collier = false → Completes s .ptpSyncSend s.m) ∧
    (t.src = 2 → s.m.pow.collier = true → Completes s .ptpSyncSend out)

/-- R377, R543: an enabled PPS_IN edge is noted, and a leader puts its second on it; PPS_OUT is high in its pulse while the module is
locked or leads, low else; the pin is not driven before the module drives it. -/
def Rule.PulsePerSecond : Prop :=
  ∀ (s : State) (on : Bool),
    let t := s.m.tick
    (s.m.pow.collier = false ∨ t.ppsEn = false → Completes s .ppsInEdge s.m) ∧
    (s.m.pow.collier = true → t.ppsEn = true → t.src ≠ 2 → Completes s .ppsInEdge { s.m with tick := { t with ppsEdge := some t.now } }) ∧
    (s.m.pow.collier = true → t.ppsEn = true → t.src = 2 → ∃ e, Completes s .ppsInEdge
      { s.m with tick := { t with ppsEdge := some t.now, epoch := some e } } ∧ (e + t.now) % 1000000000 = 0 ∧
        (500000000 ≤ t.epoch.getD 0 → e ≤ t.epoch.getD 0 + 500000000 ∧ t.epoch.getD 0 ≤ e + 500000000)) ∧
    (s.m.pow.pps = .z → Completes s (.ppsOutPulse on) s.m) ∧
    (s.m.pow.pps ≠ .z → Completes s (.ppsOutPulse on) { s.m with pow := { s.m.pow with
      pps := if on = true ∧ (t.locked = true ∨ t.src = 2) then .high else .low } })


/-! ### Remote windows and gathers -/

/-- R361, R391, R392: a batch of an outbound window carries at most the 56 tokens that wait longest, while the cores run; freed credits,
of an inbound window or of exchange slots, go back, at most 4,096 of the slots in one batch. -/
def Rule.BatchesSent : Prop :=
  ∀ (s : State) (w : BitVec 16),
    let x := s.m.remOut w.toNat
    let y := s.m.remIn w.toNat
    let f := tGet 0 s.m.exch.freed w.toNat
    let n := min 4096 f
    (∀ e, s.m.win? w.toNat false = some e → s.m.coresRun = true → x.waiting ≠ [] →
      Completes s (.batchSend w) ((s.m.setRemOut w.toNat { x with waiting := x.waiting.drop 56 }).sendBatch e 0 (x.waiting.take 56))) ∧
    (x.waiting = [] ∨ s.m.win? w.toNat false = none ∨ s.m.coresRun = false → Completes s (.batchSend w) s.m) ∧
    (∀ e, s.m.win? w.toNat true = some e → y.freed ≠ 0 →
      Completes s (.creditBatchSend w false) ((s.m.setRemIn w.toNat { y with freed := 0 }).sendBatch e y.freed [])) ∧
    (y.freed = 0 ∨ s.m.win? w.toNat true = none → Completes s (.creditBatchSend w false) s.m) ∧
    (n = 0 → Completes s (.creditBatchSend w true) s.m) ∧
    (n ≠ 0 → Completes s (.creditBatchSend w true)
      (Mod.sendTo { s.m with exch := { s.m.exch with freed := tSet 0 s.m.exch.freed w.toNat (f - n) } } w.toNat 0
        (batchHdr 0 s.m.self s.m.train.attempt s.m.train.step s.m.tick.k 0 n)))

/-- R391, R404, R512: a batch that is opened is used under its window; NTOK above 56 or CREDIT above 4,096, or a reserved SUITE, is
MSG_RESERVED, and the slots of its token records are free again in its window, where there is one. -/
def Rule.BatchReceipt : Prop :=
  ∀ (s : State) (r : BitVec 12) (qp : BitVec 16) (suite : BitVec 8) (ctr : BitVec 64) (p : List Byte),
    let a := accepted s.m r.toNat ctr.toNat qp.toNat
    let cmd := Instr.batchReceive r qp suite ctr (some p)
    let w := qp.toNat - 1
    let y := a.remIn w
    let n := (p.length - 32) / 72
    let free := if qp ≠ 0 ∧ (a.win? w true).isSome = true then a.setRemIn w { y with freed := y.freed + n } else a
    s.m.cord.inst ≠ none → s.m.coresRun = true →
    (ctr = 0 → Completes s cmd s.m.pumpWins) ∧
    (mayAccept s.m r.toNat ctr.toNat qp.toNat → ctr ≠ 0 → suite ≠ 1 → Completes s cmd (free.msgReserved r.toNat 0 0 32)) ∧
    (mayAccept s.m r.toNat ctr.toNat qp.toNat → ctr ≠ 0 → suite = 1 → netGet p 117 112 ≤ 56 → netGet p 143 128 ≤ 4096 →
      Completes s cmd (a.useBatch r.toNat qp.toNat (Batch.ofBytes p)).pumpWins) ∧
    (mayAccept s.m r.toNat ctr.toNat qp.toNat → ctr ≠ 0 → suite = 1 → 56 < netGet p 117 112 →
      Completes s cmd (free.msgReserved r.toNat 0 0 112)) ∧
    (mayAccept s.m r.toNat ctr.toNat qp.toNat → ctr ≠ 0 → suite = 1 → netGet p 117 112 ≤ 56 → 4096 < netGet p 143 128 →
      Completes s cmd (free.msgReserved r.toNat 0 0 128))

/-- R390, R392, R393, R397: what an opened batch of a window does. One of a lost rank nothing. It is judged by STEP and ATTEMPT: an older
one is counted stale and the credits of its tokens go back, a newer one is held; one of the current step and attempt that runs, whose
window is unknown, or one of whose window's ends names another rank, or that came on another window's queue pair, is REMOTE_MISMATCH and
abandons the step. Returned credits are added; a batch of tokens lies in the window's ring until the own schedule tick is its TICK; a
break in SEQ is REMOTE_MISMATCH; tokens in sequence join those that wait for their queue. -/
def Rule.BatchUse : Prop :=
  ∀ (m : Mod) (r qp : Nat) (c : Batch),
    let b := { c with rank := r, qp := qp }
    let broken := (m.event 0x8405 b.window r).abandon 0x8405
    let x := m.remIn b.window
    let y := m.remOut b.window
    let staler : Mod := { m with rem := { m.rem with stale := m.rem.stale + 1 } }
    let ends := fun (o : Option Nat) => ∃ e, o = some e ∧ winPeer e = r ∧ b.sender = r ∧ qp = 1 + b.window
    let age := m.age b.step b.attempt
    let now := age = .now ∧ m.train.running = true
    (∀ inb, m.endsOk b inb = true ↔ ends (m.win? b.window inb)) ∧
    (r ∈ m.clus.lost → m.useBatch r qp c = m) ∧
    (r ∉ m.clus.lost → qp ≠ 0 → c.toks = [] → c.credit ≠ 0 → m.useBatch r qp c = m.judgeCredit b) ∧
    (now → ends (m.win? b.window false) → m.judgeCredit b = m.setRemOut b.window { y with credit := y.credit + b.credit }) ∧
    (now → ¬ ends (m.win? b.window false) → m.judgeCredit b = broken) ∧
    (age = .newStep → m.judgeCredit b = m.setRemOut b.window { y with held := y.held ++ [b] }) ∧
    (age = .old → m.judgeCredit b = staler) ∧
    (r ∉ m.clus.lost → qp ≠ 0 → c.toks ≠ [] ∨ c.credit = 0 → m.win? b.window true = none → m.useBatch r qp c = m.judgeBatch b) ∧
    (∀ e, r ∉ m.clus.lost → qp ≠ 0 → c.toks ≠ [] ∨ c.credit = 0 → m.win? b.window true = some e →
      m.useBatch r qp c = (if age = .old ∨ m.endsOk b true = false then m else m.ringBatch e b).judgeBatch b) ∧
    (age = .old → m.win? b.window true ≠ none →
      m.judgeBatch b = staler.setRemIn b.window { x with freed := x.freed + b.toks.length }) ∧
    (age = .old → m.win? b.window true = none → m.judgeBatch b = staler) ∧
    (age = .newStep → m.judgeBatch b = m.setRemIn b.window { x with held := x.held ++ [b] }) ∧
    (age = .newAttempt → m.judgeBatch b =
      m.voidByPeer.setRemIn b.window { m.voidByPeer.remIn b.window with held := (m.voidByPeer.remIn b.window).held ++ [b] }) ∧
    (now → m.judgeBatch b = m.takeBatch b) ∧
    (¬ ends (m.win? b.window true) → m.takeBatch b = broken) ∧
    (ends (m.win? b.window true) → m.tick.k < b.tick → m.takeBatch b = m.setRemIn b.window { x with held := x.held ++ [b] }) ∧
    (ends (m.win? b.window true) → b.tick ≤ m.tick.k → seqOk x.next b.toks = false → m.takeBatch b = broken) ∧
    (ends (m.win? b.window true) → b.tick ≤ m.tick.k → seqOk x.next b.toks = true →
      m.takeBatch b = (m.setRemIn b.window { x with next := seqNext x.next b.toks, inj := x.inj ++ b.toks }).inject b.window)

/-- R393: a batch's SEQ follows the window's where each token's is the one before plus 1 modulo 2^20. -/
def Rule.BatchSequence : Prop :=
  ∀ (n : BitVec 20) (l : List Token), seqOk (some n) l = true ↔ ∀ i t, l[i]? = some t → t.seq = n + BitVec.ofNat 20 i

/-- R175, R236, R271, R392: a token that waits at an inbound window takes a credit of its queue and sets out for it over the gateway of the
queue's die, in order; its slot of the window is free again; without a credit, while the queue is not open to its generation or while that
die does not run, it waits. -/
def Rule.BatchInjection : Prop :=
  ∀ (m : Mod) (w q : Nat) (t : Token) (rest : List Token),
    let x := m.remIn w
    let i := m.inq q
    let n := (m.setRemIn w { x with inj := rest, freed := x.freed + 1 }).setInq q { i with credit := i.credit - 1 }
    let gone : Mod := { n with grid := { n.grid with
      flights := n.grid.flights ++ [{ target := q, tok := { tok := t, prod := prodRem w } }] } }
    x.inj = t :: rest →
    (i.credit = 0 ∨ m.opens q t.gen = false ∨ m.dieRuns (hDie (qHearth q)) = false → injectAux w q 1 m = m) ∧
    (0 < i.credit → m.opens q t.gen = true → m.dieRuns (hDie (qHearth q)) = true → injectAux w q 1 m = gone)

/-- R387: shards of a gather land at DST plus their offset, before the module's own tick or after it, while that die runs; once the own
shards are written, every other member's that owns some have landed and the entry's queue has a credit, the completion token, TAG 0 and
header only, of the cord's generation, sets out for it, and the gather has ended. A rank's last shards count for the attempt that runs, and
while none runs for none. -/
def Rule.GatherLands : Prop :=
  ∀ (s : State) (r : BitVec 12) (ctr : BitVec 64) (ent : BitVec 16) (off : BitVec 40) (p : List Byte) (last : Bool),
    let i := ent.toNat
    let e := nth 0 s.m.sched i
    let dst := slice e 103 64 + off.toNat
    let a := accepted s.m r.toNat ctr.toNat
    let put := a.hbmPut dst p
    let x := (s.m.rem.gathers.find? (fun (q : GathRun) => q.ent = i)).getD { ent := i }
    let runs := s.m.train.running = true ∨ s.m.train.voted = true
    let g := if last = true ∧ runs then { x with from' := (x.from' ++ [r.toNat]).eraseDups } else x
    let rest := s.m.rem.gathers.filter (fun (q : GathRun) => q.ent ≠ i)
    let m := { put with rem := { put.rem with gathers := rest ++ [g] } }
    let need := ((m.members (slice e 47 36)).filter fun r => r ≠ m.self && m.ranks.contains r).filter fun r =>
      m.shards.any fun sh => isShard sh && shOwner sh = r && shTensor sh = slice e 35 20
    let queue := qid (cid (slice e 116 104) (slice e 123 117)) (slice e 125 124)
    let done := g.own = true ∧ (∀ r ∈ need, r ∈ g.from') ∧ 0 < (m.inq queue).credit
    let n : Mod := ({ m with rem := { m.rem with gathers := rest } }).setInq queue { m.inq queue with credit := (m.inq queue).credit - 1 }
    let ended : Mod := { n with grid := { n.grid with
      flights := n.grid.flights ++ [{ target := queue, tok := { tok := { tag := 0, gen := m.cord.gen }, prod := prodHub } }] } }
    s.m.cord.inst ≠ none → s.m.coresRun = true →
      (s.m.onDies dst p.length = false → Completes s (.gatherComplete r ctr ent off (some p) last) s.m) ∧
      (s.m.onDies dst p.length = true → ctr ≠ 0 → mayAccept s.m r.toNat ctr.toNat →
        (done → Completes s (.gatherComplete r ctr ent off (some p) last) ended) ∧
        (¬ done → Completes s (.gatherComplete r ctr ent off (some p) last) m))


/-! ### Pairs, votes, losses -/

/-- R402 to R404, R512, R513: a cluster message as it arrives while a cord is installed and the module is neither Off nor in Fault: one
whose fields are in range is judged under the sender's rank, and those held are judged again; a field out of range or a reserved SUITE
is MSG_RESERVED; a repeated counter is a replay; one whose tag fails, or without an open session, is counted and asked for again, and the
fourth failure of a kind reports the sender and declares it lost. Four bytes of rank 0 under a cord that asks for it are the job's seed
(log entry 56). -/
def Rule.ClusterReceipt : Prop :=
  ∀ (s : State) (r : BitVec 12) (suite : BitVec 8) (ctr : BitVec 64) (p : List Byte),
    let x := ClMsg.ofBytes p
    let a := accepted s.m r.toNat ctr.toNat
    let seed := p.length = 4 ∧ r = 0 ∧ cSrSeed s.m.img = true
    let cmds : Option (List Byte) → List (Nat × Instr) := fun o =>
      [(1, .heartbeatReceive r suite ctr o), (2, .voteReceive r suite ctr o), (3, .outcomeReceive r suite ctr o),
       (4, .lossReceive r suite ctr o), (5, .departReceive r suite ctr o), (6, .helloReceive r suite ctr o),
       (7, .mgradReceive r suite ctr o), (8, .msumReceive r suite ctr o), (9, .mackReceive r suite ctr o),
       (10, .digestReceive r suite ctr o), (11, .stateReceive r suite ctr o), (12, .ckdoneReceive r suite ctr o)]
    s.m.cord.inst ≠ none → s.m.pow.state ≠ .off → s.m.pow.state ≠ .fault →
    (mayAccept s.m r.toNat ctr.toNat → suite = 1 → ¬ seed → clReserved x = none →
      ∀ c ∈ cmds (some p), c.1 = x.kind → Completes s c.2 (a.judgeCl { x with sender := r.toNat }).rejudgeCl) ∧
    (mayAccept s.m r.toNat ctr.toNat → suite = 1 → ¬ seed → ∀ bit, clReserved x = some bit →
      ∀ c ∈ cmds (some p), Completes s c.2 (a.msgReserved r.toNat x.kind x.vkind bit)) ∧
    (mayAccept s.m r.toNat ctr.toNat → suite = 1 → seed → ∀ c ∈ cmds (some p), Completes s c.2
      (Mod.putEntries { a with train := { a.train with seed := some (BitVec.ofNat 32 (beNat p)) } } fun _ => true)) ∧
    (mayAccept s.m r.toNat ctr.toNat → suite ≠ 1 → ∀ c ∈ cmds (some p), Completes s c.2 (a.msgReserved r.toNat 0 0 32)) ∧
    ((s.m.msess r.toNat).open' = true → ctr.toNat ≤ tGet 0 (s.m.msess r.toNat).rx 0 → ∀ c ∈ cmds (some p), Completes s c.2
      (Mod.event { s.m with sec := { s.m.sec with replay := s.m.sec.replay + 1 } } 0x8B03 r.toNat ctr.toNat)) ∧
    (∀ c ∈ cmds none,
      let k := (r.toNat, 0, 0, 0xFFFFFF00 + c.1)
      let t := { s.m with exch := { s.m.exch with sealFail := s.m.exch.sealFail + 1, fails := s.m.exch.fails ++ [k] } }
      ((s.m.exch.fails.filter (· = k)).length < 3 → Completes s c.2 (t.queueEx r.toNat
        { kind := 3, bucket := 0, piece := 0, chunk := 0xFFFFFF00 + c.1, sender := t.self, attempt := t.train.attempt,
          step := t.train.step })) ∧
      (3 ≤ (s.m.exch.fails.filter (· = k)).length →
        Completes s c.2 ((t.event 0x8403 r.toNat t.train.step).declareLost r.toNat false))) ∧
    ((s.m.msess r.toNat).open' = false → ∀ c ∈ cmds (some p),
      Completes s c.2 (s.m.tagFail r.toNat (0, 0, 0xFFFFFF00 + c.1) true))

/-- R403: the judgement of a cluster message. Another partition's is held, or discarded where it is older than the receiver's; losses and
departures, which change the partition, are taken; one whose place stands on a die that does not run waits; what belongs to a step is
judged by STEP and ATTEMPT as an exchange message is. A digest of an older step is dropped and of a newer one held, but for pairing; STATE
and CKDONE of a step that this module has not flipped to wait for its flip; a restart vote of a later attempt ends this one. -/
def Rule.ClusterJudgement : Prop :=
  ∀ (m : Mod) (x : ClMsg),
    let hold := fun (m : Mod) => { m with clus := { m.clus with held := m.clus.held ++ [x] } }
    let ofStep := ((x.kind = 2 ∨ x.kind = 3) ∧ x.vkind ≠ 3) ∨ x.kind = 7 ∨ x.kind = 8 ∨ x.kind = 9
    let here := x.part = m.clus.part ∧ m.clLands x = true
    (x.kind ∈ [4, 5] → m.judgeCl x = m.takeCl x) ∧
    (x.kind ∉ [4, 5] → x.part ≠ m.clus.part → m.judgeCl x = if m.partOld x.part then m else hold m) ∧
    (x.kind ∉ [4, 5] → x.part = m.clus.part → m.clLands x = false → m.judgeCl x = hold m) ∧
    (x.kind ∉ [7, 11] → m.clLands x = true) ∧
    (ofStep → here →
      (m.age x.step x.attempt = .now → m.judgeCl x = m.takeCl x) ∧
      (m.age x.step x.attempt = .old → m.judgeCl x = { m with exch := { m.exch with stale := m.exch.stale + 1 } }) ∧
      (m.age x.step x.attempt = .newStep → m.judgeCl x = hold m) ∧
      (m.age x.step x.attempt = .newAttempt → m.judgeCl x = hold m.voidByPeer)) ∧
    (x.kind ∈ [1, 6] → here → m.judgeCl x = m.takeCl x) ∧
    (x.kind = 10 → here →
      (m.clus.pair = .pairing → m.judgeCl x = (m.adoptStep x).takeCl x) ∧
      (m.clus.pair ≠ .pairing → x.step < m.train.step → m.judgeCl x = m) ∧
      (m.clus.pair ≠ .pairing → m.train.step < x.step → m.judgeCl x = hold m) ∧
      (m.clus.pair ≠ .pairing → x.step = m.train.step → m.judgeCl x = m.takeCl x)) ∧
    (x.kind = 11 → here →
      (m.clus.pair ≠ .pairing → m.train.step < x.step →
        m.judgeCl x = hold (if m.clus.redist then m.aheadState x else m)) ∧
      (m.clus.pair = .pairing ∨ x.step ≤ m.train.step → m.judgeCl x = m.takeCl x)) ∧
    (x.kind = 12 → here → m.judgeCl x = if m.train.step < x.step then hold m else m.takeCl x) ∧
    ((x.kind = 2 ∨ x.kind = 3) → x.vkind = 3 → here →
      m.judgeCl x = if x.kind = 2 ∧ m.age x.step x.attempt = .newAttempt then m.voidByPeer.takeCl x else m.takeCl x)

/-- R408 to R410, R417: what a heartbeat, the partner's gradient chunk, its forwarded summary and its acknowledgement do. -/
def Rule.MirrorTraffic : Prop :=
  ∀ (m : Mod) (x : ClMsg),
    (x.kind = 1 → m.takeCl x = { m with clus := { m.clus with beats := tSet 0 m.clus.beats x.sender (x.tick + 1) } }) ∧
    (x.kind = 7 → ∀ a, m.gradArea x.tensor x.first = some a →
      let w := m.hbmPut (a + x.offset) x.body
      m.takeCl x = { w with clus := { w.clus with mgrad := w.clus.mgrad ++ [(x.tensor, x.first, x.offset)] } }) ∧
    (x.kind = 8 → let y := ExMsg.ofBytes x.body
      m.takeCl x = { m with clus := { m.clus with msums := joinSum m.clus.msums y.bucket y.sender y.nonfin (partRecs y.npart y.body) } }) ∧
    (x.kind = 9 → m.takeCl x = if m.partner = some x.sender then { m with clus := { m.clus with mack := true } } else m)

/-- R226, R412, R413, R430: what a vote and an outcome do. A child's vote replaces its earlier one; an abort is held and makes this module
vote so too; an outcome goes on to the children; a commit is flipped at the next boundary, an abort stops the cord at the tick's end, a
restart starts the next attempt at its tick: where the step before was committed elsewhere, after this module's own flip, else a vote's
pending work is dropped. -/
def Rule.VotesAndOutcomes : Prop :=
  ∀ (m : Mod) (x : ClMsg),
    let got := { m with clus := { m.clus with votes := m.clus.votes.filter (fun (v : ClMsg) => v.sender != x.sender) ++ [x] } }
    let no : Mod := { got with train := { got.train with abort := true } }
    let o := { m with clus := { m.clus with outcome := some x } }
    let d := o.dropPending
    let gone : Mod := { d with train := { d.train with owed := none, decided := [], nfSkip := false } }
    (x.kind = 2 → x.vkind ≠ 2 → m.takeCl x = got.runVotes) ∧
    (x.kind = 2 → x.vkind = 2 → m.takeCl x = (if m.clus.own = none then no.castVote 2 0 else no).runVotes) ∧
    (x.kind = 3 → m.takeCl x = Mod.actOutcome (m.children.foldl (fun m r => m.sendCl r { x with sender := m.self }) m) x) ∧
    (x.vkind = 1 → m.train.owed = some m.train.step → m.tick.cnt.toNat < x.tick →
      m.actOutcome x = { o with train := { o.train with flipDue := some m.train.step, nfSkip := x.nfSkip, ckptDue := x.ckpt, startAt := some x.tick } }) ∧
    (x.vkind = 1 → m.train.owed ≠ some m.train.step → m.actOutcome x = o) ∧
    (x.vkind = 2 → m.actOutcome x = Mod.stopAtEnd { o with train := { o.train with abort := true } } 0x8103 false) ∧
    (x.vkind = 3 → m.train.owed = none → m.actOutcome x = (o.followFlip false x.last).startFrom x.tick) ∧
    (x.vkind = 3 → ∀ n, m.train.owed = some n → x.last ≤ m.train.last →
      m.actOutcome x = (gone.followFlip false x.last).startFrom x.tick) ∧
    (x.vkind = 3 → ∀ n, m.train.owed = some n → m.train.last < x.last →
      m.actOutcome x = ((o.flip (x.nfSkip || m.train.nfSkip) false).followFlip true x.last).startFrom x.tick) ∧
    (∀ b l, m.clus.fresh = false → m.followFlip b l = m) ∧
    (m.tick.cnt.toNat < x.tick → m.startFrom x.tick = { m with train := { m.train with startAt := some x.tick } })

/-- R405, R407: the partner's HELLO is held and checked once this module's own is out: the lowest failing code of PAIR_CORD, PAIR_RANK,
PAIR_FEED, PAIR_LAYOUT stops the pairing, else the digests are exchanged, once what they cover can be read, or, with nothing to digest,
the pair stands; no HELLO within 10 s is PAIR_TIMEOUT. -/
def Rule.PairingChecks : Prop :=
  (∀ (m : Mod) (x : ClMsg), x.kind = 6 →
    let n := { m with clus := { m.clus with hello := some x.body } }
    (m.partner ≠ some x.sender → m.takeCl x = m) ∧
    (m.partner = some x.sender → m.clus.helloOut = false ∨ m.clus.pair ≠ .pairing → m.takeCl x = n) ∧
    (m.partner = some x.sender → m.clus.helloOut = true → m.clus.pair = .pairing → m.clus.pairFail = none →
      let b := x.body
      let feed := beNat ((b.drop 10).take 1)
      let sharedFeed := decide (feed = m.pow.feedCode % 8)
      let fail := fun c => m.takeCl x = n.failPair c
      if beNat (b.take 8) ≠ cId m.img then fail 0x0D01
      else if beNat ((b.drop 8).take 2) ≠ x.sender then fail 0x0D02
      else if sharedFeed = true ∧ m.kop.feedOvr = false then fail 0x0D03
      else if (b.drop 12).take 64 ≠ sha512 (m.layoutBytes true) then fail 0x0D04
      else
        let d : Mod := { n with clus := { n.clus with shared := sharedFeed } }
        m.takeCl x = if d.items = [] then d.pairDone else if d.roundOn then d.digestRound else d.wantRound)) ∧
  (∀ s : State,
    let c := s.m.clus
    let late := c.pair = .pairing ∧ c.hello = none ∧ c.pairFail = none ∧ c.pairAt + 10000000000 ≤ s.m.tick.now
    (late → Completes s .pairTimeout (Mod.event { s.m with clus := { c with pairFail := some 0x0D05, hello := none } } 0x8501
      (s.m.partner.getD 0) 0x0D05)) ∧
    (¬ late → Completes s .pairTimeout s.m))

/-- R296, R405, R414, R415, R424: a digest that differs is counted and reported; the owner's copy is authoritative, the partner's where only
the owner's ECC bit is set; at pairing the owner's, and at the pairing of a repair the survivor's. The authoritative module owes the other
its state, at pairing and for owned bytes whose readers wait in a round that the partner began at once, else from its next flip on; the
other awaits it and, from the flip on at which it is sent, holds VALID of its tensor at 0. One that agrees clears the item's noted errors. -/
def Rule.DigestDecision : Prop :=
  (∀ (m : Mod) (p : Nat × Nat × Nat), p ∈ m.clus.stateIn → itKind p.1 ≤ 1 → (m.itKey p.1).1 ∈ m.holdAwaited.clus.holdV) ∧
  ∀ (m : Mod) (r k : Nat) (mine : List (Nat × DigRec)) (d x : DigRec),
    mine.find? (fun q => q.2.tensor = x.tensor && q.2.first = x.first && q.2.mirror != x.mirror) = some (k, d) →
    let ownEcc := if d.mirror then x.ecc else d.ecc
    let parEcc := if d.mirror then d.ecc else x.ecc
    let pairing := m.clus.pair = .pairing
    let partners := decide (¬ pairing) && ownEcc && !parEcc
    let mineTaken := if pairing ∧ m.clus.repair = true then true else if pairing ∧ m.clus.repl = true then false
      else if d.mirror then partners else !partners
    let now := pairing ∨ (m.clus.digNow = true ∧ x.ecc = true ∧ x.mirror = false)
    let n := Mod.event { m with clus := { m.clus with shardDiff := m.clus.shardDiff + 1 } } 0x850A x.tensor (b2n partners)
    (d.dig = x.dig → m.compareRec r mine x = m.clearEcc k) ∧
    (d.dig ≠ x.dig → mineTaken = true → ¬ now →
      m.compareRec r mine x = { n with clus := { n.clus with stateDue := n.clus.stateDue ++ [(k, r)] } }) ∧
    (d.dig ≠ x.dig → mineTaken = true → now →
      m.compareRec r mine x = Mod.sendDue { n with clus := { n.clus with stateNow := n.clus.stateNow ++ [(k, r)] } } true) ∧
    (d.dig ≠ x.dig → mineTaken = false → m.compareRec r mine x = n.awaitItem k r)

/-- R267, R414: a round is run once the settle has ended, where one is due, the module has a partner that takes part or replica entries,
and all that it covers can be read: the windows of the segments move on, the digest of every item is held and sent to the partner, and none
is due any more; the comparison waits for the partner's. -/
def Rule.DigestRounds : Prop :=
  ∀ s : State,
    let n := s.m.nextWindows
    let recs := n.items.map n.itRec
    let o := { n with clus := { n.clus with digOwn := recs, digDue := false } }
    let due := s.m.clus.digDue = true ∧ s.m.hbm.settle = [] ∧ s.m.cord.inst ≠ none ∧ (s.m.mate ≠ none ∨ s.m.replicas ≠ []) ∧
      s.m.roundOn = true
    (¬ due → Completes s .digestRound s.m) ∧
    (due → Completes s .digestRound s.m.digestRound) ∧
    (∀ r, s.m.partner = some r → r ∈ s.m.ranks → s.m.replicas = [] → recs ≠ [] →
      s.m.digestRound = (o.sendDigest r recs).compareRound ∧
      (s.m.clus.digPeer = [] → s.m.digestRound = o.sendDigest r recs)) ∧
    (∀ k ∈ n.items, (n.itRec k).dig = shardDigest (n.itKey k).1 (n.itKey k).2 n.train.last (n.itBytes k))

/-- R417, R418: a rank is declared lost once every queue pair to it is in error, and by a watcher once its last heartbeat, for tick t, lies
four boundaries back; one not watched, or heard of in time, is not. -/
def Rule.LossBySilence : Prop :=
  ∀ (s : State) (r : BitVec 12),
    let b := tGet 0 s.m.clus.beats r.toNat
    let silent := r.toNat ∈ s.m.clus.badQps ∨ (r.toNat ∈ s.m.watchers ∧ b ≠ 0 ∧ (b - 1) + 4 ≤ s.m.tick.cnt.toNat)
    (silent → Completes s (.lossBySilence r) (s.m.declareLost r.toNat true)) ∧
    (¬ silent → Completes s (.lossBySilence r) s.m)

/-- R418 to R420, R425, R430: learning of a loss. Known ranks change nothing; a module that is itself declared lost departs; a new loss joins
the lost set, is counted, logged with its time and reported, and its session ends; what a survivor then does follows the state of its
pairs and the phase; with an abort vote held the step is abandoned. The survivors act at the next boundary: till then the attempt runs on. -/
def Rule.LossLearned : Prop :=
  (∀ (m : Mod) (r : Nat) (mine quorum : Bool),
    (r = m.self → m.learnLoss r mine quorum = (m.event 0x8506 0 0).loseSelf 0x8506) ∧
    (r ≠ m.self → (r ∈ m.clus.lost ∨ m.cord.inst = none ∨ m.nmod ≤ r) → m.learnLoss r mine quorum = m) ∧
    (r ≠ m.self → r ∉ m.clus.lost → m.cord.inst ≠ none → r < m.nmod →
      let n := (if mine then m.sendCl r { m.clMsg 4 with subject := r } else m).noteLoss r
      n.clus.lost = m.clus.lost ++ [r] ∧ n.clus.lossCnt = m.clus.lossCnt + 1 ∧ n.clus.lossLog = m.clus.lossLog ++ [(r, m.tick.now)] ∧
      n.msess r = {} ∧ n.log.next = m.log.next + 1 ∧
      (quorum = true → 2 * n.ranks.length ≤ n.nmod → m.learnLoss r mine quorum = (n.event 0x8505 n.ranks.length 0).loseSelf 0x8505) ∧
      (quorum = false ∨ n.nmod < 2 * n.ranks.length → m.learnLoss r mine quorum = n.lossGo r) ∧
      (n.lossGo r).clus.lossDue = n.clus.lossDue ++ [r] ∧ (n.lossGo r).train.running = n.train.running ∧
        (n.lossGo r).train.attempt = n.train.attempt)) ∧
  (∀ m : Mod, (m.clus.lossDue = [] → m.lossNow = m) ∧ (m.clus.lossDue ≠ [] → m.lossNow =
    ((Mod.lossReturn { m with clus := { m.clus with lossDue := [] } } m.clus.lossDue).openSessions).survive)) ∧
  (∀ m : Mod, m.train.abort = true → m.survive = m.stopAtEnd 0x8103 false) ∧
  (∀ m : Mod, m.train.abort = false →
    (∀ p, m.lostPair = some p → m.survive = (m.event 0x8507 p.1 p.2).stopAtEnd 0x8507 false) ∧
    (m.lostPair = none → cSingle m.img = true → m.survive = (m.event 0x8508 (m.clus.lost.headD 0) 0).stopAtEnd 0x8508 false) ∧
    (∀ r, m.lostPair = none → cSingle m.img = false → m.resendLost = some r → m.survive = (m.event 0x8508 r 0).stopAtEnd 0x8508 false) ∧
    (m.lostPair = none → cSingle m.img = false → m.resendLost = none → cPhase m.img ≠ 1 ∨ m.clus.pair = .pairing → m.survive = { m with clus := { m.clus with repair := true } }) ∧
    (m.lostPair = none → cSingle m.img = false → m.resendLost = none → cPhase m.img = 1 → m.clus.pair ≠ .pairing → m.partFor = none →
      m.survive = (m.event 0x8509 m.clus.lost.length 0).stopAtEnd 0x8509 false) ∧
    (∀ p, m.lostPair = none → cSingle m.img = false → m.resendLost = none → cPhase m.img = 1 → m.clus.pair ≠ .pairing → m.partFor = some p → m.survive = m.redistribute p))

/-- R427: a CKDONE at the root joins the entries it holds; any other module's does nothing; with the entries of every rank's owned
shards held the checkpoint is complete. -/
def Rule.CheckpointDone : Prop :=
  ∀ (m : Mod) (x : ClMsg), x.kind = 12 →
    let n := { m with clus := { m.clus with ckptEnts := m.clus.ckptEnts ++ x.body, ckptFrom := m.clus.ckptFrom ++ [x.sender] } }
    (m.self ≠ m.root ∨ m.clus.ckpt = none → m.takeCl x = m) ∧
    (m.self = m.root → m.clus.ckpt ≠ none → (∃ r ∈ m.ranks, n.ckHas r = false) → m.takeCl x = n) ∧
    (m.self = m.root → ∀ t, m.clus.ckpt = some t → (∀ r ∈ m.ranks, n.ckHas r = true) →
      (m.takeCl x).clus.ckpt = none ∧ (m.takeCl x).clus.ckptCnt = m.clus.ckptCnt + 1 ∧ (m.takeCl x).clus.ckptE = some (m.tick.now - t))


/-! ### Ethernet and RoCEv2 -/

/-- R434, R437, R442: a link comes up on an interface of an enabled port that no shut-down and no lane test holds: it and its port are
up, the link event is raised, the interface is announced, queue pairs gain its paths and the peers hear of its address; it goes down with
its event, queue pairs lose its paths, what waited to leave by it is gone, and with the last of its interfaces the port is down. -/
def Rule.LinkChanges : Prop :=
  ∀ (s : State) (i : Fin 32),
    let k := i.val / 4
    let p := s.m.port k
    let x := s.m.iface i.val
    let may := s.m.ifIs i.val = true ∧ p.en = true ∧ p.run ≠ .shutting ∧ p.testing = false
    (s.m.pow.collier = false → ∀ b, Completes s (.linkChange i b) s.m) ∧
    (s.m.pow.collier = true →
    (¬ may ∨ x.up = true → Completes s (.linkChange i true) s.m) ∧
    (may → x.up = false →
      let m := (s.m.setIface i.val { x with up := true }).event 0x8601 (i.val + 256) 0
      Completes s (.linkChange i true)
        (((m.setPort k { p with run := .up }).announce i.val).eachQp fun m c => m.renewPaths c).tellAddrs) ∧
    (x.up = true →
      let d := (s.m.setIface i.val { x with up := false }).event 0x8601 i.val 0
      let e : Mod := { d with eth := { d.eth with
        held := d.eth.held.filter (fun (q : Pkt) => q.iface ≠ i.val), asked := d.eth.asked.filter (·.1 ≠ i.val) } }
      let z := (e.eachQp fun m c => m.dropPaths c fun q => q.loc = i.val).tellAddrs
      let others := ∃ j < 4, (z.iface (4 * k + j)).up = true
      (p.run = .up → ¬ others → Completes s (.linkChange i false) (z.setPort k { p with run := .down })) ∧
      (p.run ≠ .up ∨ others → Completes s (.linkChange i false) z)))

/-- R433, R434, R446: what an arriving frame does on an up interface: dropped and counted, left to the row of its protocol, answered; a
PAUSE is ignored and counted at the port; at most 1,000 echo replies leave in a second. -/
def Rule.FramesHandled : Prop :=
  ∀ (s : State) (i : Fin 32) (f : List Byte),
    let x := s.m.iface i.val
    let p := s.m.port (i.val / 4)
    let sec := s.m.tick.now / 1000000000
    let n := if x.echoSec = sec then x.echoes else 0
    let drop := s.m.setIface i.val { x with drops := x.drops + 1 }
    (s.m.pow.collier = false ∨ x.up = false → Completes s (.frameReceive i f) s.m) ∧
    (s.m.pow.collier = true → x.up = true →
      (s.m.frameDo i.val f = .drop → Completes s (.frameReceive i f) drop) ∧
      (s.m.frameDo i.val f = .quiet → Completes s (.frameReceive i f) s.m) ∧
      (s.m.frameDo i.val f = .pause → Completes s (.frameReceive i f) (s.m.setPort (i.val / 4) { p with ignored := p.ignored + 1 })) ∧
      (∀ b, s.m.frameDo i.val f = .reply b → Completes s (.frameReceive i f) (s.m.put (.frame i.val b))) ∧
      (∀ b, s.m.frameDo i.val f = .echo b → n < 1000 → Completes s (.frameReceive i f)
        ((s.m.setIface i.val { x with echoes := n + 1, echoSec := sec }).put (.frame i.val b))) ∧
      (∀ b, s.m.frameDo i.val f = .echo b → 1000 ≤ n → Completes s (.frameReceive i f) drop))

/-- R433, R434: frames above 9,216 B, 4 of them their frame check, or too short are dropped, an untagged ARP request for the interface's IPv4 address is answered with its
MAC address. -/
def Rule.FrameJudgement : Prop :=
  ∀ (m : Mod) (i : Nat),
    (∀ f : List Byte, 9216 < f.length + 4 ∨ f.length < 14 → m.frameDo i f = .drop) ∧
    (∀ src spa : Nat, src < 2 ^ 48 → spa < 2 ^ 32 → (m.iface i).vlan = 0 → (m.iface i).ip4 ≠ 0 →
      m.frameDo i (beBytes 6 0xFFFFFFFFFFFF ++ beBytes 6 src ++ beBytes 2 0x0806 ++ arpBody 1 src spa 0 (m.iface i).ip4.toNat) =
        .reply (m.ethFrame i src 0x0806 (arpBody 2 (m.ifMac i) (m.iface i).ip4.toNat src spa)))

/-- R438 to R441, R444: a RoCEv2 packet on an up interface: for an unused queue pair it is dropped and counted; one marked CE is answered
by a CNP; a context in error takes none; an opcode outside the profile, a wrong P_Key, more payload than the path MTU or a message of more
than 2^31 B is answered by NAK and puts the context in error; a peer's next packet in sequence moves the expected PSN on past those already
here, one ahead of it is held as placed, with the PSN that is missing, and each is acknowledged. -/
def Rule.RocePackets : Prop :=
  ∀ (s : State) (i : Fin 32) (qpn : BitVec 24) (op : BitVec 8) (pkey : BitVec 16) (psn : BitVec 24) (ce : Bool) (rkey : BitVec 32)
    (addr : BitVec 64) (len imm : BitVec 32) (syn : BitVec 8) (body : List Byte),
    let c := qpn.toNat
    let x := s.m.qp c
    let cmd := Instr.rocePacketReceive i qpn op pkey psn ce rkey addr len imm syn body
    let n := if ce then s.m.put (.roce c 0x81 0 []) else s.m
    let past := 4096 < body.length ∨ (op.toNat ∈ [6, 10, 11, 12] ∧ 2 ^ 31 < len.toNat)
    let y := if op = 9 ∨ op = 11 then { x with early := x.early ++ [(psn.toNat, imm)] } else x
    let ack := fun (m : Mod) => m.put (.roce c 0x11 psn.toNat [0])
    let fromPeer := pkey = 0xFFFF ∧ ¬ past ∧ 6 ≤ op.toNat ∧ op.toNat ≤ 11 ∧ ∃ r, x.rank = some r
    (s.m.pow.collier = false ∨ (s.m.iface i.val).up = false → Completes s cmd s.m) ∧
    (s.m.pow.collier = true → (s.m.iface i.val).up = true →
    (x.run = .free → Completes s cmd { s.m with eth := { s.m.eth with qpDrop := s.m.eth.qpDrop + 1 } }) ∧
    (x.run = .error ∨ (x.run = .ready ∧ op = 0x81) → Completes s cmd n) ∧
    (x.run = .ready → op ≠ 0x81 → roceOp x.rank.isNone op.toNat = false ∨ pkey ≠ 0xFFFF ∨ past →
      Completes s cmd ((n.put (.roce c 0x11 psn.toNat [0x61])).qpError c)) ∧
    (x.run = .ready → fromPeer → psn = x.epsn →
      let a := absorb x.ahead.length (x.epsn + 1) x.ahead
      Completes s cmd (ack (n.setQp c { y.release a.1 with ahead := a.2, gap := if a.2.isEmpty then none else some a.1.toNat }))) ∧
    (x.run = .ready → fromPeer → psn ≠ x.epsn → psnLe x.epsn.toNat psn.toNat = true → psn.toNat ∉ x.ahead →
      Completes s cmd (ack (n.setQp c { y with ahead := x.ahead ++ [psn.toNat], gap := some (x.gap.getD x.epsn.toNat) }))) ∧
    (x.run = .ready → fromPeer → psnLe x.epsn.toNat psn.toNat = false ∨ (psn ≠ x.epsn ∧ psn.toNat ∈ x.ahead) →
      Completes s cmd (ack n)) ∧
    (x.run = .ready → pkey = 0xFFFF → body.length ≤ 4096 → op = 0x11 → syn.toNat < 32 → Completes s cmd (n.takeAck c i.val psn.toNat)))

/-- R267, R451, R452: a host's access in sequence: a WRITE of one packet or a READ wholly within a HOSTVIS region that allows it, under its
R_Key, is done and acknowledged, or, of at most 4,096 B, answered with its bytes, where the dies that hold them run, else it hangs; any other is
answered by NAK, counted on the interface, and changes no memory. -/
def Rule.HostAccess : Prop :=
  ∀ (s : State) (i : Fin 32) (qpn : BitVec 24) (psn : BitVec 24) (rkey : BitVec 32) (addr : BitVec 64) (len imm : BitVec 32)
    (syn : BitVec 8) (body : List Byte) (ce : Bool),
    let c := qpn.toNat
    let x := s.m.qp c
    let cmd := fun (op : BitVec 8) => Instr.rocePacketReceive i qpn op 0xFFFF psn ce rkey addr len imm syn body
    let f := s.m.iface i.val
    let n := if ce then s.m.put (.roce c 0x81 0 []) else s.m
    let deny := (n.setIface i.val { f with hostErr := f.hostErr + 1 }).put (.roce c 0x11 psn.toNat [0x62])
    let runs := s.m.dieRuns (s.m.dieAt (s.m.view addr.toNat)) = true ∧
      s.m.dieRuns (s.m.dieAt (s.m.view (addr.toNat + (len.toNat - 1)))) = true
    s.m.pow.collier = true → f.up = true → x.run = .ready → x.rank = none → psn = x.epsn → body.length ≤ 4096 → len.toNat ≤ 2 ^ 31 →
    (s.m.hvAccess rkey.toNat addr.toNat len.toNat true = true → body.length = len.toNat → runs →
      let w := (n.setQp c { x with epsn := psn + 1 }).hbmWrite addr.toNat body
      Completes s (cmd 0xA) ((w.setQp c { x with epsn := psn + 1, wAddr := addr.toNat + body.length, wKey := rkey.toNat, wLeft := 0 }).put
        (.roce c 0x11 psn.toNat [0]))) ∧
    (s.m.hvAccess rkey.toNat addr.toNat len.toNat true = true → body.length = len.toNat → ¬ runs → Completes s (cmd 0xA) n) ∧
    (s.m.hvAccess rkey.toNat addr.toNat len.toNat true = false ∨ len.toNat < body.length → Completes s (cmd 0xA) deny) ∧
    (s.m.hvAccess rkey.toNat addr.toNat len.toNat false = true → len.toNat ≤ 4096 → runs → ∃ t, Completes s (cmd 0xC) t ∧
      t.eth.wire = n.eth.wire ++ [.roce c 0x10 psn.toNat (s.m.hbmRead addr.toNat len.toNat)] ∧
      (t.qp c).epsn = psn + 1 ∧ t.hbm = s.m.hbm) ∧
    (s.m.hvAccess rkey.toNat addr.toNat len.toNat false = true → ¬ runs → Completes s (cmd 0xC) n) ∧
    (s.m.hvAccess rkey.toNat addr.toNat len.toNat false = false → Completes s (cmd 0xC) deny) ∧
    (∀ e a n w, s.m.hvHolds e a n w = true → bitAt e (if w then 21 else 20) = true ∧ (s.m.hvRegion e).1 ≤ a ∧
      a + n ≤ (s.m.hvRegion e).1 + (s.m.hvRegion e).2)

/-- R440, R441: timers of a context. The ACK timer of a host's queue pair sends again seven times and then puts it in error; on a path
of a spread queue pair what was sent on it goes out again and the third timeout in a row gives the path up; after an RNR NAK the
operations go out again; a PSN missing for 16 us is asked for. Sending again hands every request with an unacknowledged part over anew,
as it was, and keeps it. -/
def Rule.TransportTimers : Prop :=
  ∀ (s : State) (c path : BitVec 16),
    let x := s.m.qp c.toNat
    (x.run ≠ .ready ∨ x.sent = [] → Completes s (.ackTimeout c path) s.m) ∧
    (x.run = .ready → x.sent ≠ [] → x.rank = none ∨ x.paths = [] →
      Completes s (.ackTimeout c path) (if 7 ≤ x.tries then s.m.qpError c.toNat
        else (s.m.setQp c.toNat { x with tries := x.tries + 1 }).resend c.toNat)) ∧
    (x.run = .ready → x.sent ≠ [] → (∃ r, x.rank = some r) → ∀ p, x.paths[path.toNat]? = some p →
      Completes s (.ackTimeout c path) (if 2 ≤ p.fails then s.m.dropPaths c.toNat fun q => q.loc = p.loc && q.rem = p.rem
        else (s.m.setQp c.toNat { x with paths := x.paths.set path.toNat { p with fails := p.fails + 1 } }).resendSome c.toNat false
          fun _ q => q.2.1 = p.loc && q.2.2 = p.rem)) ∧
    (x.run = .ready → x.sent ≠ [] → (∃ r, x.rank = some r) → x.paths ≠ [] → x.paths[path.toNat]? = none →
      Completes s (.ackTimeout c path) s.m) ∧
    Completes s (.rnrRetry c) (if x.run = .ready ∧ x.rnr ≠ 0 then s.m.resend c.toNat else s.m) ∧
    (x.gap = none → Completes s (.psnGapTimeout c) s.m) ∧
    (∀ g, x.gap = some g → Completes s (.psnGapTimeout c) (if x.run = .ready then s.m.put (.roce c.toNat 0x11 g [0x60]) else s.m)) ∧
    (∀ n : Mod,
      let sent := (n.qp c.toNat).sent
      let t := n.resend c.toNat
      t.eth.wire = n.eth.wire ++ (sent.filter fun (r : SentReq) => r.left ≠ []).map (fun (r : SentReq) => r.item) ∧
      (t.qp c.toNat).sent.map (fun (r : SentReq) => (r.psn, r.n, r.item)) = sent.map (fun (r : SentReq) => (r.psn, r.n, r.item)) ∧
      t = { n with eth := t.eth })

/-- R444, R445: congestion and flow control: a CNP halves a path's rate down to 1 Gb/s, a quiet interval raises it by 10 Gb/s up to the
interface's; PFC pauses and resumes enabled priorities only, what a pause held then leaves, others are ignored and counted; XOFF goes out once when a priority's
buffer fills and XON once when it has drained. -/
def Rule.CongestionControl : Prop :=
  ∀ (s : State) (c path : BitVec 16) (p prio : Fin 8) (b : Bool),
    let x := s.m.qp c.toNat
    let y := s.m.port p.val
    (∀ q, x.paths[path.toNat]? = some q →
      Completes s (.cnpReceive c path true)
        (s.m.setQp c.toNat { x with paths := x.paths.set path.toNat { q with rate := max 1000 (q.rate / 2) } }) ∧
      Completes s (.cnpReceive c path false) s.m ∧
      Completes s (.rateIncrease c path)
        (s.m.setQp c.toNat { x with paths := x.paths.set path.toNat { q with rate := min (s.m.ifRate q.loc) (q.rate + 10000) } })) ∧
    (s.m.pow.collier = true → y.run = .up → y.pfc.getLsbD prio.val = false →
      Completes s (.pfcReceive p prio b) (s.m.setPort p.val { y with ignored := y.ignored + 1 })) ∧
    (s.m.pow.collier = true → y.run = .up → y.pfc.getLsbD prio.val = true → ∃ l,
      let n := s.m.setPort p.val { y with paused := l }
      let of := fun (k : Pkt) => k.iface / 4 = p.val && k.prio = prio.val
      Completes s (.pfcReceive p prio b) (if b then n else
        { n with eth := { n.eth with link := n.eth.link ++ n.eth.held.filter of, held := n.eth.held.filter fun k => !of k } }) ∧ (prio.val ∈ l ↔ b = true) ∧ ∀ k, k ≠ prio.val → (k ∈ l ↔ k ∈ y.paused)) ∧
    (y.run = .up → y.pfc.getLsbD prio.val = true → (prio.val ∈ y.xoff ↔ b = true) → Completes s (.pfcThreshold p prio b) s.m) ∧
    (y.run = .up → y.pfc.getLsbD prio.val = true → ¬(prio.val ∈ y.xoff ↔ b = true) → ∃ l, Completes s (.pfcThreshold p prio b)
      ((s.m.setPort p.val { y with xoff := l }).put (.pfc p.val prio.val b)) ∧ (prio.val ∈ l ↔ b = true))

/-- R404, R442, R512: a peer's address list replaces the one held; its queue pairs lose the paths to interfaces no longer listed and gain
the new ones; none or more than 32 addresses, a field out of range or a reserved SUITE is MSG_RESERVED; one whose tag fails is counted and asked for again. -/
def Rule.AddressLists : Prop :=
  ∀ (s : State) (r : BitVec 12) (suite : BitVec 8) (ctr : BitVec 64) (p : List Byte),
    let x := ClMsg.ofBytes p
    let a := accepted s.m r.toNat ctr.toNat
    let l := addrsOf x.nrec x.body
    let cmd := Instr.addrsReceive r suite ctr (some p)
    let n := { a with eth := { a.eth with addrs := tSet [] a.eth.addrs r.toNat l } }
    (s.m.cord.inst = none → Completes s cmd s.m) ∧
    (s.m.cord.inst ≠ none → Completes s (.addrsReceive r suite ctr none) (s.m.tagFail r.toNat (0, 0, 0xFFFFFF0D) true)) ∧
    (s.m.cord.inst ≠ none → mayAccept s.m r.toNat ctr.toNat → suite ≠ 1 → Completes s cmd (a.msgReserved r.toNat 13 0 32)) ∧
    (s.m.cord.inst ≠ none → mayAccept s.m r.toNat ctr.toNat → suite = 1 → x.kind = 13 →
    (∀ bit, clReserved x = some bit → Completes s cmd (a.msgReserved r.toNat 13 x.vkind bit)) ∧
    (clReserved x = none →
      (x.nrec = 0 ∨ 32 < x.nrec → Completes s cmd (a.msgReserved r.toNat 13 0 208)) ∧
      (1 ≤ x.nrec → x.nrec ≤ 32 →
        Completes s cmd ((n.qpsOf r.toNat).foldl (fun (m : Mod) c =>
          (m.dropPaths c fun q => !l.any fun e => e.1 = q.rem).renewPaths c) n))))

/-- R436: a port's shut-down ends: it is down, or starts again for an enable that came meanwhile. -/
def Rule.PortDown : Prop :=
  ∀ (s : State) (p : Fin 8),
    let x := s.m.port p.val
    (x.run ≠ .shutting → Completes s (.portDownDone p) s.m) ∧
    (x.run = .shutting → x.pend = true → Completes s (.portDownDone p) (s.m.setPort p.val { x with en := true, pend := false, run := .starting })) ∧
    (x.run = .shutting → x.pend = false → Completes s (.portDownDone p) (s.m.setPort p.val { x with run := .down }))


/-! ### The DMA engine -/

/-- R455: a doorbell sets the ring's TAIL; one more than the ring's entries beyond HEAD is ignored and counted; under another R_Key, or
on a context not ready, nothing happens. -/
def Rule.Doorbells : Prop :=
  ∀ (s : State) (c : BitVec 16) (rkey tail : BitVec 32),
    (s.m.bellOf c.toNat rkey.toNat = none ∨ (s.m.qp c.toNat).run ≠ .ready → Completes s (.dmaDoorbell c rkey tail) s.m) ∧
    (∀ r, s.m.bellOf c.toNat rkey.toNat = some r → (s.m.qp c.toNat).run = .ready →
      let x := s.m.ring r
      Completes s (.dmaDoorbell c rkey tail) (s.m.setRing r (if (tail - x.head).toNat ≤ x.ents then { x with tail := tail }
        else { x with bad := x.bad + 1 })))

/-- R454, R457 to R459: an idle, enabled, unpaused channel takes the next ring with work in round-robin order and the descriptor that
follows those it has begun; one with OWN = 0 halts the channel and is not written back; one with BARRIER waits while writes of the
channel have not arrived; else it is in progress with what its checks found, and the READs of a remote source leave; a die that
does not run is waited for. -/
def Rule.DescriptorStarts : Prop :=
  ∀ (s : State) (c : Fin 32) (r : Nat),
    let x := s.m.chanD c.val
    let g := s.m.ring r
    let n := (g.head + BitVec.ofNat 32 (x.due r).length).toNat
    let d := s.m.descAt g n
    let next := s.m.setRing r { g with head := g.head + 1 }
    let k := s.m.dmaCheck g d
    let cmd := Instr.dmaDescriptorStart c
    (s.m.pow.collier = false ∨ x.run ≠ .idle ∨ x.en = false ∨ x.paused = true → Completes s cmd s.m) ∧
    (s.m.pow.collier = true →
    (x.run = .idle → x.en = true → x.paused = false → nextRing (s.m.ringsDue c.val) x.rr = none → Completes s cmd s.m) ∧
    (x.run = .idle → x.en = true → x.paused = false → nextRing (s.m.ringsDue c.val) x.rr = some r → s.m.dieRuns (s.m.dieAt g.base) = false →
      Completes s cmd s.m) ∧
    (x.run = .idle → x.en = true → x.paused = false → nextRing (s.m.ringsDue c.val) x.rr = some r → s.m.dieRuns (s.m.dieAt g.base) = true →
      (dOwn d = false → x.due r = [] → Completes s cmd ((next.setChanD c.val
        { x with rr := r, run := .halted, haltAt := (r % 256, n), cur := none, sent := 0, chk := 0 }).event 0x8602 (c.val + 256 * (r % 256)) n)) ∧
      (dOwn d = false → x.due r ≠ [] → Completes s cmd s.m) ∧
      (dOwn d = true → dBarrier d = true → x.acks ≠ [] → Completes s cmd
        (s.m.setChanD c.val { x with run := .running, rr := r, cur := some (r, n), sent := 0, chk := 0, wait := true })) ∧
      (dOwn d = true → dBarrier d = false ∨ x.acks = [] → k ≠ 0 ∨ s.m.dmaDies s.m.dieRuns d = true →
        Completes s cmd ((if k = 0 then s.m.dmaAsk d else s.m).setChanD c.val
          { x with run := .running, rr := r, cur := some (r, n), sent := 0, chk := k, wait := false })) ∧
      (dOwn d = true → dBarrier d = false ∨ x.acks = [] → k = 0 → s.m.dmaDies s.m.dieRuns d = false → Completes s cmd s.m)))

/-- R454: the rings of a channel are served in turn: the lowest number above the one served last, else the lowest of all. -/
def Rule.RingOrder : Prop :=
  ∀ (l : List Nat) (r : Nat), l.Pairwise (· < ·) →
    (∀ k, nextRing l r = some k → k ∈ l ∧ ((r < k ∧ ∀ j ∈ l, r < j → k ≤ j) ∨ ((∀ j ∈ l, j ≤ r) ∧ ∀ j ∈ l, k ≤ j))) ∧
    (nextRing l r = none ↔ l = [])

/-- R458 to R460: a descriptor in progress on an unpaused channel, no write-back being due, ends, where the dies that it touches run: a
failed check completes it with its code; what it moves goes to HBM or a hearth store and it completes with STATUS 0, a plain copy from HBM
to HBM byte for byte; a remote side that failed completes it with code 4, or 6 where the envelope of a sealed source fails, after the whole
units that came of one run; an uncorrectable burst of the source with code 5 after the whole units before it. To a queue tokens go as
its credits allow, and it completes when all have entered the queue, or with code 3 where the queue is no longer placed. One that waits at
its BARRIER starts once every write of the channel has arrived. -/
def Rule.DescriptorCompletes : Prop :=
  ∀ (s : State) (c : Fin 32) (r n : Nat) (remote : List Byte) (fail : Fin 3),
    let x := s.m.chanD c.val
    let g := s.m.ring r
    let d := s.m.descAt g n
    let cmd := Instr.dmaDescriptorComplete c ⟨remote, fail⟩
    let up := s.m.dmaDies s.m.dieClocks d
    let srcLost := dSkind d = 2 ∧ (fail ≠ 0 ∨ (s.m.qp (dSctx d)).run ≠ .ready)
    let dstLost := dDkind d = 2 ∧ (s.m.qp (dDctx d)).run ≠ .ready
    let came := if fail = 2 ∨ 1 < (dSrc d).length then 0 else min remote.length (dLen d) / 4096 * 4096
    let code := if dSkind d = 2 ∧ dSeal d = 2 ∧ fail = 2 then 6 else 4
    let k := s.m.dmaCheck g d
    let toks := dmaTokens d (s.m.hearth (slice (dDaddr d) 12 0)).gen
    let queue := fun (ts : List Token) (status done : Nat) =>
      (s.m.dmaQueue d = none → Completes s cmd (s.m.dmaDone c.val r n 3 (64 * x.sent / 4096 * 4096))) ∧
      (∀ q, s.m.dmaQueue d = some q →
        let p := dmaSend (prodDma c.val) q (ts.drop x.sent) x.sent s.m
        let gone := p.1 = ts.length ∧ ∀ f ∈ p.2.grid.flights, f.tok.prod ≠ prodDma c.val
        (gone → Completes s cmd (p.2.dmaDone c.val r n status done)) ∧
        (¬ gone → Completes s cmd (p.2.setChanD c.val { x with sent := p.1 })))
    s.m.dmaNext c.val = none →
    (x.cur = none → Completes s cmd s.m) ∧
    (x.cur = some (r, n) →
    (x.run ≠ .running ∨ x.paused = true → Completes s cmd s.m) ∧
    (x.run = .running → x.paused = false → x.wait = true →
      let may := x.acks = [] ∧ (k ≠ 0 ∨ s.m.dmaDies s.m.dieRuns d = true)
      (¬ may → Completes s cmd s.m) ∧
      (may → Completes s cmd ((if k = 0 then s.m.dmaAsk d else s.m).setChanD c.val
        { x with run := .running, rr := r, cur := some (r, n), sent := 0, chk := k, wait := false }))) ∧
    (x.run = .running → x.paused = false → x.wait = false →
      (s.m.dieClocks (s.m.dieAt g.base) = false ∨ (x.chk = 0 ∧ up = false) → Completes s cmd s.m) ∧
      (s.m.dieClocks (s.m.dieAt g.base) = true → x.chk ≠ 0 → Completes s cmd (s.m.dmaDone c.val r n x.chk 0)) ∧
      (s.m.dieClocks (s.m.dieAt g.base) = true → x.chk = 0 → up = true →
        (¬ srcLost → ¬ dstLost → s.m.dmaBad d = none → dDkind d ≤ 1 →
          Completes s cmd ((s.m.dmaMove d (dLen d) remote).dmaDone c.val r n 0 (dLen d))) ∧
        (dSkind d = 0 → dDkind d = 0 → dMode d = 0 → s.m.dmaMove d (dLen d) remote =
          s.m.hbmWrite (dDaddr d) ((s.m.hbmRead (dSaddr d) (dLen d)).take (dLen d))) ∧
        (¬ srcLost → ¬ dstLost → s.m.dmaBad d = none → dDkind d = 3 → queue (toks (s.m.dmaRead d remote)) 0 (dLen d)) ∧
        (srcLost → dDkind d ≤ 1 → Completes s cmd ((s.m.dmaMove d came remote).dmaDone c.val r n code came)) ∧
        (srcLost → dDkind d = 3 → queue ((toks remote).take (came / 64)) code came) ∧
        (srcLost ∨ dstLost → dDkind d = 2 → Completes s cmd (s.m.dmaDone c.val r n code 0)) ∧
        (∀ b, ¬ srcLost → ¬ dstLost → s.m.dmaBad d = some b → dDkind d ≤ 1 →
          Completes s cmd ((s.m.dmaMove d b remote).dmaDone c.val r n 5 b)) ∧
        (∀ b, ¬ srcLost → ¬ dstLost → s.m.dmaBad d = some b → dDkind d = 3 →
          queue ((toks (s.m.dmaRead d remote)).take (b / 64)) 5 b))))

/-- R458, R459: a descriptor that writes to remote memory has sent its writes and waits for them to be acknowledged, the channel idle for
the next, or, after an uncorrectable burst of its source, as it was; a write-back is due for the first descriptor of its ring whose writes
have all arrived, or whose queue pair has failed, on a die that still runs; then it is made, with STATUS 4 and what has arrived where the
queue pair completed in error, and after a failure the channel halts. -/
def Rule.WritesAcknowledged : Prop :=
  ∀ (s : State) (c : Fin 32) (remote : List Byte) (fail : Fin 3),
    let x := s.m.chanD c.val
    let cmd := Instr.dmaDescriptorComplete c ⟨remote, fail⟩
    let here := fun (a : DmaAck) => a.reqs = [] ∨ (s.m.qp a.ctx).run ≠ .ready ∨ ∀ w ∈ (s.m.qp a.ctx).sent, ∀ p ∈ a.reqs, p.1 ≠ w.psn
    let bytes := fun (q : SentReq) => match q.item with
      | .rdma _ _ _ b => b.length
      | .seal _ _ _ b => b.length
      | _ => 0
    (∀ r n, s.m.dmaNext c.val = none → x.cur = some (r, n) → x.run = .running → x.wait = false → x.paused = false → x.chk = 0 →
      let d := s.m.descAt (s.m.ring r) n
      let status := if s.m.dmaBad d = none then 0 else 5
      let k := (s.m.dmaBad d).getD (dLen d)
      let t := s.m.dmaMove d k remote
      s.m.dieClocks (s.m.dieAt (s.m.ring r).base) = true → s.m.dmaDies s.m.dieClocks d = true → dDkind d = 2 →
      (s.m.qp (dDctx d)).run = .ready → dSkind d ≠ 2 ∨ (fail = 0 ∧ (s.m.qp (dSctx d)).run = .ready) →
      let a : DmaAck := { ring := r, n := n, status := status, done := k, ctx := dDctx d, reqs := ((t.qp (dDctx d)).sent.drop
        (s.m.qp (dDctx d)).sent.length).map fun q => (q.psn, bytes q) }
      Completes s cmd (t.setChanD c.val { x with run := if status = 0 then .idle else .running, cur := none, sent := 0, chk := 0,
                                                 acks := x.acks ++ [a] })) ∧
    (∀ a, s.m.dmaNext c.val = some a → a ∈ x.acks ∧ here a ∧ (a.mute = true ∨ (s.m.dieClocks (s.m.dieAt (s.m.ring a.ring).base) = true ∧
      x.acks.find? (fun b => b.ring = a.ring && !b.mute) = some a))) ∧
    (s.m.dmaNext c.val = none → ∀ a, x.acks.find? (fun b => b.ring = a.ring && !b.mute) = some a →
      s.m.dieClocks (s.m.dieAt (s.m.ring a.ring).base) = true → ¬ here a) ∧
    (∀ a, s.m.dmaNext c.val = some a →
      let bad := a.reqs ≠ [] ∧ (s.m.qp a.ctx).run ≠ .ready
      let t := s.m.setChanD c.val { x with acks := x.acks.filter (· ≠ a) }
      let w := t.dmaBack a.ring a.n (if bad ∧ a.status = 0 then 4 else a.status) (if bad then t.dmaPart a else a.done)
      (a.mute = true → Completes s cmd t) ∧
      (a.mute = false → a.status = 7 ∨ (¬ bad ∧ a.status = 0) → Completes s cmd w) ∧
      (a.mute = false → ¬ (a.status = 7 ∨ (¬ bad ∧ a.status = 0)) → Completes s cmd (w.haltChan c.val a.ring a.n)))

/-- R456, R458: the write-back of a descriptor: its ring's HEAD stands past it; STATUS 0 leaves the channel idle, 1 to 6 halt it at the
descriptor with DMA_HALT; the descriptor's place in the ring has OWN = 0, STATUS and DONE. Where earlier ones of its ring wait for
theirs it joins them. -/
def Rule.DescriptorWriteBack : Prop :=
  ∀ (m : Mod) (c r n status done : Nat),
    let g := m.ring r
    let x := m.chanD c
    let t := m.dmaDone c r n status done
    (x.due r = [] → status < 256 → done < 2 ^ 32 → m.hbm.bad = [] → m.hbm.side = false → m.peatEnts = [] →
      (t.ring r).head = g.head + 1 ∧
      (status = 0 → (t.chanD c).run = .idle ∧ (t.chanD c).cur = none) ∧
      (1 ≤ status → status ≤ 6 → (t.chanD c).run = .halted ∧ (t.chanD c).haltAt = (r % 256, n) ∧ t.log.next = m.log.next + 1) ∧
      dOwn (t.descAt g n) = false ∧ slice (t.descAt g n) 391 384 = status ∧ slice (t.descAt g n) 431 400 = done) ∧
    (x.due r ≠ [] →
      let a : DmaAck := { ring := r, n := n, status := status, done := done }
      t = m.setChanD c { x with run := if status = 0 ∧ x.run = .running then .idle else x.run, cur := none, sent := 0, chk := 0,
                                acks := x.acks ++ [a] })

/-- R461: SPLIT and MERGE undo each other, and so do packing and unpacking of elements of 6 or 4 bits. -/
def Rule.FunnelsUndo : Prop :=
  (∀ (n p w : Nat) (b : List Byte), 0 < p → b.length = n * (w * p) →
    weave n p ((List.range w).map fun k => unweave n k p w b) = b) ∧
  (∀ (b : Nat) (l : List Byte), b ≤ 8 → (∀ x ∈ l, x.toNat < 2 ^ b) → unpackBits b l.length (packBits b l) = l)

/-- R462: a paced channel is paused once its queue holds HIGH tokens and goes on once it holds LOW or fewer, and stays as it is between;
HIGH 0 means no pacing; a queue of a core that is not placed pauses the channel and is reported once. -/
def Rule.Pacing : Prop :=
  ∀ (s : State) (c : Fin 32),
    let x := s.m.chanD c.val
    let id := cid (slice x.paceQ 12 0) (slice x.paceQ 19 13)
    let q := s.m.inq (qid id (slice x.paceQ 21 20))
    let fill := q.router.length + q.spill.length
    let there := (s.m.ctl id).placed = true ∧ slice x.paceQ 21 20 < inQueues (slice x.paceQ 19 13)
    (x.high = 0 → Completes s (.dmaPaceSample c) (s.m.setChanD c.val { x with paused := false, lost := false })) ∧
    (x.high ≠ 0 → there → x.high ≤ fill → Completes s (.dmaPaceSample c) (s.m.setChanD c.val { x with paused := true, lost := false })) ∧
    (x.high ≠ 0 → there → fill < x.high → fill ≤ x.low → Completes s (.dmaPaceSample c)
      (s.m.setChanD c.val { x with paused := false, lost := false })) ∧
    (x.high ≠ 0 → there → fill < x.high → x.low < fill → x.lost = false → Completes s (.dmaPaceSample c) (s.m.setChanD c.val x)) ∧
    (x.high ≠ 0 → ¬ there → x.lost = true → Completes s (.dmaPaceSample c) (s.m.setChanD c.val { x with paused := true })) ∧
    (x.high ≠ 0 → ¬ there → x.lost = false → Completes s (.dmaPaceSample c)
      ((s.m.setChanD c.val { x with paused := true, lost := true }).event 0x8603 c.val 0))

/-- R459, R463: the shut-down of a channel: its descriptor in progress stops with ABORTED after whole units, its remote writes under way,
where the dies that it touches run; the shut-down completes once every write has arrived: the channel is disabled, or enabled and idle
where an enable came meanwhile. -/
def Rule.ChannelShutDown : Prop :=
  ∀ (s : State) (c : Fin 32) (units : BitVec 20) (remote : List Byte),
    let x := s.m.chanD c.val
    let fin := fun (m : Mod) => if (m.chanD c.val).acks = [] then
      m.setChanD c.val { m.chanD c.val with run := if x.pend then .idle else .disabled, en := x.pend, pend := false } else m
    let cmd := Instr.dmaDisableDone c units remote
    (x.run ≠ .shutting → Completes s cmd s.m) ∧
    (x.run = .shutting → x.cur = none → Completes s cmd (fin s.m)) ∧
    (x.run = .shutting → ∀ r n, x.cur = some (r, n) →
      let d := s.m.descAt (s.m.ring r) n
      let k := if x.wait = true ∨ x.chk ≠ 0 then 0 else min (4096 * units.toNat) (dLen d)
      let w := s.m.setChanD c.val { x with wait := false }
      let runs := s.m.dieClocks (s.m.dieAt (s.m.ring r).base) = true ∧ (x.chk ≠ 0 ∨ s.m.dmaDies s.m.dieClocks d = true)
      (¬ runs → Completes s cmd s.m) ∧
      (runs → dDkind d ≤ 1 → Completes s cmd (fin ((w.dmaMove d k remote).dmaDone c.val r n 7 k))) ∧
      (runs → dDkind d = 2 → Completes s cmd (fin ((w.dmaMove d k remote).dmaSent c.val r n (dDctx d) (s.m.qp (dDctx d)).sent.length 7 k))) ∧
      (runs → dDkind d = 3 → Completes s cmd (fin (w.dmaDone c.val r n 7 (64 * x.sent / 4096 * 4096)))))

/-! ### KOP -/

/-- R465, R468 to R470: a datagram to UDP port 51480 by an up interface, while the collier answers: one that is fragmented, longer than
1,440 B or shorter than 48 B is dropped and counted; one for a session that is not open is answered; a tag that fails is never answered;
an ACK releases its PDU; an OPEN is left to its own row; any other datagram does nothing here. Answers go back where it came from. -/
def Rule.DatagramsJudged : Prop :=
  ∀ (s : State) (i : Fin 32) (src : BitVec 128) (sport dport : BitVec 16) (pdu : List Byte) (frag tagOk : Bool),
    let p := Pdu.ofBytes pdu
    let c := Instr.kopDatagramReceive ⟨i, src, sport, dport⟩ pdu frag tagOk
    let bad := frag = true ∨ 1440 < pdu.length ∨ pdu.length < 48
    let mine := s.m.answers = true ∧ (s.m.iface i.val).up = true ∧ dport = 51480
    let m := { s.m with kop := { s.m.kop with src := (i.val, src, sport.toNat) } }
    let heard := m.setKsess p.session { m.ksess p.session with heard := m.tick.now, src := m.kop.src }
    (¬ mine → Completes s c s.m) ∧
    (mine → bad → Completes s c { m with kop := { m.kop with drops := m.kop.drops + 1 } }) ∧
    (mine → ¬ bad → p.op = 1 → Completes s c m) ∧
    (mine → ¬ bad → p.op ≠ 1 → (s.m.ksess p.session).live = false → Completes s c (m.answer p 0x11 [])) ∧
    (mine → ¬ bad → p.op ≠ 1 → (s.m.ksess p.session).live = true → tagOk = false →
      ∃ t, Completes s c t ∧ t.kop.tagFail = s.m.kop.tagFail + 1 ∧ t.kop.drops = s.m.kop.drops ∧ t.hbm = s.m.hbm ∧ t.grid = s.m.grid) ∧
    (mine → ¬ bad → p.op = 9 → (s.m.ksess p.session).live = true → tagOk = true →
      Completes s c (heard.ackSeq p.session p.seq))

/-- R466 to R468, R470: a request of an open session whose tag verifies is judged by its SEQ: 0 or more than 63 below the highest is
dropped and counted; one answered before gets the same response again; one still executing gets none; any other is marked received: with
16 requests of the session waiting it is answered as busy, with a VERSION, an OP or a length that is not accepted as KOP_BAD_PDU, else
it waits for its operation with what its owner signature, verified from its bytes, is worth. -/
def Rule.RequestSequence : Prop :=
  ∀ (s : State) (i : Fin 32) (src : BitVec 128) (sport : BitVec 16) (pdu : List Byte),
    let p := Pdu.ofBytes pdu
    let c := Instr.kopDatagramReceive ⟨i, src, sport, 51480⟩ pdu false true
    let k := { s.m with kop := { s.m.kop with src := (i.val, src, sport.toNat) } }
    let m := k.setKsess p.session { k.ksess p.session with heard := k.tick.now, src := k.kop.src }
    let x := m.ksess p.session
    let y := { x with hi := max x.hi p.seq,
                      recvd := (x.recvd ++ [p.seq]).filter fun q => decide (max x.hi p.seq < q + 64) }
    let old := p.seq = 0 ∨ p.seq + 64 ≤ x.hi
    let fresh := ¬ old ∧ x.cache.find? (fun k => k.1 = p.seq) = none ∧ x.reqs.any (fun q => q.seq = p.seq) = false
    let good := p.version = 1 ∧ p.op ∈ [2, 3, 4, 5, 6, 10] ∧ 48 + p.len + (if p.signed then 132 else 0) ≤ pdu.length
    s.m.answers = true → (s.m.iface i.val).up = true → 48 ≤ pdu.length → pdu.length ≤ 1440 → (s.m.ksess p.session).live = true →
    p.op ≠ 1 → p.op ≠ 9 →
      (old → Completes s c { m with kop := { m.kop with seqOld := m.kop.seqOld + 1 } }) ∧
      (∀ k, ¬ old → x.cache.find? (fun k => k.1 = p.seq) = some k → Completes s c (m.put (.kop p.session k.2))) ∧
      (¬ old → x.cache.find? (fun k => k.1 = p.seq) = none → x.reqs.any (fun q => q.seq = p.seq) = true → Completes s c m) ∧
      (fresh → 16 ≤ x.reqs.length → Completes s c ((m.setKsess p.session y).respond p.session p 0x1A 0 [])) ∧
      (fresh → x.reqs.length < 16 → good → Completes s c ((m.setKsess p.session y).setKsess p.session
        { y with reqs := y.reqs ++ [{ seq := p.seq, pdu := pdu, sig := s.m.pduSigned p pdu && p.signed }] })) ∧
      (fresh → x.reqs.length < 16 → ¬ good → Completes s c ((m.setKsess p.session y).respond p.session p 0x10 0 []))

/-- R465, R466, R469, R503, R505: an OPEN that arrives as a datagram of KOP, whose VERSION and length are accepted, whose role's
credential is granted and whose key is a point of the curve, makes a session of that role under a number that is not 0 and that no open
session has, and answers it; a wrong VERSION or length, a role that is not granted, a role that does not exist, the 65th session, a fifth
Owner's and a third Service's are refused. The Owner's and an Operator's credential is a signature over MODULE_ID and the first 166 B. -/
def Rule.SessionOpens : Prop :=
  ∀ (s : State) (i : Fin 32) (src : BitVec 128) (sport dport : BitVec 16) (pdu : List Byte) (svcOk : Bool),
    let c := Instr.openCmd ⟨i, src, sport, dport⟩ pdu svcOk
    let p := Pdu.ofBytes pdu
    let value := p.value
    let role := beNat (value.take 1)
    let cred := value.drop 168
    let msg := beBytes 8 s.m.sec.id ++ value.take 166
    let n := (s.m.kop.sess.filter fun q => q.2.live).length
    let full := 64 ≤ n ∨ (role = 2 ∧ 4 ≤ s.m.roleCount 2) ∨ (role = 3 ∧ 2 ≤ s.m.roleCount 3)
    let bad := 1440 < pdu.length ∨ pdu.length < 48
    let mine := s.m.answers = true ∧ (s.m.iface i.val).up = true ∧ dport = 51480
    let m := { s.m with kop := { s.m.kop with src := (i.val, src, sport.toNat) } }
    let framed := 168 ≤ value.length ∧ beNat ((value.drop 166).take 2) = cred.length
    let granted := s.m.grants value svcOk = true ∧ ecOn ((value.drop 1).take 133) = true
    (role = 0 → s.m.grants value svcOk = true) ∧ (role = 3 → s.m.grants value svcOk = svcOk) ∧
    (role = 1 → (s.m.grants value svcOk = true ↔ s.m.sec.owner ≠ [] ∧ cred.length = 265 ∧ sha512 (cred.take 133) ∈ s.m.sec.opList ∧
      ecdsaOk (cred.take 133) msg (cred.drop 133) = true)) ∧
    (role = 2 → (s.m.grants value svcOk = true ↔ s.m.sec.owner ≠ [] ∧ cred.length = 132 ∧ ecdsaOk s.m.sec.owner msg cred = true)) ∧
    (¬ mine → Completes s c s.m) ∧
    (mine → bad → Completes s c { m with kop := { m.kop with drops := m.kop.drops + 1 } }) ∧
    (mine → ¬ bad → p.op ≠ 1 → Completes s c m) ∧
    (mine → ¬ bad → p.op = 1 → p.version ≠ 1 ∨ pdu.length < 32 + p.len → Completes s c (m.answer p 0x10 [])) ∧
    (mine → ¬ bad → p.op = 1 → p.version = 1 → 32 + p.len ≤ pdu.length →
    (¬ framed → Completes s c (m.answer p 0x15 [])) ∧
    (framed → 3 < role → Completes s c (m.answer p 0x16 [])) ∧
    (framed → role ≤ 3 → ¬ granted → Completes s c (m.answer p 0x12 [])) ∧
    (framed → role ≤ 3 → granted → full → Completes s c (m.answer p 0x1E [])) ∧
    (framed → role ≤ 3 → granted → ¬ full → ∃ id t, Completes s c t ∧ id ≠ 0 ∧
      (s.m.ksess id).live = false ∧ (t.ksess id).live = true ∧ (t.ksess id).role = role ∧ (t.ksess id).reqs = [] ∧
      t.log.next = s.m.log.next + 1))

/-- R467, R469: CLOSE is answered and the session forgotten; KEEPALIVE is answered with STATUS 0; an ACK holds the session and releases its
PDU; a session that has received no verified PDU for 60 s is closed with SESSION_TIMEOUT, an earlier one stays. -/
def Rule.SessionEnds : Prop :=
  ∀ (s : State) (ses seq : BitVec 32) (p : Pdu) (sig : Bool),
    let x := s.m.ksess ses.toNat
    (s.m.waits ses seq p sig → p.op = 2 → Completes s (.close ses seq)
      (((s.m.respond ses.toNat p 0 0 []).closeKop ses.toNat).event 0x8003 ses.toNat 0)) ∧
    (s.m.waits ses seq p sig → p.op = 10 → Completes s (.keepalive ses seq) (s.m.respond ses.toNat p 0 0 [])) ∧
    (s.m.answers = true → x.live = true → Completes s (.ack ses seq)
      ((s.m.setKsess ses.toNat { x with heard := s.m.tick.now }).ackSeq ses.toNat seq.toNat)) ∧
    (x.live = true → x.heard + 60000000000 ≤ s.m.tick.now → Completes s (.sessionTimeout ses)
      ((s.m.closeKop ses.toNat).event 0x8004 ses.toNat 0)) ∧
    (s.m.tick.now < x.heard + 60000000000 → Completes s (.sessionTimeout ses) s.m)

/-- R471: a NOTIFY or RESULT without its ACK goes out again, at most 3 times after the first; after the last it stops and its
subscription's GAP is set. -/
def Rule.Retransmission : Prop :=
  ∀ (s : State) (ses seq : BitVec 32) (u : Unacked),
    let x := s.m.ksess ses.toNat
    x.unacked.find? (fun u => u.seq = seq.toNat) = some u →
    (u.sends < 4 → Completes s (.notifyRetransmit ses seq) ((s.m.setKsess ses.toNat { x with
      unacked := x.unacked.map fun v => if v.seq = u.seq then { v with sends := v.sends + 1 } else v }).put (.kop ses.toNat u.pdu))) ∧
    (4 ≤ u.sends → Completes s (.notifyRetransmit ses seq) (s.m.setKsess ses.toNat { x with
      unacked := x.unacked.filter (fun v => v.seq ≠ u.seq),
      subs := x.subs.map fun v => if some v.no = u.sub then { v with gap := true } else v }))

/-- R474, R486, R268: a GET of objects that the session may read answers their values in order and read-clears what it returns; one target
that it may not read refuses the whole GET and names that target; more than 1,440 B are refused; a hearth element in a stopped die
is answered with KOP_STOPPED. -/
def Rule.GetReadsWhole : Prop :=
  ∀ (s : State) (ses seq : BitVec 32) (p : Pdu) (sig : Bool),
    let n := ses.toNat
    let vals := p.targets.map fun t => ((s.m.obj? n p.index t.1 t.2).map Obj.val).getD []
    s.m.waits ses seq p sig → p.op = 3 →
    (p.count = 0 → Completes s (.get ses seq) (s.m.respond n p 0x10 0 [])) ∧
    (p.count ≠ 0 → s.m.pow.state = .kindling → p.index ≠ 0x1000 → p.index ≠ 0x1001 →
      Completes s (.get ses seq) (s.m.respond n p 0x1B 0 [])) ∧
    (p.count ≠ 0 → s.m.pow.state ≠ .kindling ∨ p.index = 0x1000 ∨ p.index = 0x1001 →
      (∀ a t b, p.targets = a ++ t :: b → (∀ u ∈ a, s.m.readBad n p.index u = 0) → s.m.readBad n p.index t ≠ 0 →
        Completes s (.get ses seq) (s.m.respond n p (s.m.readBad n p.index t) (p.place t) [])) ∧
      ((∀ t ∈ p.targets, s.m.readBad n p.index t = 0) → 48 + vals.flatten.length ≤ 1440 →
        Completes s (.get ses seq) ((p.targets.foldl (fun (m : Mod) t => m.readClear p.index t) s.m).respond n p 0 0 vals.flatten)) ∧
      ((∀ t ∈ p.targets, s.m.readBad n p.index t = 0) → 1440 < 48 + vals.flatten.length → ∃ d,
        Completes s (.get ses seq) (s.m.respond n p 0x19 d []))) ∧
    (∀ elem : BitVec 32, p.index = 0x2000 ∨ p.index = 0x2001 →
      (s.m.die (elem.toNat / (if p.index = 0x2000 then 4096 else 4160))).run = .stopped →
      Completes s (.ringReadAbort ses seq elem) (s.m.respond n p 0x1C elem.toNat []))

/-- R485, R474: what a GET of one object finds: no object, a role that its class or its own list does not let read, a write-only
object, an element of a stopped die. -/
def Rule.ReadRights : Prop :=
  ∀ (m : Mod) (ses i : Nat) (t : Nat × Nat),
    (m.obj? ses i t.1 t.2 = none → m.readBad ses i t = 0x14) ∧
    (∀ x, m.obj? ses i t.1 t.2 = some x →
      (m.readBad ses i t = 0 ↔ (m.ksess ses).role ∈ x.who ∧ (m.ksess ses).role ≤ 3 ∧
        (x.cls = .o → (m.ksess ses).role = 1 ∨ (m.ksess ses).role = 2) ∧ x.acc ≠ .wo ∧ m.stoppedAt i t.2 = false))

/-- R467, R481: SUBSCRIBE makes a subscription under the next number and answers that number; a ninth of a session or a 257th of the
module is refused; UNSUBSCRIBE ends the subscription that its SUB and ELEM[15:0] name (log entry 54); a value subscription whose period has passed is sent its values,
without a read-clear, and is due again after its period. -/
def Rule.Subscriptions : Prop :=
  ∀ (s : State) (ses seq : BitVec 32) (p : Pdu) (sig : Bool),
    let n := ses.toNat
    let x := s.m.ksess n
    let r := s.m.subOf n p.value
    let no := (s.m.kop.subNo + 1) % 65536
    let named := 65536 * p.sub + p.elem % 65536
    let m := s.m.setKsess n { x with subs := x.subs ++ [{ r.2 with no := no }] }
    (s.m.waits ses seq p sig → p.op = 5 → s.m.pow.state ≠ .kindling →
      (r.1 ≠ 0 → Completes s (.subscribe ses seq) (s.m.respond n p r.1 0 [])) ∧
      (r.1 = 0 → 8 ≤ x.subs.length ∨ 256 ≤ s.m.subCount → Completes s (.subscribe ses seq) (s.m.respond n p 0x1F 0 [])) ∧
      (r.1 = 0 → x.subs.length < 8 → s.m.subCount < 256 → Completes s (.subscribe ses seq)
        (Mod.respond { m with kop := { m.kop with subNo := no } } n p 0 0 (beBytes 2 no)))) ∧
    (s.m.waits ses seq p sig → p.op = 6 → s.m.pow.state ≠ .kindling →
      ((∃ v ∈ x.subs, v.no = named) → Completes s (.unsubscribe ses seq)
        ((s.m.setKsess n { x with subs := x.subs.filter fun v => v.no ≠ named }).respond n p 0 0 [])) ∧
      ((∀ v ∈ x.subs, v.no ≠ named) → Completes s (.unsubscribe ses seq) (s.m.respond n p 0x14 0 []))) ∧
    (∀ (k : BitVec 16) (u : KSub), x.subs.find? (fun u => u.no = k.toNat && u.values) = some u → s.m.answers = true →
      let good := u.addrs.filter fun a => s.m.readBad n a.1 (a.2.1, a.2.2) = 0
      let v := good.flatMap fun a => ((s.m.obj? n a.1 a.2.1 a.2.2).map Obj.val).getD []
      let gap := u.gap || decide (good.length ≠ u.addrs.length)
      (s.m.tick.now < u.next → Completes s (.subscriptionDelivery ses k) s.m) ∧
      (u.next ≤ s.m.tick.now → ∃ w : KSub, w.gap = false ∧ w.no = u.no ∧ w.period = u.period ∧ w.addrs = u.addrs ∧
        (0 < u.period → s.m.tick.now < w.next) ∧ w.next ≤ s.m.tick.now + 1000000 * u.period ∧
        Completes s (.subscriptionDelivery ses k) ((s.m.setKsess n { x with
          subs := x.subs.map fun y => if y.no = u.no then w else y }).originate n 7 0 0 (some u.no)
            (beBytes 2 u.no ++ beBytes 1 (b2n gap) ++ v))))

/-! ### Commands -/

/-- The commands with their index, the roles of R479, whether their own rule judges them in Fault (R486), and the bytes that their argument has
must have. RESET, whose acceptance ends every session, EXPORT, whose length depends on its argument, and ATTEST, which waits for a zeroisation, have statements of their own. -/
def commandTable (ses seq : BitVec 32) (b : Bool) : List (Instr × Nat × List Nat × Bool × Nat) :=
  [
    (.stage ses seq, 0x1400, [2], false, 19), (.load ses seq, 0x1401, [2], false, 1), (.start ses seq, 0x1402, [2], false, 8),
    (.stop ses seq, 0x1403, [2], false, 8), (.unload ses seq, 0x1404, [2], false, 0), (.importCmd ses seq, 0x1406, [2], false, 18),
    (.digestNow ses seq, 0x1407, [2], false, 0), (.declareLost ses seq, 0x1408, [1], false, 2),
    (.replace ses seq, 0x1409, [2], false, 18), (.capture ses seq, 0x140A, [2], false, 14),
    (.hostQpCreate ses seq, 0x140B, [1], false, 24), (.hostQpDestroy ses seq, 0x140C, [1], false, 2),
    (.ringCreate ses seq, 0x140D, [1], false, 15), (.ringDestroy ses seq, 0x140E, [1], false, 2),
    (.hbmRetire ses seq, 0x140F, [3], true, 2), (.hbmReturn ses seq, 0x1410, [3], true, 1),
    (.flashDieRetire ses seq, 0x1411, [3], true, 1), (.columnRetire ses seq b, 0x1412, [3], true, 2),
    (.bind ses seq b, 0x1413, anyRole, true, 265), (.unbind ses seq, 0x1414, [2], true, 0),
    (.jobKeySet ses seq b, 0x1416, [2], false, 189), (.jobKeyClear ses seq, 0x1417, [2], false, 0),
    (.debugChallenge ses seq, 0x1418, [3], true, 0), (.debugUnlock ses seq b, 0x1419, [3], true, 265),
    (.debugLock ses seq, 0x141A, [2, 3], true, 0), (.zeroise ses seq, 0x141B, [2], true, 0),
    (.fwUpdate ses seq, 0x141C, [2, 3], true, 18), (.scanOpen ses seq, 0x1421, [3], true, 0),
    (.scanClose ses seq, 0x1422, [3], true, 0), (.selftestRun ses seq, 0x1423, [3], true, 1),
    (.laneTest ses seq, 0x1424, [3], true, 4)]

/-- R478, R479, R485, R486: an invocation is answered with KOP_BAD_PDU where COUNT is not 1, KOP_STATE in Kindling and, but for the commands that R486 names,
in Fault, KOP_ACCESS for another role, KOP_SIG where the Owner's signature does not verify, KOP_BUSY while the command is busy, KOP_TYPE
where the argument has another length; a command refused so changes nothing but its session. -/
def Rule.CommandChecks : Prop :=
  ∀ (s : State) (ses seq : BitVec 32) (b : Bool) (c : Instr) (i : Nat) (roles : List Nat) (inFault : Bool) (n : Nat) (p : Pdu) (sig : Bool),
    (c, i, roles, inFault, n) ∈ commandTable ses seq b → s.m.waits ses seq p sig → p.op = 4 → p.index = i → p.sub = 1 →
    let role := (s.m.ksess ses.toNat).role
    let no := fun (code : Nat) => s.m.respond ses.toNat p code 0 []
    let stateOk := s.m.pow.state ≠ .kindling ∧ (s.m.pow.state = .fault → inFault = true)
    let sigOk := role = 2 → roles ≠ anyRole → sig = true
    (p.count ≠ 1 → Completes s c (no 0x10)) ∧
    (p.count = 1 → ¬ stateOk → Completes s c (no 0x1B)) ∧
    (p.count = 1 → stateOk → role ∉ roles → Completes s c (no 0x13)) ∧
    (p.count = 1 → stateOk → role ∈ roles → ¬ sigOk → Completes s c (no 0x12)) ∧
    (p.count = 1 → stateOk → role ∈ roles → sigOk → s.m.cmdBusy i = true → Completes s c (no 0x1A)) ∧
    (p.count = 1 → stateOk → role ∈ roles → sigOk → s.m.cmdBusy i = false → p.value.length ≠ n → Completes s c (no 0x15))

/-- R478, R470: what an answered command leaves: its outcome in its LAST objects, its response on the wire, the request no longer waiting. -/
def Rule.CommandOutcome : Prop :=
  ∀ (m : Mod) (ses : BitVec 32) (i : Nat) (p : Pdu) (status detail : Nat) (result : List Byte),
    (m.ksess ses.toNat).live = true →
    let t := m.cmdEnds ses i p status detail result
    let b := { p with version := 1, signed := false, resp := true, status := status, detail := detail, len := result.length, value := result }
    (t.cmd i).busy = false ∧ (t.cmd i).status = status ∧ (t.cmd i).detail = detail ∧ (t.cmd i).result = result ∧
    (∀ j, j ≠ i → t.cmd j = m.cmd j) ∧
    (t.ksess ses.toNat).reqs = (m.ksess ses.toNat).reqs.filter (fun q => q.seq ≠ p.seq) ∧
    t.eth.wire = m.eth.wire ++ [.kop ses.toNat (Pdu.bytes b)] ∧
    t.hbm = m.hbm ∧ t.grid = m.grid ∧ t.cord = m.cord ∧ t.train = m.train ∧ t.pow = m.pow

/-- R478: an accepted command's final outcome: LAST_STATUS, LAST_DETAIL and LAST_RESULT hold it, the command is no longer busy, and a RESULT goes
to its session while that is open; a command that is not busy has none. -/
def Rule.FinalOutcome : Prop :=
  ∀ (m : Mod) (i status detail : Nat) (result : List Byte),
    let c := m.cmd i
    let d := m.setCmd i { status := status, detail := detail, result := result, ses := c.ses }
    (c.busy = false → m.finish i status detail result = m) ∧
    (c.busy = true → (m.ksess c.ses).live = false → m.finish i status detail result = d) ∧
    (c.busy = true → (m.ksess c.ses).live = true → m.finish i status detail result = d.originate c.ses 8 status detail none result i)

/-- R453, R215, R216, R279, R448: STAGE refuses a slot or a length that does not exist, a context not in use, a slot of a die that does not
run, an installed slot; else the slot is being fetched, over a module-pool context: the named one, or a free one toward the far end of the
named queue pair. A slot that a load is checking is busy (log entry 55). The fetch's end stages the bytes, or, where it has failed, no context serves it or its queue pair
has completed in error, empties the slot with STAGE_FETCH; a context that it took is free again. -/
def Rule.StageFetches : Prop :=
  ∀ (s : State) (ses seq : BitVec 32) (p : Pdu),
    let n := beNat (p.value.take 1)
    let len := beNat (p.value.drop 15)
    let ctx := beNat ((p.value.drop 1).take 2)
    let q := s.m.qp ctx
    let c := Instr.stage ses seq
    let no := fun (code : Nat) => s.m.cmdEnds ses 0x1400 p code
    let there := n ≤ 1 ∧ 1 ≤ len ∧ len ≤ 268435456 ∧ q.run ≠ .free
    let used := s.m.cord.inst = some n ∨ s.m.cord.succ = some n
    let checked := ∃ l, s.m.cord.load = some l ∧ l.slot = n
    let goes := fun (m : Mod) => Completes s c (m.cmdGoes ses 0x1400 p (s.m.cmd 0x1400))
    let on := fun (m : Mod) (k : Nat) => (m.setSlot n { st := .fetching, ctx := k }).rdmaIn k (byteN p.value 3 4) (byteN p.value 7 8) len
    (s.m.invokes ses seq 0x1400 [2] false p → p.value.length = 19 →
      (¬ there → Completes s c (no 0xF05)) ∧
      (there → s.m.dieRuns n = false → Completes s c (no 0xF06)) ∧
      (there → s.m.dieRuns n = true → used → Completes s c (no 0xF07)) ∧
      (there → s.m.dieRuns n = true → ¬ used → checked → Completes s c (no 0x1A)) ∧
      (there → s.m.dieRuns n = true → ¬ used → ¬ checked →
        (ctx < 1024 → goes (on s.m ctx)) ∧
        (∀ k, 1024 ≤ ctx → s.m.freeCtx 0 1024 = some k →
          goes (on (s.m.setQp k { run := q.run, gid := q.gid, qpn := q.qpn, paths := q.paths }) k)) ∧
        (1024 ≤ ctx → s.m.freeCtx 0 1024 = none → goes (s.m.setSlot n { st := .fetching, ctx := 65536 })))) ∧
    (let a := (s.m.cmd 0x1400).arg
     let k := beNat (a.take 1)
     let x := s.m.slot k
     let lost := 1024 ≤ x.ctx ∨ (s.m.qp x.ctx).run ≠ .ready
     let own := x.ctx ≠ byteN a 1 2 ∧ x.ctx < 1024
     let d : Mod := if own then { s.m with eth := { s.m.eth with qps := s.m.eth.qps.filter fun e => e.1 ≠ x.ctx } } else s.m
     let empty := (d.setSlot k {}).finish 0x1400 0xF08 0 []
     ((s.m.cmd 0x1400).busy = false ∨ x.st ≠ .fetching → ∀ o, Completes s (.cordFetchDone o) s.m) ∧
     ((s.m.cmd 0x1400).busy = true → x.st = .fetching →
      Completes s (.cordFetchDone none) empty ∧
      ∀ b, Completes s (.cordFetchDone (some b)) (if lost then empty else
        (d.setSlot k { st := .staged, bytes := b.take (beNat (a.drop 15)) }).finish 0x1400 0 0 [])))

/-- R215, R216, R218, R219, R220, R279, R557: LOAD refuses while scan is open, and with CMD_ARG the installed cord's slot and a slot of a
running die without a staged cord; another slot without a staged cord is LD_DIE. A staged cord is refused, in the order of the codes, with
LD_STATE in a state that takes no cord, LD_BUSY while a load or a switch is in progress, LD_DIE with sub-code 0x01 on a die that does not
run: each raises LOAD_REJECT and marks the slot rejected, but for an empty slot and that of a successor on its switch (log entry 118);
else the loader's checks follow. -/
def Rule.LoadAccepted : Prop :=
  ∀ (s : State) (ses seq : BitVec 32) (p : Pdu),
    let n := beNat p.value
    let c := Instr.load ses seq
    let x := s.m.slot n
    let busy := s.m.cord.load.isSome = true ∨ s.m.cord.succ.isSome = true
    let other := n ≤ 1 ∧ s.m.cord.inst ≠ some n
    let marked := fun (code : Nat) => if x.st = .empty ∨ s.m.cord.succ = some n then s.m
      else s.m.setSlot n { x with st := .rejected, reason := code }
    let no := fun (code detail : Nat) => ((marked code).event 0x8102 detail code).cmdEnds ses 0x1401 p code detail
    let ld : LoadSt := { slot := n, case := (s.m.loadCase x.bytes).getD 0, rnd := s.m.kop.rnd, tick := s.m.tick.cnt.toNat }
    s.m.invokes ses seq 0x1401 [2] false p → p.value.length = 1 →
    (s.m.tst.scan.isSome = true → Completes s c (s.m.cmdEnds ses 0x1401 p 0x1204)) ∧
    (s.m.tst.scan = none → ¬ other ∨ (s.m.dieRuns n = true ∧ x.st ≠ .staged) → Completes s c (s.m.cmdEnds ses 0x1401 p 0xF05)) ∧
    (s.m.tst.scan = none → other → s.m.dieRuns n = false → x.st ≠ .staged → Completes s c (no 0x204 (0x1000000 + n))) ∧
    (s.m.tst.scan = none → other → x.st = .staged → s.m.loadCase x.bytes = none → Completes s c (no 0x108 s.m.pow.state.num)) ∧
    (s.m.tst.scan = none → other → x.st = .staged → s.m.loadCase x.bytes ≠ none →
      (busy → Completes s c (no 0x109 0)) ∧
      (¬ busy → s.m.dieRuns n = false → Completes s c (no 0x204 (0x1000000 + n))) ∧
      (¬ busy → s.m.dieRuns n = true → Completes s c
        (Mod.cmdGoes { s.m with cord := { s.m.cord with load := some ld } } ses 0x1401 p (s.m.cmd 0x1401))))

/-- R204, R217 to R221, R234, R299: the checks of a load end, whatever the command says of the cord's signature, which is verified from its
bytes: a cord that fails one is rejected with that code, and the installed cord stays as it is; one that passes them
is installed, as the first, begins to switch in, or replaces its predecessor at once, by its case of R215; while a set retires nothing ends. -/
def Rule.LoadEnds : Prop :=
  ∀ (s : State) (sigOk : Bool) (l : LoadSt),
    let m : Mod := { s.m with cord := { s.m.cord with load := none } }
    let c := Instr.loadChecksDone sigOk
    s.m.cord.load = some l →
    (s.m.hbm.ret.isSome = true → Completes s c s.m) ∧
    (∀ code d, s.m.hbm.ret = none → s.m.loadCheck l.slot = some (code, d) →
      Completes s c ((m.reject l.slot code d).finish 0x1401 code d []) ∧
      (((m.reject l.slot code d).finish 0x1401 code d []).cord.inst = s.m.cord.inst)) ∧
    (s.m.hbm.ret = none → s.m.loadCheck l.slot = none →
      (m.loadCase (m.slot l.slot).bytes = some 1 → Completes s c ((m.installFirst l.slot l.rnd).finish 0x1401 0 0 [])) ∧
      (m.loadCase (m.slot l.slot).bytes = some 2 → Completes s c ((m.beginSwitch l.slot l.rnd l.tick).finish 0x1401 0 0 [])) ∧
      (m.loadCase (m.slot l.slot).bytes = some 3 → Completes s c ((m.installNext l.slot l.rnd).finish 0x1401 0 0 [])))

/-- R238 to R241: a hearth that predecessor or successor places switches once its part has drained, not twice, and not while a voided step's rerun holds the switch back; with the last one the successor is the
installed cord; when HANDOVER ticks have passed before, both cords stop at the end of the tick. -/
def Rule.SwitchByHearth : Prop :=
  ∀ (s : State) (h : BitVec 13) (n : Nat),
    s.m.cord.succ = some n →
    (s.m.cord.holdOff.isSome = true ∨ s.m.cord.switched.contains h.toNat = true ∨ s.m.switchSet.contains h.toNat = false ∨ s.m.coresRun = false ∨ s.m.maySwitch h.toNat = false →
      Completes s (.hearthSwitch h) s.m) ∧
    (s.m.cord.holdOff = none → s.m.cord.switched.contains h.toNat = false → s.m.switchSet.contains h.toNat = true → s.m.coresRun = true → s.m.maySwitch h.toNat = true →
      Completes s (.hearthSwitch h) (s.m.switchHearth h.toNat).switchDone) ∧
    (s.m.cord.handLeft ≠ 0 ∨ s.m.train.stop.isSome = true → Completes s .switchTimeout s.m) ∧
    (s.m.cord.handLeft = 0 → s.m.train.stop = none → ∃ t, Completes s .switchTimeout t ∧ t.train.stop = some { code := 0x8104, clear := true } ∧
      t.train.step = s.m.train.step ∧ t.log.next = s.m.log.next + 1 ∧
      ∃ e ∈ t.log.ring, e.code = 0x8104 ∧ e.d1 = s.m.train.step % 2 ^ 64 ∧ e.seq = s.m.log.next)

/-- R221, R379, R407, R480: START, STOP and UNLOAD, with their refusals. -/
def Rule.StartStopUnload : Prop :=
  ∀ (s : State) (ses seq : BitVec 32) (p : Pdu),
    let v := beNat p.value
    (s.m.invokes ses seq 0x1402 [2] false p → p.value.length = 8 →
      let c := Instr.start ses seq
      let no := fun (code : Nat) => s.m.cmdEnds ses 0x1402 p code
      let past := s.m.tick.src ≠ 0 ∧ v < s.m.tick.cnt.toNat + 2
      let apart := cSingle s.m.img = false ∧ s.m.clus.pair ≠ .paired ∧ s.m.clus.pair ≠ .widowed
      (s.m.tst.scan.isSome = true → Completes s c (no 0x1204)) ∧
      (s.m.tst.scan = none → s.m.cord.inst = none → Completes s c (no 0xF02)) ∧
      (s.m.tst.scan = none → s.m.cord.inst ≠ none →
        (s.m.pow.state ≠ .damped ∨ s.m.train.asked = true → Completes s c (no 0xF03)) ∧
        (s.m.pow.state = .damped → s.m.train.asked = false →
          (past → Completes s c (no 0xC01)) ∧
          (¬ past → s.m.tick.src = 1 → s.m.tick.locked = false → Completes s c (no 0xC02)) ∧
          (¬ past → (s.m.tick.src = 1 → s.m.tick.locked = true) → apart →
            Completes s c ((s.m.event 0x8501 (s.m.partner.getD 0) 0xD06).cmdEnds ses 0x1402 p 0xD06)) ∧
          (¬ past → (s.m.tick.src = 1 → s.m.tick.locked = true) → ¬ apart → ∃ t, Completes s c t ∧ t.train.asked = true ∧
            t.train.startAt = (if s.m.tick.src = 0 then none else some v) ∧ (t.cmd 0x1402).status = 0)))) ∧
    (s.m.invokes ses seq 0x1403 [2] false p → p.value.length = 8 →
      let c := Instr.stop ses seq
      let no := fun (code : Nat) => s.m.cmdEnds ses 0x1403 p code
      let past := v ≤ s.m.train.last ∨ (s.m.train.stopAt ≠ 0 ∧ v ≤ s.m.train.stopAt)
      (s.m.cord.inst = none → Completes s c (no 0xF02)) ∧
      (s.m.cord.inst ≠ none → s.m.pow.state ≠ .running → Completes s c (no 0xF03)) ∧
      (s.m.cord.inst ≠ none → s.m.pow.state = .running → past → Completes s c (no 0xF01)) ∧
      (s.m.cord.inst ≠ none → s.m.pow.state = .running → ¬ past →
        Completes s c (Mod.cmdEnds { s.m with train := { s.m.train with stopAt := v } } ses 0x1403 p 0))) ∧
    (s.m.invokes ses seq 0x1404 [2] false p → p.value.length = 0 →
      let c := Instr.unload ses seq
      let no := fun (code : Nat) => s.m.cmdEnds ses 0x1404 p code
      (s.m.cord.inst = none → Completes s c (no 0xF02)) ∧
      (s.m.cord.inst ≠ none → s.m.pow.state ≠ .damped → Completes s c (no 0xF03)) ∧
      (s.m.cord.inst ≠ none → s.m.pow.state = .damped → Completes s c (s.m.uninstall.cmdEnds ses 0x1404 p 0)))

/-- R480: after UNLOAD no cord is installed, the module is as Damped as before, and the bytes of HBM are as they were. -/
def Rule.UnloadLeaves : Prop :=
  ∀ m : Mod, m.uninstall.cord.inst = none ∧ m.uninstall.cord.succ = none ∧ m.uninstall.hbm.mem = m.hbm.mem ∧
    m.uninstall.pow.state = m.pow.state ∧ m.uninstall.train.asked = false

/-! ### Commands that act on state and memory -/

/-- R351, R480, R514: EXPORT refuses without a cord or a committed state, for an entry that does not exist or is not an owned shard, while
another runs, for a content of none or more than three parts, on a context that is free, without a job key or with a worn one; else every
record whose bytes can be read goes out, the others wait, and the settle waits for it. The last record sent, the settle goes on and the
outcome is 0. -/
def Rule.Export : Prop :=
  ∀ (s : State) (ses seq : BitVec 32) (p : Pdu),
    let a := p.value
    let content := byteN a 0 1
    let names := idxList (byteN a 15 2) (a.drop 17)
    let known := ∀ i ∈ names, i < s.m.shards.length
    let owned := ∀ i ∈ names, isShard (nth 0 s.m.shards i) = true ∧ shOwner (nth 0 s.m.shards i) = s.m.self
    let shs := if names.isEmpty then s.m.owned else names.map fun i => nth 0 s.m.shards i
    let c := Instr.exportCmd ses seq
    let no := fun (code : Nat) => s.m.cmdEnds ses 0x1405 p code
    let q := s.m.expReqs (byteN a 1 2) (byteN a 3 4) (byteN a 7 8) content false shs
    let w := s.m.exportPump
    (s.m.invokes ses seq 0x1405 [2] false p → 17 ≤ a.length → a.length = 17 + 2 * byteN a 15 2 →
      (s.m.cord.inst = none → Completes s c (no 0xF02)) ∧
      (s.m.cord.inst ≠ none → s.m.train.haveState = false → Completes s c (no 0xB01)) ∧
      (s.m.cord.inst ≠ none → s.m.train.haveState = true →
        (¬ known → Completes s c (no 0xF05)) ∧
        (known → ¬ owned → Completes s c (no 0xB02)) ∧
        (known → owned → s.m.stateBusy = true → Completes s c (no 0xB03)) ∧
        (known → owned → s.m.stateBusy = false → content = 0 ∨ 7 < content → Completes s c (no 0xB04)) ∧
        (known → owned → s.m.stateBusy = false → 1 ≤ content → content ≤ 7 →
          ((s.m.qp (byteN a 1 2)).run = .free → Completes s c (no 0xF05)) ∧
          ((s.m.qp (byteN a 1 2)).run ≠ .free →
            (s.m.sec.job = none → Completes s c (no 0x1009)) ∧
            (s.m.sec.job ≠ none → s.m.canSeal = false → Completes s c (no 0x100A)) ∧
            (s.m.sec.job ≠ none → s.m.canSeal = true → Completes s c (Mod.cmdGoes (Mod.exportPump { s.m with
              hbm := { s.m.hbm with pinned := s.m.hbm.pinned ++ s.m.pinsOf shs },
              train := { s.m.train with exports := s.m.train.exports ++ q } }) ses 0x1405 p (s.m.cmd 0x1405))))))) ∧
    ((s.m.cmd 0x1405).busy = false → Completes s .exportDone s.m) ∧
    ((s.m.cmd 0x1405).busy = true → (∃ x ∈ w.train.exports, x.ck = false) → Completes s .exportDone w) ∧
    ((s.m.cmd 0x1405).busy = true → (∀ x ∈ w.train.exports, x.ck = true) →
      Completes s .exportDone ((Mod.runSettle { w with hbm := { w.hbm with pinned := [] } }).finish 0x1405 0 0 []))

/-- R353, R480, R515, R428: IMPORT refuses without a cord or while not Damped, while another runs, on a free context; it is accepted else.
Its end waits while the memory of an owned shard stands on a die that does not run; a check that fails changes no state and gives its code
and record; when every check passes the module holds the manifest's step as committed and the next as current. -/
def Rule.Import : Prop :=
  ∀ (s : State) (ses seq : BitVec 32) (p : Pdu),
    let c := Instr.importCmd ses seq
    let no := fun (code : Nat) => s.m.cmdEnds ses 0x1406 p code
    (s.m.invokes ses seq 0x1406 [2] false p → p.value.length = 18 →
      (s.m.cord.inst = none → Completes s c (no 0xF02)) ∧
      (s.m.cord.inst ≠ none → s.m.pow.state ≠ .damped → Completes s c (no 0xB11)) ∧
      (s.m.cord.inst ≠ none → s.m.pow.state = .damped → s.m.stateBusy = true → Completes s c (no 0xB03)) ∧
      (s.m.cord.inst ≠ none → s.m.pow.state = .damped → s.m.stateBusy = false → (s.m.qp (byteN p.value 0 2)).run = .free →
        Completes s c (no 0xF05)) ∧
      (s.m.cord.inst ≠ none → s.m.pow.state = .damped → s.m.stateBusy = false → (s.m.qp (byteN p.value 0 2)).run ≠ .free →
        Completes s c ((s.m.rdmaIn (byteN p.value 0 2) (byteN p.value 2 4) (byteN p.value 6 8) (byteN p.value 14 4)).cmdGoes ses 0x1406 p
          (s.m.cmd 0x1406)))) ∧
    (∀ (man : List Byte) (ok : Bool) (recs : List (List Byte × Bool)),
      let d := Instr.importDone man ok recs
      let n := slice (leNat ((envBody man).take 128)) 191 128
      let on := ∀ sh ∈ s.m.owned, s.m.copyOn (s.m.ownCopy sh) = true
      ((s.m.cmd 0x1406).busy = false ∨ ¬ on → Completes s d s.m) ∧
      (∀ q, (s.m.cmd 0x1406).busy = true → on → s.m.importBad man ok recs = some q → Completes s d (s.m.finish 0x1406 q.1 q.2 [])) ∧
      ((s.m.cmd 0x1406).busy = true → on → s.m.importBad man ok recs = none → ∃ t, Completes s d t ∧ t.train.last = n ∧
        t.train.step = n + 1 ∧ t.train.haveState = true ∧ t.hbm.side = s.m.hbm.side ∧ (t.cmd 0x1406).busy = false ∧
        (t.cmd 0x1406).status = 0))

/-- R353 action 3: after an import the bias product of n updates is β multiplied n times, each product rounded. -/
def Rule.ImportedBias : Prop :=
  ∀ (b : Word) (n : Nat), mulTimes b 0 0x3F800000#32 = 0x3F800000#32 ∧
    mulTimes b (n + 1) 0x3F800000#32 = f32mul (mulTimes b n 0x3F800000#32) b

/-- R414, R418 to R420: DIGEST_NOW asks for a digest round, the only thing that it changes. DECLARE_LOST of a rank of the job that is not lost puts it into the
lost set, counts and logs it, and leaves what follows to the next boundary, whatever the quorum (R419); of a lost rank it changes nothing; naming this
module it makes it depart and stop. Without a cord or beyond the job's ranks both are refused. -/
def Rule.DigestAndLoss : Prop :=
  ∀ (s : State) (ses seq : BitVec 32) (p : Pdu),
    (s.m.invokes ses seq 0x1407 [2] false p → p.value.length = 0 →
      (s.m.cord.inst = none → Completes s (.digestNow ses seq) (s.m.cmdEnds ses 0x1407 p 0xF02)) ∧
      (s.m.cord.inst ≠ none → Completes s (.digestNow ses seq)
        (Mod.cmdEnds { s.m with clus := { s.m.clus with digDue := true } } ses 0x1407 p 0))) ∧
    (s.m.invokes ses seq 0x1408 [1] false p → p.value.length = 2 →
      let r := beNat p.value
      let k := s.m.clus
      (s.m.cord.inst = none ∨ s.m.nmod ≤ r → Completes s (.declareLost ses seq) (s.m.cmdEnds ses 0x1408 p 0xF05)) ∧
      (s.m.cord.inst ≠ none → r < s.m.nmod → r ≠ s.m.self → r ∈ k.lost → Completes s (.declareLost ses seq) (s.m.cmdEnds ses 0x1408 p 0)) ∧
      (s.m.cord.inst ≠ none → r < s.m.nmod → r ≠ s.m.self → r ∉ k.lost → ∃ t : Mod, Completes s (.declareLost ses seq) (t.cmdEnds ses 0x1408 p 0) ∧
        t.clus.lost = k.lost ++ [r] ∧ t.clus.lossCnt = k.lossCnt + 1 ∧ t.clus.lossLog = k.lossLog ++ [(r, s.m.tick.now)] ∧
        t.clus.lossDue = k.lossDue ++ [r] ∧ t.train.running = s.m.train.running ∧ t.train.attempt = s.m.train.attempt ∧
        t.train.step = s.m.train.step ∧ t.hbm = s.m.hbm ∧ t.grid = s.m.grid ∧ t.cord = s.m.cord) ∧
      (s.m.cord.inst ≠ none → r < s.m.nmod → r = s.m.self → ∃ t : Mod, Completes s (.declareLost ses seq) (t.cmdEnds ses 0x1408 p 0) ∧
        t.clus.departed = true ∧ t.clus.lost = k.lost ∧ (s.m.train.stop = none → t.train.stop = some { code := 0x8506, clear := false }) ∧
        t.hbm = s.m.hbm ∧ t.grid = s.m.grid))

/-- R424: REPLACE without a cord is refused; on a survivor it needs a rank of the cord that is lost and waits for its repair, under the MODULE_ID that it had; a cord of phase 1 refuses it; else the rank is back with its
new MODULE_ID: its partner and the replacement itself pair, every other module casts its restart vote, once no rank is lost and no pairing of its own runs. -/
def Rule.Replacement : Prop :=
  ∀ (s : State) (ses seq : BitVec 32) (p : Pdu),
    let r := byteN p.value 0 2
    let c := Instr.replace ses seq
    let no := fun (code : Nat) => s.m.cmdEnds ses 0x1409 p code
    let mine := r = s.m.self ∨ (s.m.clus.lost.contains r = true ∧ s.m.clus.repair = true)
    s.m.invokes ses seq 0x1409 [2] false p → p.value.length = 18 →
    (s.m.cord.inst = none → Completes s c (no 0xD11)) ∧ (s.m.cord.inst ≠ none →
    (s.m.nmod ≤ r → Completes s c (no 0xF05)) ∧
    (r < s.m.nmod → ¬ (mine ∧ s.m.idOf r = byteN p.value 2 8) → Completes s c (no 0xD11)) ∧
    (r < s.m.nmod → mine → s.m.idOf r = byteN p.value 2 8 → cPhase s.m.img = 1 → Completes s c (no 0xD12)) ∧
    (r < s.m.nmod → mine → s.m.idOf r = byteN p.value 2 8 → cPhase s.m.img ≠ 1 →
      let k := { s.m.clus with ids := tSet 0 s.m.clus.ids r (byteN p.value 10 8), lost := s.m.clus.lost.filter (· ≠ r),
                               badQps := s.m.clus.badQps.filter (· ≠ r) }
      let m := Mod.openSessions { s.m with clus := k }
      (r = s.m.self → Completes s c ((Mod.pairStart { m with clus := { m.clus with repl := true } }).cmdEnds ses 0x1409 p 0)) ∧
      (r ≠ s.m.self → m.partner = some r → Completes s c (m.pairStart.cmdEnds ses 0x1409 p 0)) ∧
      (r ≠ s.m.self → m.partner ≠ some r → m.clus.lost ≠ [] ∨ m.clus.pair = .pairing → Completes s c (m.cmdEnds ses 0x1409 p 0)) ∧
      (r ≠ s.m.self → m.partner ≠ some r → m.clus.lost = [] → m.clus.pair ≠ .pairing → Completes s c
        ((Mod.restartVote { m with clus := { m.clus with repair := false } }).cmdEnds ses 0x1409 p 0))))

/-- R247: CAPTURE checks its entry, its groups, its ticks and the room past its offset, in this order, and is then armed for as many ticks as it names. -/
def Rule.Capture : Prop :=
  ∀ (s : State) (ses seq : BitVec 32) (p : Pdu),
    let a := p.value
    let hv := byteN a 0 2
    let off := byteN a 2 8
    let g := byteN a 10 1
    let ng := byteN a 11 1
    let n := byteN a 12 2
    let e := nth 0 s.m.hostvis hv
    let entry := hv < s.m.hostvis.length ∧ slice e 3 0 = 1 ∧ slice (nth 0 s.m.hbmmap (slice e 19 4)) 11 4 = 0xC ∧ 1 ≤ ng ∧ g + ng ≤ 128
    let c := Instr.capture ses seq
    s.m.invokes ses seq 0x140A [2] false p → a.length = 14 →
    (¬ entry → Completes s c (s.m.cmdEnds ses 0x140A p 0xF05)) ∧
    (entry → n = 0 ∨ 4096 < n → Completes s c (s.m.cmdEnds ses 0x140A p 0x16)) ∧
    (entry → 1 ≤ n → n ≤ 4096 → (s.m.hvRegion e).2 < off + 14336 * ng * n → Completes s c (s.m.cmdEnds ses 0x140A p 0xF04)) ∧
    (entry → 1 ≤ n → n ≤ 4096 → off + 14336 * ng * n ≤ (s.m.hvRegion e).2 → Completes s c (Mod.cmdEnds { s.m with
      hbm := { s.m.hbm with capture := some { hv := hv, off := off, g0 := g, ng := ng, left := n } } } ses 0x140A p 0))

/-- R448, R449: HOST_QP_CREATE for a listed host takes the lowest free context of the host pool, ready, with the host's queue pair number and the PSN it expects, and answers the
context, its number and its own first PSN; a host that is not listed is refused. HOST_QP_DESTROY frees one. -/
def Rule.HostQueuePairs : Prop :=
  ∀ (s : State) (ses seq : BitVec 32) (p : Pdu),
    let gid := BitVec.ofNat 128 (beNat (p.value.take 16))
    let c := Instr.hostQpCreate ses seq
    (s.m.invokes ses seq 0x140B [1] false p → p.value.length = 24 →
      (gid ∉ s.m.sec.hosts → Completes s c (s.m.cmdEnds ses 0x140B p 0xE04)) ∧
      (gid ∈ s.m.sec.hosts → s.m.freeCtx 1024 2048 = none → Completes s c (s.m.cmdEnds ses 0x140B p 0xE03)) ∧
      (∀ k, gid ∈ s.m.sec.hosts → s.m.freeCtx 1024 2048 = some k → ∃ t psn, Completes s c t ∧ 1024 ≤ k ∧ k < 2048 ∧ psn < 2 ^ 24 ∧
        (t.qp k).run = .ready ∧ (t.qp k).gid = gid ∧ (t.qp k).qpn = byteN p.value 16 4 ∧ (t.qp k).psn = BitVec.ofNat 24 psn ∧
        (t.qp k).epsn = BitVec.ofNat 24 (byteN p.value 20 4) ∧ (∀ j, j ≠ k → t.qp j = s.m.qp j) ∧
        (t.cmd 0x140B).result = beBytes 2 k ++ beBytes 4 k ++ beBytes 4 psn ∧ (t.cmd 0x140B).status = 0)) ∧
    (s.m.invokes ses seq 0x140C [1] false p → p.value.length = 2 →
      (s.m.hostQp (beNat p.value) = false → Completes s (.hostQpDestroy ses seq) (s.m.cmdEnds ses 0x140C p 0xF05)) ∧
      (s.m.hostQp (beNat p.value) = true → Completes s (.hostQpDestroy ses seq)
        ((s.m.endHostQp (beNat p.value)).cmdEnds ses 0x140C p 0)))

/-- R455, R463: RING_CREATE checks its channel, its context, its entries, base and region, and makes the ring: live, empty, on its channel and context; RING_DESTROY ends one. -/
def Rule.Rings : Prop :=
  ∀ (s : State) (ses seq : BitVec 32) (p : Pdu),
    let a := p.value
    let base := byteN a 0 8
    let n := byteN a 8 4
    let ch := byteN a 12 1
    let x := byteN a 13 2
    let lies := s.m.hostvis.any fun e =>
      slice e 3 0 = 1 && bitAt e 22 && decide ((s.m.hvRegion e).1 ≤ base ∧ base + 64 * n ≤ (s.m.hvRegion e).1 + (s.m.hvRegion e).2)
    let good := ringEnts n = true ∧ base % 64 = 0 ∧ lies = true
    let c := Instr.ringCreate ses seq
    let no := fun (code : Nat) => s.m.cmdEnds ses 0x140D p code
    (s.m.invokes ses seq 0x140D [1] false p → a.length = 15 →
      (32 ≤ ch → Completes s c (no 0xF05)) ∧
      (28 ≤ ch → ch < 32 → Completes s c (no 0xE05)) ∧
      (ch < 28 → s.m.hostQp x = false → Completes s c (no 0xF05)) ∧
      (ch < 28 → s.m.hostQp x = true → ¬ good → Completes s c (no 0x16)) ∧
      (ch < 28 → s.m.hostQp x = true → good → s.m.freeCtx 1024 2048 = none → Completes s c (no 0xE03)) ∧
      (∀ k r, ch < 28 → s.m.hostQp x = true → good → s.m.freeCtx 1024 2048 = some k → s.m.freeRing ch = some r → ∃ t key, Completes s c t ∧
        key < 2 ^ 32 ∧ t.ring r = { live := true, base := base, ents := n, chan := ch, ctx := x, rkey := BitVec.ofNat 32 key, own := k } ∧
        (t.qp k).run = .ready ∧ (∀ j, j ≠ r → t.ring j = s.m.ring j) ∧ (t.cmd 0x140D).result = beBytes 2 r ++ beBytes 4 key)) ∧
    (s.m.invokes ses seq 0x140E [1] false p → a.length = 2 →
      ((s.m.ring (beNat a)).live = false → Completes s (.ringDestroy ses seq) (s.m.cmdEnds ses 0x140E p 0xF05)) ∧
      ((s.m.ring (beNat a)).live = true → Completes s (.ringDestroy ses seq) ((s.m.endRing (beNat a)).cmdEnds ses 0x140E p 0)))

/-- R297, R298, R300, R322, R564: the Service role retires HBM sets, flash dies and columns, each in the states that R564 lets it. -/
def Rule.ServiceRetires : Prop :=
  ∀ (s : State) (ses seq : BitVec 32) (p : Pdu),
    let v := beNat p.value
    let ret := s.m.pow.state = .running ∨ s.m.pow.state = .damped
    (s.m.invokes ses seq 0x140F [3] true p → p.value.length = 2 →
      (384 ≤ v → Completes s (.hbmRetire ses seq) (s.m.cmdEnds ses 0x140F p 0xF05)) ∧
      (v < 384 → ¬ ret → Completes s (.hbmRetire ses seq) (s.m.cmdEnds ses 0x140F p 0x1201)) ∧
      (v < 384 → ret → Completes s (.hbmRetire ses seq)
        (((s.m.holdBack (psetOf v) false).retireChan v 0).cmdEnds ses 0x140F p 0))) ∧
    (s.m.invokes ses seq 0x1410 [3] true p → p.value.length = 1 →
      (32 ≤ v → Completes s (.hbmReturn ses seq) (s.m.cmdEnds ses 0x1410 p 0xF05)) ∧
      (v < 32 → s.m.pow.state ≠ .damped → Completes s (.hbmReturn ses seq) (s.m.cmdEnds ses 0x1410 p 0x1201)) ∧
      (v < 32 → s.m.pow.state = .damped →
        (s.m.retiring v = true → Completes s (.hbmReturn ses seq) ((s.m.holdBack v true).cmdEnds ses 0x1410 p 1)) ∧
        (s.m.retiring v = false → Completes s (.hbmReturn ses seq)
          (Mod.cmdEnds { s.m with hbm := { s.m.hbm with retired := s.m.hbm.retired.filter (· ≠ v) } } ses 0x1410 p 0)))) ∧
    (s.m.invokes ses seq 0x1411 [3] true p → p.value.length = 1 →
      (64 ≤ v → Completes s (.flashDieRetire ses seq) (s.m.cmdEnds ses 0x1411 p 0xF05)) ∧
      (v < 64 → ¬ ret → Completes s (.flashDieRetire ses seq) (s.m.cmdEnds ses 0x1411 p 0x1201)) ∧
      (v < 64 → ret → Completes s (.flashDieRetire ses seq) ((s.m.retireFlash v false).cmdEnds ses 0x1411 p 0)))

/-- R564: COLUMN_RETIRE retires a physical column below 64 of a die whose spare is sound and free, and with 64 gives a retired column back unless it fails its test; it
needs Damped and no cord. -/
def Rule.ColumnRetired : Prop :=
  ∀ (s : State) (ses seq : BitVec 32) (p : Pdu) (fails : Bool),
    let d := byteN p.value 0 1
    let col := byteN p.value 1 1
    let x := s.m.die d
    let c := Instr.columnRetire ses seq fails
    let no := fun (code : Nat) => s.m.cmdEnds ses 0x1412 p code
    s.m.invokes ses seq 0x1412 [3] true p → p.value.length = 2 →
    (1 < d ∨ 64 < col → Completes s c (no 0xF05)) ∧
    (d ≤ 1 → col ≤ 64 → s.m.pow.state ≠ .damped → Completes s c (no 0x1201)) ∧
    (d ≤ 1 → col ≤ 64 → s.m.pow.state = .damped → s.m.cord.inst ≠ none → Completes s c (no 0x1202)) ∧
    (d ≤ 1 → s.m.pow.state = .damped → s.m.cord.inst = none →
      (col < 64 → x.f = 64 → x.sound = true → Completes s c ((s.m.remap d col []).cmdEnds ses 0x1412 p 0)) ∧
      (col < 64 → ¬ (x.f = 64 ∧ x.sound = true) → Completes s c (no 0x1203)) ∧
      (col = 64 → x.f = 64 → Completes s c (no 0)) ∧
      (col = 64 → x.f ≠ 64 → fails = true → Completes s c (no 0x1206)) ∧
      (col = 64 → x.f ≠ 64 → fails = false → Completes s c ((s.m.unmap d).cmdEnds ses 0x1412 p 0)))

/-! ### Trust -/

/-- R502: BIND of an unbound module whose proof verifies, a point of the curve that has signed MODULE_ID, itself and the text of R502,
Damped and without a cord, binds it to the key: the owner and its identifier, a fresh peat key, an empty turf map; a bound module, a bad
proof and another state refuse, and where the journal does not take the owner's point (log entry 132) it stays unbound. -/
def Rule.Binding : Prop :=
  (∀ (m : Mod) (a : List Byte), m.bindProof a = true ↔ ecOn (a.take 133) = true ∧
    ecdsaOk (a.take 133) (beBytes 8 m.sec.id ++ a.take 133 ++ ascii "IL4800 bind") (a.drop 133) = true) ∧
  ∀ (s : State) (ses seq : BitVec 32) (p : Pdu) (kept : Bool),
    let proof := s.m.bindProof p.value
    let c := Instr.bind ses seq kept
    let no := fun (code : Nat) => s.m.cmdEnds ses 0x1413 p code
    s.m.invokes ses seq 0x1413 anyRole true p → p.value.length = 265 →
    (s.m.sec.owner ≠ [] → Completes s c (no 0x1001)) ∧
    (s.m.sec.owner = [] → proof = false → Completes s c (no 0x1003)) ∧
    (s.m.sec.owner = [] → proof = true → s.m.pow.state ≠ .damped ∨ s.m.cord.inst ≠ none → Completes s c (no 0x1004)) ∧
    (s.m.sec.owner = [] → proof = true → s.m.pow.state = .damped → s.m.cord.inst = none → kept = false → Completes s c (no 0x1D)) ∧
    (s.m.sec.owner = [] → proof = true → s.m.pow.state = .damped → s.m.cord.inst = none → kept = true → ∃ t, Completes s c t ∧
      t.sec.owner = p.value.take 133 ∧ t.sec.ownerId = sha512 (p.value.take 133) ∧ t.sec.peat.isSome = true ∧ t.sec.dbgBind = false ∧
      t.peat.flash = [] ∧ t.peat.map = [] ∧ t.peat.slots = [] ∧ (t.cmd 0x1413).status = 0 ∧ t.hbm = s.m.hbm ∧ t.cord = s.m.cord ∧ t.tick = s.m.tick)

/-- R511, R527: ATTEST answers a signed report over its nonce; while a zeroisation runs it waits. -/
def Rule.Attestation : Prop :=
  ∀ (s : State) (ses seq : BitVec 32) (p : Pdu),
    (s.m.sec.zero.isSome = true → Completes s (.attest ses seq) s.m) ∧
    (s.m.sec.zero = none → s.m.invokes ses seq 0x1415 anyRole true p → p.value.length = 64 → Completes s (.attest ses seq)
      ((s.m.signedReport p.value).2.cmdEnds ses 0x1415 p 0 0 (s.m.signedReport p.value).1))

/-- R511: the fields of a report: MAGIC, security state, whether an owner is bound, MODULE_ID, the cord, the last committed step, the nonce. -/
def Rule.ReportFields : Prop :=
  ∀ (m : Mod) (nonce : List Byte), nonce.length = 64 → m.sec.state < 256 → m.sec.id < 2 ^ 64 → m.sec.fwVer < 2 ^ 32 → m.sec.roll < 2 ^ 32 →
    cId m.img < 2 ^ 64 → m.train.last < 2 ^ 64 → m.time < 2 ^ 64 → m.sec.jobId < 2 ^ 64 →
    let n := leNat (m.report nonce)
    (m.report nonce).length = 256 ∧ slice n 31 0 = 0x54535441 ∧ slice n 55 48 = m.sec.state ∧ bitAt n 56 = !m.sec.owner.isEmpty ∧
    slice n 127 64 = m.sec.id ∧ slice n 159 128 = m.sec.fwVer ∧ slice n 191 160 = m.sec.roll ∧ slice n 255 192 = cId m.img ∧
    slice n 319 256 = m.train.last ∧ slice n 383 320 = m.time ∧ slice n 1919 1408 = leNat nonce ∧ slice n 1983 1920 = m.sec.jobId

/-- R516, R523: JOB_KEY_SET and JOB_KEY_CLEAR: only Damped, with no export, import or checkpoint in progress; a new key starts the count of sealed envelopes again. -/
def Rule.JobKey : Prop :=
  ∀ (s : State) (ses seq : BitVec 32) (p : Pdu) (opens : Bool),
    let id := byteN p.value 133 8
    let c := Instr.jobKeySet ses seq opens
    let no := fun (code : Nat) => s.m.cmdEnds ses 0x1416 p code
    (s.m.invokes ses seq 0x1416 [2] false p → p.value.length = 189 →
      (s.m.sec.owner = [] → Completes s c (no 0x1002)) ∧
      (s.m.sec.owner ≠ [] → s.m.mayKey = false → Completes s c (no 0x1004)) ∧
      (s.m.sec.owner ≠ [] → s.m.mayKey = true → opens = false → Completes s c (no 0x1005)) ∧
      (s.m.sec.owner ≠ [] → s.m.mayKey = true → opens = true → ∃ t, Completes s c t ∧ t.sec.job.isSome = true ∧ t.sec.jobId = id ∧
        t.sec.sealed = 0 ∧ t.log.next = s.m.log.next + 1 ∧ (t.cmd 0x1416).status = 0)) ∧
    (s.m.invokes ses seq 0x1417 [2] false p → p.value.length = 0 →
      (s.m.mayKey = false → Completes s (.jobKeyClear ses seq) (s.m.cmdEnds ses 0x1417 p 0x1004)) ∧
      (s.m.mayKey = true → Completes s (.jobKeyClear ses seq) (((Mod.event { s.m with
        sec := { s.m.sec with job := none, jobId := 0, sealed := 0 } } 0x8B09 0 0)).cmdEnds ses 0x1417 p 0)))

/-- R504, R519, R520: ZEROISE, UNBIND, DEBUG_UNLOCK and DEBUG_LOCK are accepted only Damped or in Fault and begin a zeroisation; UNBIND and DEBUG_UNLOCK need an owner; DEBUG_UNLOCK needs
a known state and the Service's and the owner's signatures over MODULE_ID, the state, a nonce in force, which it uses up, and its text;
DEBUG_CHALLENGE answers a fresh nonce. -/
def Rule.ZeroiseCommands : Prop :=
  ∀ (s : State) (ses seq : BitVec 32) (p : Pdu) (svcOk : Bool),
    let may := s.m.pow.state = .damped ∨ s.m.pow.state = .fault
    let used : Mod := { s.m with sec := { s.m.sec with nonce := none } }
    let live := ∃ n t, s.m.sec.nonce = some (n, t) ∧ s.m.tick.now ≤ t + 300000000000
    let sigs := svcOk = true ∧ s.m.unlockSigned p.value = true
    (∀ n t, s.m.sec.nonce = some (n, t) → s.m.unlockSigned p.value = ecdsaOk s.m.sec.owner
      (beBytes 8 s.m.sec.id ++ p.value.take 1 ++ n ++ ascii "IL4800 debug") ((p.value.drop 1).take 132)) ∧
    (s.m.invokes ses seq 0x141B [2] true p → p.value.length = 0 →
      (¬ may → Completes s (.zeroise ses seq) (s.m.cmdEnds ses 0x141B p 0x1004)) ∧
      (may → Completes s (.zeroise ses seq) ((s.m.zeroStart 0x141B).cmdGoes ses 0x141B p (s.m.cmd 0x141B)))) ∧
    (s.m.invokes ses seq 0x1414 [2] true p → p.value.length = 0 →
      (s.m.sec.owner = [] → Completes s (.unbind ses seq) (s.m.cmdEnds ses 0x1414 p 0x1002)) ∧
      (s.m.sec.owner ≠ [] → ¬ may → Completes s (.unbind ses seq) (s.m.cmdEnds ses 0x1414 p 0x1004)) ∧
      (s.m.sec.owner ≠ [] → may → Completes s (.unbind ses seq) ((s.m.zeroStart 0x1414).cmdGoes ses 0x1414 p (s.m.cmd 0x1414)))) ∧
    (s.m.invokes ses seq 0x141A [2, 3] true p → p.value.length = 0 →
      (¬ may → Completes s (.debugLock ses seq) (s.m.cmdEnds ses 0x141A p 0x1004)) ∧
      (may → Completes s (.debugLock ses seq) ((s.m.zeroStart 0x141A).cmdGoes ses 0x141A p (s.m.cmd 0x141A)))) ∧
    (s.m.invokes ses seq 0x1418 [3] true p → p.value.length = 0 → ∃ n t, n.length = 32 ∧ Completes s (.debugChallenge ses seq) t ∧
      t.sec.nonce = some (n, s.m.tick.now) ∧ (t.cmd 0x1418).result = n ∧ (t.cmd 0x1418).status = 0) ∧
    (s.m.invokes ses seq 0x1419 [3] true p → p.value.length = 265 →
      let c := Instr.debugUnlock ses seq svcOk
      let g := byteN p.value 0 1
      (s.m.sec.owner = [] → Completes s c (s.m.cmdEnds ses 0x1419 p 0x1002)) ∧
      (s.m.sec.owner ≠ [] → ¬ may → Completes s c (s.m.cmdEnds ses 0x1419 p 0x1004)) ∧
      (s.m.sec.owner ≠ [] → may → g = 0 ∨ 2 < g → Completes s c (s.m.cmdEnds ses 0x1419 p 0x16)) ∧
      (s.m.sec.owner ≠ [] → may → 1 ≤ g → g ≤ 2 → ¬ (sigs ∧ live) → Completes s c (used.cmdEnds ses 0x1419 p 0x1006)) ∧
      (s.m.sec.owner ≠ [] → may → 1 ≤ g → g ≤ 2 → sigs → live → Completes s c
        ((used.zeroStart 0x1419).cmdGoes ses 0x1419 p (s.m.cmd 0x1419))))

/-- R520, R521, R504, R519: a zeroisation: at its start no key, no module session, no turf map and no cord are left, the memories of hearths and cores are clear and its marker stands; when HBM has been written to zero the marker is
cleared and the command's own effect follows: UNBIND leaves no owner, no session and no open scan, DEBUG_UNLOCK the state that it asked for, DEBUG_LOCK the state locked. -/
def Rule.Zeroisation : Prop :=
  (∀ (m : Mod) (c : Nat), let t := m.zeroStart c
    t.sec.zero = some c ∧ t.sec.job = none ∧ t.sec.jobId = 0 ∧ t.sec.peat = none ∧ t.sec.sess = [] ∧ t.peat.flash = [] ∧ t.peat.map = [] ∧ t.peat.slots = [] ∧
    t.cord.inst = none ∧ t.cord.slot0 = {} ∧ t.cord.slot1 = {} ∧ t.grid.scs = [] ∧ (∀ p ∈ t.grid.vcs, p.2 = { held := p.2.held, st := p.2.st }) ∧ t.grid.inqs = [] ∧
    (∀ p ∈ t.grid.hearths, p.2.hs = []) ∧ t.hbm.mem = m.hbm.mem ∧ t.sec.owner = m.sec.owner) ∧
  (∀ s : State, s.m.sec.zero = none → Completes s .zeroiseDone s.m) ∧
  (∀ (s : State) (c : Nat), s.m.sec.zero = some c → ∃ t, Completes s .zeroiseDone t ∧ t.sec.zero = none ∧ t.hbm.mem = [] ∧
    (c = 0x1414 → t.sec.owner = [] ∧ t.sec.peat = none ∧ t.kop.sess = [] ∧ t.tst.scan = none) ∧
    (c = 0x141B → t.sec.owner = s.m.sec.owner ∧ t.sec.state = s.m.sec.state ∧ (s.m.sec.owner ≠ [] → t.sec.peat.isSome = true)) ∧
    (c = 0x1419 → t.sec.state = beNat ((s.m.cmd c).arg.take 1) ∧ t.sec.dbgBind = true) ∧
    (c = 0x141A → t.sec.state = 0))

/-- R500, R499: FW_UPDATE needs a context; in Fault an Owner's is refused. A pair that does not verify, or is older than the fuses let it be, ends with its code and leaves both banks; one that
verifies stands in the inactive bank, on trial. -/
def Rule.FirmwareUpdate : Prop :=
  ∀ (s : State) (ses seq : BitVec 32) (p : Pdu) (sigOk : Bool),
    let c := Instr.fwUpdate ses seq
    let own := s.m.pow.state = .fault ∧ (s.m.ksess ses.toNat).role = 2
    let n := 1 - s.m.sec.active
    (s.m.invokes ses seq 0x141C [2, 3] true p → p.value.length = 18 →
      (own → Completes s c (s.m.cmdEnds ses 0x141C p 0x1B)) ∧
      (¬ own → (s.m.qp (byteN p.value 0 2)).run = .free → Completes s c (s.m.cmdEnds ses 0x141C p 0xF05)) ∧
      (¬ own → (s.m.qp (byteN p.value 0 2)).run ≠ .free → Completes s c ((s.m.rdmaIn (byteN p.value 0 2)
        (byteN p.value 2 4) (byteN p.value 6 8) (byteN p.value 14 4)).cmdGoes ses 0x141C p (s.m.cmd 0x141C)))) ∧
    ((s.m.cmd 0x141C).busy = false → ∀ img, Completes s (.fwStaged img sigOk) s.m) ∧
    ((s.m.cmd 0x141C).busy = true →
      Completes s (.fwStaged none sigOk) (s.m.finish 0x141C 0x1007 0 []) ∧
      (∀ l k, fwBad l sigOk s.m.sec.roll = some k → Completes s (.fwStaged (some l) sigOk) (s.m.finish 0x141C k 0 [])) ∧
      (∀ l, fwBad l sigOk s.m.sec.roll = none → ∃ t, Completes s (.fwStaged (some l) sigOk) t ∧ t.sec.trial = true ∧ t.bank n = fwBank l ∧
        (s.m.sec.active ≤ 1 → t.bank s.m.sec.active = s.m.bank s.m.sec.active) ∧ t.sec.active = s.m.sec.active ∧ (t.cmd 0x141C).status = 0))

/-- R499: an image pair is refused where a signature fails, a magic or kind is wrong, bytes are missing or the pair is longer than a bank of 32 MiB (log entry
127), and as rolled back where either image is below the fuses. -/
def Rule.FirmwareChecks : Prop :=
  ∀ (l : List Byte) (sigOk : Bool) (roll : Nat),
    let h1 := leNat (l.take 128)
    let n1 := 128 + fwLen h1 + 132
    let h2 := leNat ((l.drop n1).take 128)
    let sound := sigOk = true ∧ slice h1 31 0 = 0x4D524946 ∧ fwKind h1 = 1 ∧ slice h2 31 0 = 0x4D524946 ∧ fwKind h2 = 2 ∧
      n1 + 128 + fwLen h2 + 132 ≤ l.length ∧ n1 + 128 + fwLen h2 + 132 ≤ 33554432
    (¬ sound → fwBad l sigOk roll = some 0x1007) ∧
    (sound → fwRoll h1 < roll ∨ fwRoll h2 < roll → fwBad l sigOk roll = some 0x1008) ∧
    (sound → roll ≤ fwRoll h1 → roll ≤ fwRoll h2 → fwBad l sigOk roll = none)

/-- R507 to R510: the key exchange between modules. KEX1 of a lower rank is answered with KEX2, while the module pool has a context for
it; a KEX2 or KEX3 that is awaited and whose certificate or report does not
verify fails the exchange with its code; one that verifies goes on; the sealed message that verifies opens the session at the lower rank; an exchange that takes 2 s fails. -/
def Rule.KeyExchange : Prop :=
  ∀ (s : State) (k : List Byte) (certOk sigOk : Bool),
    let r := kexRank k
    let x := s.m.msess r
    let part := kex2Part k
    (kexType k ≠ 1 ∨ s.m.kexFor r = false ∨ s.m.self ≤ r → Completes s (.kex1Receive k) s.m) ∧
    (kexType k = 1 → s.m.kexFor r = true → r < s.m.self → ∃ t b, Completes s (.kex1Receive k) t ∧ (t.msess r).kex = .sent2 ∧
      (t.msess r).kexAt = s.m.tick.now ∧ (s.m.kexCtx r ≠ none → .kex r b ∈ t.eth.wire) ∧ kexType b = 2 ∧ kexRank b = s.m.self % 65536) ∧
    (kexType k ≠ 2 ∨ s.m.kexFor r = false ∨ x.kex ≠ .sent1 → Completes s (.kex2Receive k certOk sigOk) s.m) ∧
    (∀ code, kexType k = 2 → s.m.kexFor r = true → x.kex = .sent1 →
      s.m.peerBad r (kexReport (kexProof k (11 + part.length))) (x.trans ++ part) certOk sigOk = some code →
      Completes s (.kex2Receive k certOk sigOk) (s.m.kexFail r code)) ∧
    (kexType k = 2 → s.m.kexFor r = true → x.kex = .sent1 →
      s.m.peerBad r (kexReport (kexProof k (11 + part.length))) (x.trans ++ part) certOk sigOk = none →
      ∃ t, Completes s (.kex2Receive k certOk sigOk) t ∧ (t.msess r).kex = .sent3 ∧
        tGet [] t.eth.addrs r = addrsOf (kex2Naddr k) (part.drop 166)) ∧
    (kexType k ≠ 3 ∨ s.m.kexFor r = false ∨ x.kex ≠ .sent2 → Completes s (.kex3Receive k certOk sigOk) s.m) ∧
    (∀ code, kexType k = 3 → s.m.kexFor r = true → x.kex = .sent2 → s.m.peerBad r (kexReport (kexProof k 11)) x.trans certOk sigOk = some code →
      Completes s (.kex3Receive k certOk sigOk) (s.m.kexFail r code)) ∧
    (kexType k = 3 → s.m.kexFor r = true → x.kex = .sent2 → s.m.peerBad r (kexReport (kexProof k 11)) x.trans certOk sigOk = none →
      Completes s (.kex3Receive k certOk sigOk) ((x.out.filter fun q => q.2.1.isNone).foldl (fun (m : Mod) q => m.sendOut r q)
        ((((s.m.setMsess r { x with out := x.out.filter fun q => q.2.1.isSome }).sessionOpen r).sendTo r 0 []).sendHello.pairCheck)))

/-- R509: what a peer's proof is refused for, the lowest code first. -/
def Rule.PeerChecks : Prop :=
  ∀ (m : Mod) (r : Nat) (rep t : List Byte) (certOk sigOk : Bool),
    let n := leNat rep
    (certOk = false → m.peerBad r rep t certOk sigOk = some 0x1011) ∧
    (certOk = true → sigOk = false ∨ slice n 1919 1408 ≠ leNat (sha512 t) → m.peerBad r rep t certOk sigOk = some 0x1012) ∧
    (m.peerBad r rep t certOk sigOk = none → certOk = true ∧ sigOk = true ∧ slice n 127 64 = m.idOf r ∧
      slice n 895 384 = leNat (m.sec.ownerId.take 64) ∧ slice n 55 48 = m.sec.state ∧ m.sec.state ≤ 1 ∧
      (slice n 255 192 = cId m.img ∨ ∃ k, m.cord.succ = some k ∧ slice n 255 192 = cId (m.cordIn k)))

/-- R508: the last step of an exchange and its time limit: a sealed message that does not verify, or that is not awaited, changes nothing; an exchange in progress for 2 s fails with
0x1017; 1 s after a failure a session that is needed is begun again. -/
def Rule.KeyExchangeEnds : Prop :=
  ∀ (s : State) (r : BitVec 12),
    let x := s.m.msess r.toNat
    let due := s.m.cord.inst.isSome = true ∧ x.open' = false ∧ s.m.needs.contains r.toNat = true ∧ x.kexAt + 1000000000 ≤ s.m.tick.now
    (∀ ok, x.kex ≠ .sent3 ∨ ok = false → Completes s (.kexConfirmReceive r ok) s.m) ∧
    (x.kex = .sent3 → Completes s (.kexConfirmReceive r true) ((s.m.kexDone r.toNat).setMsess r.toNat
      { (s.m.kexDone r.toNat).msess r.toNat with rx := tSet 0 ((s.m.kexDone r.toNat).msess r.toNat).rx 0 1 })) ∧
    (x.kex ≠ .none → x.kexAt + 2000000000 ≤ s.m.tick.now → Completes s (.kexTimeout r) (s.m.kexFail r.toNat 0x1017)) ∧
    (x.kex ≠ .none → s.m.tick.now < x.kexAt + 2000000000 → Completes s (.kexTimeout r) s.m) ∧
    (x.kex = .none → due → Completes s (.kexTimeout r) (s.m.startKex r.toNat)) ∧
    (x.kex = .none → ¬ due → Completes s (.kexTimeout r) s.m)

/-! ### Settings -/

/-- The rows of a SET of objects, by the object that it begins with. -/
def settingRows (ses seq : BitVec 32) (kept : Bool) : List (Instr × Nat) :=
  [
    (.objectWrite ses seq kept, 0), (.dieSettingWrite ses seq kept, 1), (.dieStop ses seq kept, 2), (.dieStart ses seq kept, 3),
    (.peatEnWrite ses seq kept, 4), (.tickSrcWrite ses seq kept, 5), (.portEnWrite ses seq kept, 6), (.portLayoutWrite ses seq kept, 7),
    (.laneModeWrite ses seq kept, 8), (.vlanIdWrite ses seq kept, 9), (.dmaEnWrite ses seq kept, 10)]

/-- R476, R487: a SET of one object of the row that the command names: an object that may not be written, a value of the wrong length, a value that its owner refuses and a
failed journal write change no object; else the value is written, goes to the journal where its object is of persistence J, and the answer is its status. -/
def Rule.SettingWritten : Prop :=
  ∀ (s : State) (ses seq : BitVec 32) (kept : Bool) (c : Instr) (row : Nat) (p : Pdu) (sig : Bool),
    let n := ses.toNat
    let bad := s.m.writeBad n p.index sig (p.sub, p.elem)
    let o := s.m.setOne n p.index p.sub p.elem p.value
    let no := fun (code : Nat) => s.m.respond n p code (if code < 256 then p.place (p.sub, p.elem) else 0) []
    (c, row) ∈ settingRows ses seq kept → s.m.waits ses seq p sig → p.op = 4 → p.row = row → p.count = 1 →
    (s.m.pow.state = .kindling → Completes s c (s.m.respond n p 0x1B 0 [])) ∧
    (s.m.pow.state ≠ .kindling → bad ≠ 0 → Completes s c (s.m.respond n p bad (p.place (p.sub, p.elem)) [])) ∧
    (∀ x, s.m.pow.state ≠ .kindling → bad = 0 → s.m.obj? n p.index p.sub p.elem = some x →
      (x.ty.take p.value ≠ some p.value.length → Completes s c (s.m.respond n p 0x15 0 [])) ∧
      (x.ty.take p.value = some p.value.length →
        (2 ≤ o.status → Completes s c (no o.status)) ∧
        (o.status < 2 → x.jour = true → kept = false → Completes s c (s.m.respond n p 0x1D 0 [])) ∧
        (o.status < 2 → x.jour = false ∨ kept = true →
          let stays := ((o.m.obj? n p.index p.sub p.elem).map Obj.jour).getD false
          let t := if stays then
              o.m.journal 3 (leBytes 2 p.index ++ leBytes 1 p.sub ++ leBytes 4 p.elem ++ p.value)
            else o.m
          Completes s c (t.respond n p o.status 0 []))))

/-- R476, R487: a SET of any objects of the row that the command names: it names none; the module is Kindling; the first object that may not be written, by its place; LEN
does not match the values; the first value that its owner refuses; a journal write that fails: each changes no object and answers so. Else every value is written, those of persistence J go to the journal
in order, and the answer is 0, or 1 where one of them is accepted and pending. -/
def Rule.SettingsWritten : Prop :=
  ∀ (s : State) (ses seq : BitVec 32) (kept : Bool) (c : Instr) (row : Nat) (p : Pdu) (sig : Bool),
    let n := ses.toNat
    let i := p.index
    let os := p.targets.filterMap fun t => s.m.obj? n i t.1 t.2
    (c, row) ∈ settingRows ses seq kept → s.m.waits ses seq p sig → p.op = 4 → p.row = row →
    (p.count = 0 → Completes s c (s.m.respond n p 0x10 0 [])) ∧
    (p.count ≠ 0 → s.m.pow.state = .kindling → Completes s c (s.m.respond n p 0x1B 0 [])) ∧
    (p.count ≠ 0 → s.m.pow.state ≠ .kindling →
      (∀ a t b, p.targets = a ++ t :: b → (∀ u ∈ a, s.m.writeBad n i sig u = 0) → s.m.writeBad n i sig t ≠ 0 →
        Completes s c (s.m.respond n p (s.m.writeBad n i sig t) (p.place t) [])) ∧
      ((∀ t ∈ p.targets, s.m.writeBad n i sig t = 0) →
        (splitVals (os.map Obj.ty) p.value = none → Completes s c (s.m.respond n p 0x15 0 [])) ∧
        (∀ vs, splitVals (os.map Obj.ty) p.value = some vs →
          let ws := List.zip p.targets vs
          (∀ o t, s.m.setAll n i false ws = (o, some t) →
            2 ≤ o.status ∧ Completes s c (s.m.respond n p o.status (if o.status < 256 then p.place t else 0) [])) ∧
          (∀ o, s.m.setAll n i false ws = (o, none) →
            o.status < 2 ∧
            (os.any Obj.jour = true → kept = false → Completes s c (s.m.respond n p 0x1D 0 [])) ∧
            (os.any Obj.jour = false ∨ kept = true →
              let stays := fun (m : Mod) (t : Nat × Nat) => ((m.obj? n i t.1 t.2).map Obj.jour).getD false
              let recs := fun (w : (Nat × Nat) × List Byte) => leBytes 2 i ++ leBytes 1 w.1.1 ++ leBytes 4 w.1.2 ++ w.2
              Completes s c ((ws.foldl (fun m w => if stays m w.1 then m.journal 3 (recs w) else m) o.m).respond n p o.status 0 []))))))

/-- R476: the values of a SET are written in order, each by its owner; the first that is refused ends it; one accepted and pending makes the whole pending. -/
def Rule.SettingsInOrder : Prop :=
  ∀ (m : Mod) (n i : Nat) (pend : Bool) (t : Nat × Nat) (v : List Byte) (r : List ((Nat × Nat) × List Byte)),
    let o := m.setOne n i t.1 t.2 v
    m.setAll n i pend [] = ({ status := if pend then 1 else 0, m := m }, none) ∧
    (2 ≤ o.status → m.setAll n i pend ((t, v) :: r) = (o, some t)) ∧
    (o.status = 1 → m.setAll n i pend ((t, v) :: r) = o.m.setAll n i true r) ∧
    (o.status = 0 → m.setAll n i pend ((t, v) :: r) = o.m.setAll n i pend r)

/-- R485, R486, R476: what a SET finds of one object: none there; a DMA channel of the module's own; a read-only one, as which one that reading clears counts too (log entry 97); a role that may not write its class; a class O without the owner's signature;
Fault; a stopped die. -/
def Rule.WriteRights : Prop :=
  ∀ (m : Mod) (ses i : Nat) (sig : Bool) (t : Nat × Nat) (x : Obj),
    (m.obj? ses i t.1 t.2 = none → m.writeBad ses i sig t = 0x14) ∧
    (m.obj? ses i t.1 t.2 = some x →
      (m.writeBad ses i sig t = 0 ↔ ¬ (i = 0x2020 ∧ 28 ≤ t.2) ∧ x.acc ≠ .ro ∧ x.acc ≠ .rcl ∧ (m.ksess ses).role ∈ KCls.writes x.acc x.cls ∧
        (x.cls = .o → sig = true ∧ m.sec.owner ≠ []) ∧ (x.cls = .c ∨ x.cls = .o → m.pow.state ≠ .fault) ∧ m.stoppedAt i t.2 = false))

/-- R269, R270, R272, R494: a write of DIE_SETTING: above 16, while a die stops, starts or waits, or above what a static cord fits it is refused; a stopped die stores it; else it waits for the next
boundary, for both dies under a static cord. -/
def Rule.DieSettingSet : Prop :=
  ∀ (m : Mod) (ses e : Nat) (l : List Byte) (d : Fin 2),
    let v := beNat l
    let o := m.setOne ses (0x1210 + d.val) 1 e l
    let fixed := m.cord.inst.isSome = true ∧ cStatic m.img = true
    let busy := m.dieN.busy = true ∨ m.dieS.busy = true
    (16 < v → o = { status := 0x904, m := m }) ∧
    (v ≤ 16 → busy → o = { status := 0x905, m := m }) ∧
    (v ≤ 16 → ¬ busy → fixed → staticFits m.img v m.tick.us = false → o = { status := 0x903, m := m }) ∧
    (v ≤ 16 → ¬ busy → ¬ fixed → (m.die d.val).run = .stopped → o = { status := 0, m := m.setDie d.val { m.die d.val with want := v } }) ∧
    (v ≤ 16 → ¬ busy → ¬ fixed → (m.die d.val).run ≠ .stopped →
      o = { status := 0, m := m.setDie d.val { m.die d.val with want := v, req := some v } }) ∧
    (v ≤ 16 → ¬ busy → fixed → staticFits m.img v m.tick.us = true → (m.die d.val).run ≠ .stopped →
      o.status = 0 ∧ (o.m.die 0).req = some v ∧ (o.m.die 1).req = some v)

/-- R271 to R273: a write of DIE_RUN: a die that cores or a cord's slot use, or whose other die does not run, is not stopped; a die that drains takes a start as pending and gives it up with a stop; a die that
self-test holds is not started. -/
def Rule.DieRunSet : Prop :=
  ∀ (m : Mod) (ses e : Nat) (l : List Byte) (d : Fin 2),
    let x := m.die d.val
    let o := m.setOne ses (0x1210 + d.val) 2 e l
    let busy := m.dieN.busy = true ∨ m.dieS.busy = true
    let slot := m.cord.inst = some d.val ∨ m.cord.succ = some d.val ∨ ∃ k, m.cord.load = some k ∧ k.slot = d.val
    (beNat l = 0 →
      (x.run = .stopped → o = { status := 0, m := m }) ∧
      (x.run = .draining → o = { status := 0, m := m.setDie d.val { x with pend := false } }) ∧
      (x.run ≠ .stopped → x.run ≠ .draining →
        (busy → o = { status := 0x905, m := m }) ∧
        (¬ busy → m.cordOn d.val = true → o = { status := 0x901, m := m }) ∧
        (¬ busy → m.cordOn d.val = false → (m.die (1 - d.val)).run ≠ .running → o = { status := 0x902, m := m }) ∧
        (¬ busy → m.cordOn d.val = false → (m.die (1 - d.val)).run = .running → slot → o = { status := 0x907, m := m }) ∧
        (¬ busy → m.cordOn d.val = false → (m.die (1 - d.val)).run = .running → ¬ slot →
          o = { status := 0, m := (m.markOld.setDie d.val { x with run := .draining }).event 0x8205 d.val 1 }))) ∧
    (beNat l = 1 →
      (x.run = .running ∨ x.run = .starting → o = { status := 0, m := m }) ∧
      (x.run = .draining → o = { status := 1, m := m.setDie d.val { x with pend := true } }) ∧
      (x.run = .stopped → x.held = true → o = { status := 0x1208, m := m }) ∧
      (x.run = .stopped → x.held = false → busy → o = { status := 0x905, m := m }) ∧
      (x.run = .stopped → x.held = false → ¬ busy →
        o = { status := 0, m := (m.setDie d.val { x with run := .starting }).event 0x8205 d.val 3 })) ∧
    (1 < beNat l → o = { status := 0x16, m := m })

/-- R323, R379, R463: PEAT_EN: off is refused under a cord that needs the tier, else begins the shut-down; on takes effect at once, or waits for a shut-down in progress. a change of TICK_SRC is refused while a
cord is installed. DMA_EN: off stops the descriptor in progress, or disables at once a channel that waits for no acknowledgement; on waits for a shut-down in progress. -/
def Rule.SwitchSettings : Prop :=
  ∀ (m : Mod) (ses e : Nat) (l : List Byte),
    let v := beNat l
    let q := m.peat
    let o := m.setOne ses 0x1200 5 e l
    let x := m.chanD e
    let a := m.setOne ses 0x2020 1 e l
    (v = 0 → m.cord.inst.isSome = true → cPeat m.img = true → o = { status := 0xA01, m := m }) ∧
    (v = 0 → ¬ (m.cord.inst.isSome = true ∧ cPeat m.img = true) →
      (q.state = .on → o = { status := 0, m := { m with peat := { q with state := .shutting } } }) ∧
      (q.state = .shutting → o = { status := 0, m := { m with peat := { q with pendOn := false } } }) ∧ (q.state = .off → o = { status := 0, m := m })) ∧
    (v = 1 → (q.state = .on → o = { status := 0, m := m }) ∧
      (q.state = .shutting → o = { status := 1, m := { m with peat := { q with pendOn := true } } }) ∧
      (q.state = .off → o = { status := 0, m := { m with peat := { q with state := .on } } })) ∧
    (1 < v → o = { status := 0x16, m := m } ∧ a.status ≠ 0 ∧ a.m = m) ∧
    (2 < v → m.setOne ses 0x1100 3 e l = { status := 0x16, m := m }) ∧
    (v = m.tick.src → v ≤ 2 → m.setOne ses 0x1100 3 e l = { status := 0, m := m }) ∧
    (v ≤ 2 → v ≠ m.tick.src → m.cord.inst ≠ none → m.setOne ses 0x1100 3 e l = { status := 0xC03, m := m }) ∧
    (v ≤ 2 → v ≠ m.tick.src → m.cord.inst = none → let t := m.setOne ses 0x1100 3 e l
      t.status = 0 ∧ t.m.tick.src = v ∧ t.m.tick.locked = false ∧ t.m.tick.now = m.tick.now ∧ t.m.tick.cnt = m.tick.cnt) ∧
    (28 ≤ e → a = { status := 0xE05, m := m }) ∧
    (e < 28 → v = 0 → (x.run = .running → a = { status := 0, m := m.setChanD e { x with en := false, run := .shutting } }) ∧
      (x.run = .shutting → a = { status := 0, m := m.setChanD e { x with pend := false } }) ∧
      (x.run ≠ .running → x.run ≠ .shutting → a = { status := 0, m := m.setChanD e { x with
        en := false, pend := false, run := if x.acks = [] then .disabled else .shutting } })) ∧
    (e < 28 → v = 1 → (x.run = .running → a = { status := 0, m := m }) ∧
      (x.run = .shutting → a = { status := 1, m := m.setChanD e { x with pend := true } }) ∧
      (x.run ≠ .running → x.run ≠ .shutting → a = { status := 0, m := m.setChanD e { x with en := true, run := .idle } }))

/-- R436, R446: PORT_EN: off shuts the port down, on brings it up, or waits for a shut-down or a lane test; PORT_LAYOUT, LANE_MODE and VLAN_ID are refused out of range and while Running, and take the links
down. -/
def Rule.PortSettings : Prop :=
  ∀ (m : Mod) (ses : Nat) (e : Fin 8) (i : Nat) (l : List Byte),
    let v := beNat l
    let x := m.port e.val
    let a := m.setOne ses 0x2010 1 e.val l
    let y := m.setOne ses 0x2010 2 e.val l
    let z := m.setOne ses 0x2010 3 e.val l
    let w := m.setOne ses 0x2011 13 i l
    (v = 0 → x.run = .shutting ∨ x.run = .down → a = { status := 0, m := m.setPort e.val { x with en := false, pend := false } }) ∧
    (v = 0 → x.run ≠ .shutting → x.run ≠ .down →
      a = { status := 0, m := (m.setPort e.val { x with en := false, pend := false, run := .shutting }).portIfsDown e.val }) ∧
    (v = 1 → x.run = .shutting ∨ x.testing = true → a = { status := 1, m := m.setPort e.val { x with pend := true } }) ∧
    (v = 1 → x.run ≠ .shutting → x.testing = false →
      a = { status := 0, m := m.setPort e.val { x with en := true, run := if x.run = .down then .starting else x.run } }) ∧
    (1 < v → a = { status := 0x16, m := m } ∧ z = { status := 0x16, m := m }) ∧
    (2 < v → y = { status := 0x16, m := m }) ∧ (4094 < v → w = { status := 0x16, m := m }) ∧
    (m.pow.state = .running → (v ≤ 2 → y = { status := 0xE01, m := m }) ∧ (v ≤ 1 → z = { status := 0xE01, m := m }) ∧
      (v ≤ 4094 → w = { status := 0xE01, m := m })) ∧
    (m.pow.state ≠ .running →
      (v ≤ 2 → y.status = 0 ∧ (y.m.port e.val).layout = v) ∧ (v ≤ 1 → z.status = 0 ∧ ((z.m.port e.val).c2m = true ↔ v = 1)) ∧
      (v ≤ 4094 → w.status = 0 ∧ (w.m.iface i).vlan = v))

/-- R477, R530, R435, R443: the selector is its session's own; the power policy and cap, the prefixes and the differentiated services code points keep their ranges. -/
def Rule.PlainSettings : Prop :=
  ∀ (m : Mod) (ses e : Nat) (l : List Byte),
    let v := beNat l
    (v ≤ 15 → m.setOne ses 0x1600 4 e l = { status := 0, m := m.setKsess ses { m.ksess ses with stepSel := v } }) ∧
    (15 < v → m.setOne ses 0x1600 4 e l = { status := 0x16, m := m }) ∧
    (v ≤ 2 → m.setOne ses 0x1800 1 e l = { status := 0, m := Mod.setCap { m with pow := { m.pow with policy := v } } }) ∧
    (2 < v → m.setOne ses 0x1800 1 e l = { status := 0x16, m := m }) ∧
    (800 ≤ v → v ≤ 2600 → v % 10 = 0 → m.setOne ses 0x1800 2 e l = { status := 0, m := Mod.setCap { m with pow := { m.pow with capW := v } } }) ∧
    (¬ (800 ≤ v ∧ v ≤ 2600 ∧ v % 10 = 0) → m.setOne ses 0x1800 2 e l = { status := 0x16, m := m }) ∧
    (1 ≤ v → v ≤ 32 → m.setOne ses 0x2011 8 e l = { status := 0, m := m.setIface e { m.iface e with pre4 := v } }) ∧
    (v = 0 ∨ 32 < v → m.setOne ses 0x2011 8 e l = { status := 0x16, m := m }) ∧
    (63 < v → m.setOne ses 0x2012 1 e l = { status := 0x16, m := m }) ∧ (7 < v → m.setOne ses 0x2012 2 e l = { status := 0x16, m := m })

/-! ### Power, states and resets -/

/-- R530: the cap in force is the lowest of those that apply: 2,600 W always, the derate cap from 60.0 V to 64.0 V (AUTO aside), AUTO's cap, the fixed cap, 1,000 W in recovery. -/
def Rule.LowestCap : Prop :=
  ∀ p : PowSt, (∀ c ∈ p.caps, p.least.2 ≤ c.2) ∧ (∃ c ∈ p.caps, p.least = c) ∧ p.least.2 ≤ 2600 ∧
    (p.recover = true → p.least.2 ≤ 1000) ∧ (p.policy = 1 → p.least.2 ≤ p.capW) ∧
    (p.policy ≠ 2 → 60000 ≤ p.inMv → p.inMv < 64000 → p.least.2 ≤ derateCap p.inMv) ∧
    (p.policy = 2 → 60000 ≤ p.inMv → p.least.2 ≤ autoCap p.inMv)

/-- R528, R530, R531, R535: what the power loop measures is held; recovery ends at 64.0 V of the bus; under a static cord the duties stay full and, once a step is due, the power setting falls by one while the
average is above the cap and rises by one below 90 % of it; Off changes nothing. -/
def Rule.PowerLoop : Prop :=
  ∀ (s : State) (mv ma w bus : BitVec 17) (dN dS : Fin 257) (step : Bool),
    let c := Instr.powerLoopUpdate mv ma w bus dN dS step
    let p := { s.m.pow with inMv := mv.toNat, inMa := ma.toNat, inW := w.toNat, busMv := bus.toNat,
                            recover := s.m.pow.recover && decide (bus.toNat < 64000) }
    let m := Mod.setCap { s.m with pow := p }
    let full : Mod := { m with pow := { m.pow with dutyN := 256, dutyS := 256 } }
    let flow : Mod := { m with pow := { m.pow with dutyN := dN.val, dutyS := dS.val } }
    (s.m.pow.state = .off → Completes s c s.m) ∧
    (s.m.pow.state ≠ .off → m.staticOn = true → step = true → Completes s c (full.powerStep w.toNat)) ∧
    (s.m.pow.state ≠ .off → m.staticOn = true → step = false → Completes s c full) ∧
    (s.m.pow.state ≠ .off → m.staticOn = false → Completes s c ((flow.protect 0 flow.dieN.prot none).protect 1
      flow.dieS.prot none))

/-- R545: the thermal duty falls from 256 at 95 degrees to 0 at 105 in steps of 16, and the static setting by one a degree. -/
def Rule.ThermalSteps : Prop :=
  ∀ t : Int, (t < 950 → thermDuty t = 256 ∧ thermK t = none) ∧ (1050 ≤ t → thermDuty t = 0) ∧ thermDuty t ≤ 256 ∧ thermDuty t % 16 = 0 ∧
    (∀ u, t ≤ u → thermDuty u ≤ thermDuty t) ∧ (∀ k, thermK t = some k → k ≤ 16) ∧
    (∀ k u j, t ≤ u → thermK t = some k → thermK u = some j → j ≤ k)

/-- R544 to R546: a sample holds its readings, its maxima and the lines that it drives; two samples in a row at 105 degrees of a die's governing sensor are a trip, with both duties at 0; without a trip a cord in dataflow
firing is held at the duty of R545. -/
def Rule.ThermalSample : Prop :=
  ∀ (s : State) (jN jS jHub hN hS : List (BitVec 12)),
    let p := s.m.pow
    let c := Instr.thermalSample jN jS jHub hN hS
    let n := hottest jN (-2048)
    let o := hottest jS (-2048)
    let u := hottest jHub (-2048)
    let tN := max (hottest hN n) u
    let tS := max (hottest hS o) u
    let hot := (1050 ≤ tN ∧ 1050 ≤ p.govN) ∨ (1050 ≤ tS ∧ 1050 ≤ p.govS)
    p.state ≠ .off → jN ≠ [] → jS ≠ [] → jHub ≠ [] →
    ∃ t, Completes s c t ∧ t.pow.tN = n ∧ t.pow.tS = o ∧ t.pow.tHub = u ∧ t.pow.govN = tN ∧ t.pow.govS = tS ∧
      t.pow.maxN = max p.maxN n ∧ t.pow.maxS = max p.maxS o ∧ t.pow.maxHub = max p.maxHub u ∧ t.hbm = s.m.hbm ∧ t.cord = s.m.cord ∧
      (950 ≤ tN ∨ 950 ≤ tS → t.pow.alert = true) ∧ (tN < 900 → tS < 900 → t.pow.alert = false) ∧
      (p.state ≠ .fault → p.trip = false → hot → t.pow.trips = p.trips + 1 ∧ t.pow.thermN = 0 ∧ t.pow.thermS = 0) ∧
      (p.state ≠ .fault → p.trip = false → ¬ hot → t.pow.trips = p.trips ∧
        (s.m.staticOn = false → t.pow.thermN = thermDuty tN ∧ t.pow.thermS = thermDuty tS))

/-- R528, R533 to R535, R555: the input leaves the window: the switch opens and the cause is held; it returns: the switch closes, recovery begins below 64.0 V, the dip is counted; the derated class is entered and left at its
two voltages; a surge is counted. -/
def Rule.InputWindow : Prop :=
  ∀ (s : State) (mv low : BitVec 17) (us : BitVec 32),
    let p := s.m.pow
    let v := mv.toNat
    let high := b2n (decide (80000 < v))
    (p.state ≠ .off → p.swOpen = false → v < 60000 ∨ 80000 < v → Completes s (.inputOutOfWindow mv) (Mod.setCap { s.m with
      pow := { p with swOpen := true, inClass := .out, inMv := v, inMa := 0, lossWhy := high, overs := p.overs + high } })) ∧
    (p.state = .off ∨ p.swOpen = true ∨ (60000 ≤ v ∧ v ≤ 80000) → Completes s (.inputOutOfWindow mv) s.m) ∧
    (p.state ≠ .off → p.swOpen = true → 60500 ≤ v → v ≤ 80000 →
      let m := Mod.setCap { s.m with pow := { p with swOpen := false, inClass := .full, inMv := v, busMv := low.toNat,
                                                     recover := decide (low.toNat < 64000), dips := p.dips + 1 } }
      Completes s (.inputReturn mv low us) (if p.collier then m.event 0x8A01 us.toNat low.toNat else m)) ∧
    (p.state ≠ .off → p.swOpen = false → p.inClass = .full → 60000 ≤ v → v < 64000 →
      let m := Mod.setCap { s.m with pow := { p with inClass := .derated, inMv := v, derates := p.derates + 1 } }
      Completes s (.derateChange mv) (if p.collier then m.event 0x8A03 1 v else m)) ∧
    (p.state ≠ .off → p.swOpen = false → p.inClass = .derated → 64500 ≤ v → v ≤ 80000 →
      let m := Mod.setCap { s.m with pow := { p with inClass := .full, inMv := v } }
      Completes s (.derateChange mv) (if p.collier then m.event 0x8A03 0 v else m)) ∧
    (p.state ≠ .off → 80000 < v → v ≤ 100000 → us.toNat ≤ 10000 →
      let m : Mod := { s.m with pow := { p with surges := p.surges + 1 } }
      Completes s (.surge mv us) (if p.collier then m.event 0x8A04 v us.toNat else m))

/-- R536, R492, R543, R550: the loss procedure ends in Off with nothing held but what journal, fuses and flash keep, of a hearth its sweeps, its corrected errors and the cause of its fault; a complete LOSS record stands in the journal; with the switch closed nothing happens. -/
def Rule.InputLost : Prop :=
  ∀ (s : State) (written : Bool),
    (s.m.pow.state = .off ∨ s.m.pow.swOpen = false → Completes s (.lossProcedure written) s.m) ∧
    (s.m.pow.state ≠ .off → s.m.pow.swOpen = true → ∃ t, Completes s (.lossProcedure written) t ∧ t.pow.state = .off ∧ t.hbm.mem = [] ∧
      t.grid = { hearths := keptHearths s.m.grid.hearths } ∧ t.cord = {} ∧ t.kop.sess = [] ∧ t.sec.sess = [] ∧ t.sec.owner = s.m.sec.owner ∧ t.peat.flash = s.m.peat.flash ∧
      t.pow.losses = s.m.pow.losses + 1 ∧ t.pow.collier = false ∧
      (s.m.pow.collier = true → written = true → ∃ r ∈ t.pow.journal, r.kind = 4 ∧ r.body = t.pow.lastLoss))

/-- R498, R501, R540, R541: what a start leaves, when `m` holds the firmware banks that it boots from: no cord, no byte of HBM, no session, the straps latched; with no bank that verifies the module is in Kindling
and ready for recovery; with one the collier runs, RESET_CAUSE has been raised, and with every step good the module is Damped, or in Fault where self-test holds both dies; HBM or the journal that fails
and a rail that fails put it in Fault. -/
def Started (m t : Mod) (slot : BitVec 6) (feed : BitVec 3) (start : Fin 4) : Prop :=
  t.cord = {} ∧ t.hbm.mem = [] ∧ t.kop.sess = [] ∧ t.sec.sess = [] ∧ t.pow.slotCode = slot.toNat ∧ t.pow.feedCode = feed.toNat ∧
  (m.bootBank = none → t.pow.state = .kindling ∧ t.tst.recovery = true ∧ t.pow.collier = false) ∧
  (m.bootBank.isSome = true → t.pow.collier = true ∧ t.pow.cause = none ∧
    (start.val = 0 → t.pow.state = .damped ∨ (t.pow.state = .fault ∧ t.dieN.held = true ∧ t.dieS.held = true)) ∧
    (start.val = 1 → t.pow.state = .fault ∧ t.pow.reason = 0x1128) ∧ (start.val = 2 → t.pow.state = .fault ∧ t.pow.reason = 0x1126) ∧
    (start.val = 3 → t.pow.state = .kindling))

/-- R541, R542: a reset: the module is in Kindling, on-die state is cleared, no session is left, HBM is not held; what journal, fuses and flash keep stays, of a hearth its sweeps, its corrected errors and the cause of its fault;
open scan closes with SCAN_STATE, STATE_CHANGE names Kindling where the module comes from another state; the boot that follows starts it. -/
def Rule.ResetClears : Prop :=
  (∀ (m : Mod) (cause : Nat), let t := m.hardReset cause
    t.pow.state = .kindling ∧ t.pow.cause = some cause ∧ t.grid = { hearths := keptHearths m.grid.hearths } ∧ t.cord = {} ∧ t.hbm.mem = [] ∧ t.kop.sess = [] ∧ t.sec.sess = [] ∧
    t.pow.collier = false ∧ t.sec.owner = m.sec.owner ∧ t.sec.job = m.sec.job ∧ t.hbm.setMap = m.hbm.setMap ∧ t.hbm.retired = m.hbm.retired ∧
    t.peat.flash = m.peat.flash ∧ t.pow.journal = m.pow.journal ∧
    t.tst.scan = none ∧
    (m.tst.scan = none → m.closeScan.log = m.log) ∧
    (∀ ses, m.tst.scan = some ses → ∃ e, e.code = 0x8C01 ∧ e.d0 = 0 ∧ e.d1 = ses % 2 ^ 64 ∧ e.seq = m.log.next ∧ m.closeScan.log.next = m.log.next + 1 ∧
      m.closeScan.log.ring = (m.log.ring ++ [e]).drop ((m.log.ring ++ [e]).length - 4096)) ∧
    (m.pow.state = .kindling → t.log = m.closeScan.log) ∧
    (m.pow.state ≠ .kindling → ∃ e, e.code = 0x8001 ∧ e.d0 = 0 ∧ e.seq = m.closeScan.log.next ∧ t.log.next = m.closeScan.log.next + 1 ∧
      t.log.ring = (m.closeScan.log.ring ++ [e]).drop ((m.closeScan.log.ring ++ [e]).length - 4096))) ∧
  (∀ (t : Tbl Hearth) (h : Nat) (x : Hearth), (h, x) ∈ t → x.kept ≠ {} → (h, x.kept) ∈ keptHearths t) ∧
  (∀ x : Hearth, x.kept.passes = x.passes ∧ x.kept.ce = x.ce ∧ x.kept.cause = x.cause ∧ x.kept.hs = [] ∧ x.kept.regions = []) ∧
  (∀ (m : Mod) (slot : BitVec 6) (feed : BitVec 3) (start : Fin 4) (fails : List (Nat × Nat × Nat)) (cause : Nat),
    Started m (((m.hardReset cause).latch slot feed).boot start.val fails) slot feed start)

/-- R541, R584: RESET_IN_N, asserted, resets a module that is not Off and holds it; released, it latches the straps and lets the boot go on; in Off the pin is only noted. -/
def Rule.ResetPin : Prop :=
  (∀ s : State,
    (s.m.pow.held = true → Completes s .resetInAssert s.m) ∧
    (s.m.pow.held = false → s.m.pow.state = .off → Completes s .resetInAssert { s.m with pow := { s.m.pow with held := true } }) ∧
    (s.m.pow.held = false → s.m.pow.state ≠ .off → Completes s .resetInAssert
      { s.m.hardReset 0 with pow := { (s.m.hardReset 0).pow with held := true } })) ∧
  (∀ (s : State) (slot : BitVec 6) (feed : BitVec 3) (start : Fin 4) (fails : List (Fin 2 × Fin 64 × Fin 65)),
    let m : Mod := { s.m with pow := { s.m.pow with held := false } }
    (s.m.pow.held = false → Completes s (.resetInRelease slot feed start fails) s.m) ∧
    (s.m.pow.held = true → s.m.pow.state = .off → Completes s (.resetInRelease slot feed start fails) m) ∧
    (s.m.pow.held = true → s.m.pow.state ≠ .off → ∃ t, Completes s (.resetInRelease slot feed start fails) t ∧
      t = (m.latch slot feed).boot start.val (failList fails) ∧ t.pow.slotCode = slot.toNat ∧ t.pow.feedCode = feed.toNat ∧
      t.pow.held = false ∧ t.tick.now = s.m.tick.now))

/-- R500, R501, R541, R542: the other resets: the RESET command is taken Damped or in Fault by Owner and Service; a trial boot that has not reached Damped, or is in Fault, goes back to the former bank; a silent collier
resets the module. Each starts the module again. -/
def Rule.ResetCauses : Prop :=
  ∀ (s : State) (ses seq : BitVec 32) (p : Pdu) (slot : BitVec 6) (feed : BitVec 3) (start : Fin 4) (fails : List (Fin 2 × Fin 64 × Fin 65)),
    let c := Instr.reset ses seq slot feed start fails
    let may := s.m.pow.state = .damped ∨ s.m.pow.state = .fault
    let old : Mod := { s.m with sec := { s.m.sec with trial := false } }
    (s.m.invokes ses seq 0x1420 [2, 3] true p → p.value.length = 0 →
      (¬ may → Completes s c (s.m.cmdEnds ses 0x1420 p 0x1101)) ∧
      (may → ∃ t, Completes s c t ∧ Started s.m t slot feed start)) ∧
    (s.m.sec.onTrial = false ∨ s.m.pow.held = true ∨ (s.m.pow.state ≠ .kindling ∧ s.m.pow.state ≠ .fault) →
      Completes s (.bootWatchdog slot feed start fails) s.m) ∧
    (s.m.sec.onTrial = true → s.m.pow.held = false → s.m.pow.state = .kindling ∨ s.m.pow.state = .fault →
      ∃ t, Completes s (.bootWatchdog slot feed start fails) t ∧ Started old t slot feed start ∧
        (old.bootBank.isSome = true → ∃ e ∈ t.log.ring, e.code = 0x8B08 ∧ e.d0 = (1 - s.m.sec.active) % 2 ^ 32)) ∧
    (s.m.pow.collier = true → s.m.pow.state ≠ .off → ∃ t, Completes s (.collierWatchdog slot feed start fails) t ∧
      Started s.m t slot feed start) ∧
    (s.m.pow.collier = false ∨ s.m.pow.state = .off → Completes s (.collierWatchdog slot feed start fails) s.m)

/-- R529, R538, R540: with an input between 64.0 V and 80.0 V an Off module starts: the straps are latched and the power-up is counted; with RESET_IN_N asserted it waits in Kindling. -/
def Rule.StartUp : Prop :=
  ∀ (s : State) (mv : BitVec 17) (slot : BitVec 6) (feed : BitVec 3) (start : Fin 4) (fails : List (Fin 2 × Fin 64 × Fin 65)),
    let c := Instr.powerUp mv slot feed start fails
    (s.m.pow.state ≠ .off ∨ mv.toNat < 64000 ∨ 80000 < mv.toNat → Completes s c s.m) ∧
    (s.m.pow.state = .off → 64000 ≤ mv.toNat → mv.toNat ≤ 80000 → ∃ t, Completes s c t ∧ t.pow.powerUps = s.m.pow.powerUps + 1 ∧
      t.pow.slotCode = slot.toNat ∧ t.pow.feedCode = feed.toNat ∧ t.pow.state ≠ .off ∧ t.pow.swOpen = false ∧ t.pow.inMv = mv.toNat ∧
      (s.m.pow.held = true → t.pow.state = .kindling ∧ t.pow.collier = false) ∧
      (s.m.pow.held = false → Started s.m t slot feed start))

/-- R539: Draining ends with empty queues, HBM in self-refresh and the module Damped, or after 10 ms in Fault; a rail that fails while the input is in window puts the module in Fault. -/
def Rule.DrainAndRails : Prop :=
  ∀ s : State,
    (s.m.pow.state ≠ .draining → Completes s .drainingComplete s.m ∧ Completes s .drainTimeout s.m) ∧
    (s.m.pow.state = .draining → Completes s .drainTimeout (s.m.enterFault 0x1127) ∧ ∃ t, Completes s .drainingComplete t ∧
      t.pow.state = .damped ∧ t.hbm.selfRef = true ∧ t.hbm.mem = s.m.hbm.mem ∧ t.grid.flights = [] ∧
      (∀ q ∈ t.grid.inqs, q.2.router = [] ∧ q.2.spill = [] ∧ q.2.credit = q.2.size) ∧
      (∀ b ∈ t.grid.trees, b.2.credit = 8 ∧ ∀ x ∈ b.2.nodes, x.entries = []) ∧ t.grid.hearths = s.m.grid.hearths) ∧
    (s.m.pow.state ≠ .off → s.m.pow.swOpen = false → s.m.pow.collier = true → Completes s .railFault (s.m.enterFault 0x1126)) ∧
    (s.m.pow.state = .off ∨ s.m.pow.swOpen = true ∨ s.m.pow.collier = false → Completes s .railFault s.m)

/-- R538, R539: to enter Fault holds the reason, drives FAULT_N low and tells the other modules; a module in Fault stays as it is. -/
def Rule.FaultEntered : Prop :=
  ∀ (m : Mod) (code : Nat),
    (m.pow.state = .fault → m.enterFault code = m) ∧
    (m.pow.state ≠ .fault → (m.enterFault code).pow.state = .fault ∧ (m.enterFault code).pow.reason = code ∧
      (m.enterFault code).pow.faultN = .low ∧ (m.enterFault code).hbm = m.hbm ∧ (m.enterFault code).grid = m.grid)

/-- R548 to R550, R554: a SNAPSHOT is appended to the journal with the lanes' codewords counted: records of every flash block's erases, then one of the counters; the 80 % wear is reported once; no
record is ever taken out. -/
def Rule.JournalKeeps : Prop :=
  ∀ (s : State) (lanes : List (Fin 32 × BitVec 64 × BitVec 64)),
    (s.m.pow.collier = false → Completes s (.journalSnapshot lanes) s.m) ∧
    (s.m.pow.collier = true → ∃ t er r more, Completes s (.journalSnapshot lanes) t ∧ t.pow.journal = s.m.pow.journal ++ er ++ r :: more ∧
      (∀ x ∈ er, x.kind = 1 ∧ x.body.length ≤ 4064) ∧
      er.flatMap JRec.body = s.m.peat.erases.flatMap (fun p => leBytes 4 (p.1 / 2 ^ 32) ++ leBytes 4 p.1 ++ leBytes 8 p.2) ∧ r.kind = 1 ∧
      ((s.m.peat.written.map Prod.snd).sum < 2 ^ 64 → leNat ((r.body.drop 56).take 8) = (s.m.peat.written.map Prod.snd).sum) ∧
      r.boot = s.m.pow.powerUps ∧ (∀ x ∈ more, x.kind = 2) ∧ (more ≠ [] → s.m.pow.worn = false ∧ t.pow.worn = true) ∧
      t.hbm = s.m.hbm ∧ t.cord = s.m.cord)

/-! ### Test and service -/

/-- R556 to R560: the test access port. TRST_N resets it and nothing else; BYPASS and, with scan closed, every instruction but IDCODE only select the bypass register; with scan open each instruction stands in the instruction register, takes
the pins or leaves them, and SAMPLE and the EXTEST instructions capture the boundary register and hold what is shifted in. Off changes nothing but by TRST_N. -/
def Rule.TestPort : Prop :=
  ∀ (s : State) (pins din : BitVec 147),
    let off := s.m.pow.state = .off
    let on := s.m.scanOn = true
    let by' := s.m.asBypass
    (Completes s .trst { s.m with tst := tapReset s.m.tst }) ∧
    (Completes s .bypass by') ∧ (off → by' = s.m) ∧ (¬ off → by' = s.m.tap 0xFF false) ∧
    (off → Completes s .idcode s.m) ∧
    (¬ off → Completes s .idcode { s.m with tst := { s.m.tst with ir := 1, takes := false, cap := 0x14800DCB } }) ∧
    (on → Completes s (.samplePreload pins din) ((s.m.tap 2 false).boundary pins din) ∧
      Completes s (.extest pins din) ((s.m.tap 0 true).boundary pins din) ∧
      Completes s (.extestPulse pins din) ((s.m.tap 3 true).boundary pins din) ∧
      Completes s (.extestTrain pins din) ((s.m.tap 4 true).boundary pins din) ∧
      Completes s .clamp (s.m.tap 5 true) ∧ Completes s .highz (s.m.tap 6 true)) ∧
    (¬ on → ∀ c ∈ [Instr.samplePreload pins din, .extest pins din, .extestPulse pins din, .extestTrain pins din, .clamp, .highz],
      Completes s c by')

/-- R559: the pins as the boundary register and the instruction drive them: HIGHZ releases every output; CLAMP and EXTEST hold what the register's cells say; else the functional drive shows. -/
def Rule.PinDrive : Prop :=
  ∀ m : Mod,
    (m.tst.takes = false → (m.faultPin = .low ↔ m.pow.faultN = .low) ∧ (m.alertPin = .low ↔ m.pow.alert = true) ∧ m.ppsPin = m.pow.pps) ∧
    (m.tst.takes = true → m.tst.ir = 6 → m.faultPin = .z ∧ m.alertPin = .z ∧ m.ppsPin = .z) ∧
    (m.tst.takes = true → m.tst.ir ≠ 6 →
      (m.faultPin = .low ↔ m.tst.bsr.getLsbD 132 = true ∧ m.tst.bsr.getLsbD 131 = false) ∧
      (m.alertPin = .low ↔ m.tst.bsr.getLsbD 134 = true ∧ m.tst.bsr.getLsbD 133 = false) ∧
      (m.ppsPin = .high ↔ m.tst.bsr.getLsbD 137 = true ∧ m.tst.bsr.getLsbD 136 = true) ∧
      (m.ppsPin = .z ↔ m.tst.bsr.getLsbD 137 = false))

/-- R558: the debug instructions act with scan open and the state owner-debug or service, COLLIER_DBG in service only: HDBG_HALT freezes a hearth or releases it; HDBG_RING writes or reads one word over the
control ring, of a logical hearth or of an unused spare column's, and is answered as stopped in a die that does not run; HDBG_HBM reads or writes one burst outside the reserved areas and of a die that runs; COLLIER_DBG takes cores 0 to 3; else they act as BYPASS. -/
def Rule.DebugInstructions : Prop :=
  ∀ (s : State) (h : BitVec 13) (a : BitVec 32) (w : Bool) (d : BitVec 64) (b : BitVec 40) (x : BitVec 512) (n : BitVec 8),
    let on := s.m.debugOn = true
    let t := fun (op : BitVec 8) => s.m.tap op false
    let g := (t 0x20).hearth h.toNat
    let down := (s.m.die (hDie (slice a.toNat 12 0))).run ≠ .running
    let spare := spareStop a.toNat = true
    let burst := b.toNat / 64 * 64
    let out := 768000000000 ≤ burst ∨ hbmReserved burst = true ∨ s.m.dieRuns (s.m.dieAt burst) = false
    let sees : Mod := { t 0x21 with tst := { (t 0x21).tst with aborted := false } }
    let read := sees.ringRead a.toNat
    let of' := sees.spareRead a.toNat d.toNat
    (¬ on → ∀ c ∈ [Instr.hdbgHalt h, .hdbgRing a w d, .hdbgHbm b none, .hdbgHbm b (some x)], Completes s c s.m.asBypass) ∧
    (on → Completes s (.hdbgHalt h) ((t 0x20).setHearth h.toNat { g with halted := !g.halted })) ∧
    (on → down → Completes s (.hdbgRing a w d) { t 0x21 with tst := { (t 0x21).tst with aborted := true } }) ∧
    (on → ¬ down → ¬ spare → Completes s (.hdbgRing a true d) (sees.ringWrite a.toNat d.toNat) ∧
      Completes s (.hdbgRing a false d) { read.2 with tst := { read.2.tst with ring := BitVec.ofNat 64 read.1 } }) ∧
    (on → ¬ down → spare → Completes s (.hdbgRing a true d) (sees.spareWrite a.toNat d.toNat) ∧
      Completes s (.hdbgRing a false d) { of'.2 with tst := { of'.2.tst with ring := BitVec.ofNat 64 of'.1 } }) ∧
    (on → out → Completes s (.hdbgHbm b none) (t 0x22) ∧ Completes s (.hdbgHbm b (some x)) (t 0x22)) ∧
    (on → ¬ out → Completes s (.hdbgHbm b (some x)) ((t 0x22).hbmPut burst (leBytes 64 x.toNat)) ∧
      Completes s (.hdbgHbm b none) { t 0x22 with tst := { (t 0x22).tst with hbmOut := (t 0x22).hbmRaw burst 64 } }) ∧
    (s.m.scanOn = true → s.m.sec.state = 2 → n.toNat < 4 → Completes s (.collierDbg n)
      { t 0x23 with tst := { (t 0x23).tst with dbgCore := some n.toNat } }) ∧
    (¬ (s.m.scanOn = true ∧ s.m.sec.state = 2 ∧ n.toNat < 4) → Completes s (.collierDbg n) s.m.asBypass)

/-- R260, R261, R8: what the control ring reaches, under the ring addresses that are the model's choice (log entry 70): a read and a write of eight bytes of a hearth store; the status word of a hearth, whose corrected
errors and passes the read clears and whose address fault a 1 clears; the memory of a scalar core; its registers and its program counter. -/
def Rule.RingAccess : Prop :=
  ∀ (m : Mod) (h : BitVec 13) (n : Fin 123) (k : Fin 16384) (w : Fin 64) (i : Fin 16) (v : Nat),
    let c := scAt h n
    let hs := h.toNat + 2 ^ 16 * k.val
    let word := h.toNat + 2 ^ 30
    let core := h.toNat + 2 ^ 13 * coreSc n.val
    let mem := core + 2 ^ 20 * w.val + 2 ^ 31
    let reg := core + 2 ^ 20 * (512 + i.val) + 3 * 2 ^ 30
    let pc := core + 2 ^ 20 * 528 + 3 * 2 ^ 30
    m.ringRead hs = (leNat (m.hsGet h.toNat (8 * k.val) 8), m) ∧
    m.ringWrite hs v = m.hsPut h.toNat (8 * k.val) (leBytes 8 v) ∧
    m.ringRead word = (m.hearthWord h.toNat, m.setHearth h.toNat { m.hearth h.toNat with ce := 0, passes := 0 }) ∧
    m.ringWrite word v = m.setHearth h.toNat { m.hearth h.toNat with addrFlt := (m.hearth h.toNat).addrFlt && !bitAt v 24 } ∧
    m.ringRead mem = (leNat (mRead (m.sc c).dmem (8 * w.val) 8), m) ∧
    m.ringWrite mem v = m.setSc c { m.sc c with dmem := mWrite (m.sc c).dmem (8 * w.val) (leBytes 8 v) } ∧
    m.ringRead reg = (((m.sc c).get i.val).toNat, m) ∧ m.ringWrite reg v = m.setSc c ((m.sc c).put i.val (BitVec.ofNat 32 v)) ∧
    m.ringRead pc = ((m.ctl c).pc, m) ∧ m.ringWrite pc v = m.setPc c (v % 128)

/-- R259, R261, R63: an unused spare column's hearths stand on the control ring as well, under ring addresses that are the model's choice (log entry 70): a word written is read back and no other word changes, the status word reads as R63 gives it
and its counts clear; on a die whose spare is in use no stop takes the word. -/
def Rule.SpareRing : Prop :=
  ∀ (m : Mod) (h : BitVec 13) (i j : Fin (2 ^ 14)) (k : Fin 2) (v sent : Nat),
    let at' := fun (i : Fin (2 ^ 14)) => h.toNat + 2 ^ 15 + 2 ^ 16 * i.val + 2 ^ 30 * k.val
    let x := m.die (hDie h.toNat)
    let row := hRow h.toNat
    spareStop (at' i) = true ∧
    (x.f = 64 → ¬ (k = 1 ∧ i = 0) →
      ((m.spareWrite (at' i) v).spareRead (at' i) sent).1 = v ∧
      (j ≠ i → ¬ (k = 1 ∧ j = 0) → ((m.spareWrite (at' i) v).spareRead (at' j) sent).1 = (m.spareRead (at' j) sent).1) ∧
      (m.spareRead (at' i) sent).2 = m) ∧
    (x.f = 64 → k = 1 → i = 0 → m.spareWrite (at' i) v = m ∧ (m.spareRead (at' i) sent).1 = m.physWord (hDie h.toNat) row 64 ∧
      (tGet {} ((m.spareRead (at' i) sent).2.die (hDie h.toNat)).spares row).ce = 0 ∧
      (tGet {} ((m.spareRead (at' i) sent).2.die (hDie h.toNat)).spares row).passes = 0) ∧
    (x.f ≠ 64 → m.spareWrite (at' i) v = m ∧ m.spareRead (at' i) sent = (sent, m))

/-- R557: SCAN_OPEN with a cord installed, or in another state than Damped and Fault, is refused; else scan is open for its session; SCAN_CLOSE closes it. -/
def Rule.Scan : Prop :=
  ∀ (s : State) (ses seq : BitVec 32) (p : Pdu),
    let may := s.m.pow.state = .damped ∨ s.m.pow.state = .fault
    let cord := s.m.pow.state = .damped ∧ s.m.cord.inst ≠ none
    let c := Instr.scanOpen ses seq
    (s.m.invokes ses seq 0x1421 [3] true p → p.value.length = 0 →
      (cord → Completes s c (s.m.cmdEnds ses 0x1421 p 0x1202)) ∧
      (¬ cord → ¬ may → Completes s c (s.m.cmdEnds ses 0x1421 p 0x1201)) ∧
      (¬ cord → may → Completes s c ((Mod.event { s.m with tst := { s.m.tst with scan := some ses.toNat } } 0x8C01 1 ses.toNat).cmdEnds ses 0x1421 p 0))) ∧
    (s.m.invokes ses seq 0x1422 [3] true p → p.value.length = 0 → Completes s (.scanClose ses seq) (s.m.closeScan.cmdEnds ses 0x1422 p 0)) ∧
    s.m.closeScan.tst.scan = none

/-- R562, R561: SELFTEST_RUN refuses a die that does not exist, a cord and another state; it runs else. Its end empties the memories of the tested dies, gives the result bytes and, where both dies are held then, puts the module in Fault. -/
def Rule.SelfTestOnDemand : Prop :=
  ∀ (s : State) (ses seq : BitVec 32) (p : Pdu) (fails : List (Fin 2 × Fin 64 × Fin 65)),
    let may := s.m.pow.state = .damped ∨ s.m.pow.state = .fault
    let cord := s.m.pow.state = .damped ∧ s.m.cord.inst ≠ none
    let w := beNat p.value
    let c := Instr.selftestRun ses seq
    (s.m.invokes ses seq 0x1423 [3] true p → p.value.length = 1 →
      (2 < w → Completes s c (s.m.cmdEnds ses 0x1423 p 0xF05)) ∧
      (w ≤ 2 → cord → Completes s c (s.m.cmdEnds ses 0x1423 p 0x1202)) ∧
      (w ≤ 2 → ¬ cord → ¬ may → Completes s c (s.m.cmdEnds ses 0x1423 p 0x1201)) ∧
      (w ≤ 2 → ¬ cord → may → Completes s c (Mod.cmdGoes { s.m with tst := { s.m.tst with running := some w } } ses 0x1423 p
        (s.m.cmd 0x1423)))) ∧
    (s.m.tst.running = none → Completes s (.selftestDone fails) s.m) ∧
    (∀ d : Fin 2, s.m.tst.running = some d.val → ∃ t, Completes s (.selftestDone fails) t ∧ t.tst.running = none ∧
      (d = 0 → t.tst.failN = (s.m.dieN.failing (ofDie 0 (failList fails))).length ∧ t.tst.failS = s.m.tst.failS) ∧
      (d = 1 → t.tst.failS = (s.m.dieS.failing (ofDie 1 (failList fails))).length ∧ t.tst.failN = s.m.tst.failN) ∧
      (t.cmd 0x1423).busy = false ∧ (∀ q ∈ t.grid.hearths, hDie q.1 = d.val → q.2.hs = [] ∧ q.2.regions = [] ∧ q.2.reqs = []) ∧ (t.die d.val).words = [] ∧ t.hbm.mem = s.m.hbm.mem)

/-- R561, R562: each failure that self-test finds on a die goes to the journal; what it makes of them together: none; one column that the spare replaces; the spare itself, which is unsound then; more than the spare can replace, which holds the die. -/
def Rule.SelfTestOutcome : Prop :=
  ∀ (m : Mod) (d : Fin 2) (fs : List (Nat × Nat)),
    let x := m.die d.val
    let cols := ((x.failing fs).map Prod.snd).eraseDups
    let t := m.selfTest d.val false fs
    let body := fun (p : Nat × Nat) => leBytes 4 (hPack d.val p.1 0 + 2 ^ 16 * p.2) ++ leBytes 4 8
    let written := fun (p : Nat × Nat) => ({ kind := 2, boot := m.pow.powerUps, time := m.time, body := body p } : JRec)
    (∃ more, t.pow.journal = m.pow.journal ++ (x.failing fs).map written ++ more) ∧
    (cols = [] → (t.die d.val).held = x.held ∧ (t.die d.val).f = x.f ∧ (t.die d.val).sound = x.sound) ∧
    (cols = [64] → x.f = 64 → (t.die d.val).sound = false ∧ (t.die d.val).f = 64 ∧ (t.die d.val).held = x.held) ∧
    (∀ c, cols = [c] → c ≠ 64 → x.f = 64 → (t.die d.val).f = c ∧ (t.die d.val).held = x.held ∧ (t.die d.val).sound = x.sound) ∧
    (∀ c, cols = [c] → x.f ≠ 64 → (t.die d.val).held = true ∧ (t.die d.val).run = .stopped) ∧
    (1 < cols.length → (t.die d.val).held = true ∧ (t.die d.val).run = .stopped ∧ (t.die d.val).f = x.f)

/-- R566: LANE_TEST checks its port, its pattern and its time, and that the port is disabled; its end gives each lane's errored bits, frees the port and lets a held enable take effect. -/
def Rule.LaneTest : Prop :=
  ∀ (s : State) (ses seq : BitVec 32) (p : Pdu) (errs : List (Fin 4 × BitVec 64)),
    let q := byteN p.value 0 1
    let secs := byteN p.value 2 2
    let good := byteN p.value 1 1 ≤ 1 ∧ 1 ≤ secs ∧ secs ≤ 3600
    let c := Instr.laneTest ses seq
    let no := fun (code : Nat) => s.m.cmdEnds ses 0x1424 p code
    (s.m.invokes ses seq 0x1424 [3] true p → p.value.length = 4 →
      (7 < q → Completes s c (no 0xF05)) ∧
      (q ≤ 7 → ¬ good → Completes s c (no 0x16)) ∧
      (q ≤ 7 → good → s.m.pow.state = .draining → Completes s c (no 0x1201)) ∧
      (q ≤ 7 → good → s.m.pow.state ≠ .draining → (s.m.port q).en = true → Completes s c (no 0x1205)) ∧
      (q ≤ 7 → good → s.m.pow.state ≠ .draining → (s.m.port q).en = false →
        let m := s.m.setPort q { s.m.port q with testing := true }
        Completes s c (Mod.cmdGoes { m with tst := { m.tst with lane := some (q, byteN p.value 1 1, secs) } } ses 0x1424 p (s.m.cmd 0x1424)))) ∧
    (s.m.tst.lane = none → Completes s (.laneTestDone errs) s.m) ∧
    (∀ k pat n, s.m.tst.lane = some (k, pat, n) → ∃ t, Completes s (.laneTestDone errs) t ∧ t.tst.lane = none ∧ (t.port k).testing = false ∧
      ((s.m.port k).pend = true → (t.port k).en = true ∧ (t.port k).run = .starting) ∧
      ((s.m.port k).pend = false → (t.port k).en = (s.m.port k).en ∧ (t.port k).run = (s.m.port k).run) ∧
      t.log.next = s.m.log.next + 1)

/-- R563: while Running and 1,024 ticks after the last one, one hearth of each unused spare column of a running die is tested, the next in turn; one that fails makes the spare unsound and is reported once. -/
def Rule.SpareTest : Prop :=
  ∀ (s : State) (fN fS : Bool),
    (s.m.pow.state ≠ .running ∨ s.m.tst.sinceT < 1024 → Completes s (.spareOnlineTest fN fS) s.m) ∧
    (s.m.pow.state = .running → 1024 ≤ s.m.tst.sinceT → ∃ t, Completes s (.spareOnlineTest fN fS) t ∧ t.tst.sinceT = s.m.tst.sinceT - 1024 ∧
      (s.m.dieN.f = 64 → s.m.dieN.run = .running → t.tst.rowN = (s.m.tst.rowN + 1) % 64 ∧ t.dieN.sound = (s.m.dieN.sound && !fN)) ∧
      (s.m.dieS.f = 64 → s.m.dieS.run = .running → t.tst.rowS = (s.m.tst.rowS + 1) % 64 ∧ t.dieS.sound = (s.m.dieS.sound && !fS)) ∧
      (s.m.dieN.f ≠ 64 ∨ s.m.dieN.run ≠ .running → t.dieN = s.m.dieN ∧ t.tst.rowN = s.m.tst.rowN) ∧
      (s.m.dieS.f ≠ 64 ∨ s.m.dieS.run ≠ .running → t.dieS = s.m.dieS ∧ t.tst.rowS = s.m.tst.rowS))

/-- R565, R499, R501: firmware recovery, only in Kindling and when no bank has verified: FW_LOAD erases bank 0 and fills it with words, up to its 32 MiB; FW_COMMIT with a pair that does not verify erases the bank and stays; with one that verifies bank 0 is active
and the module starts again. -/
def Rule.FirmwareRecovery : Prop :=
  ∀ (s : State) (words : List Word) (sigOk : Bool) (slot : BitVec 6) (feed : BitVec 3) (start : Fin 4) (fails : List (Fin 2 × Fin 64 × Fin 65)),
    let on := s.m.tst.recovery = true ∧ s.m.pow.state = .kindling
    let bad := fwBad (wsBytes s.m.sec.bank0.words) sigOk s.m.sec.roll
    let c := Instr.fwCommit sigOk slot feed start fails
    (¬ on → Completes s (.fwLoad words) s.m.asBypass ∧ Completes s c s.m.asBypass) ∧
    (on → Completes s (.fwLoad words) ((s.m.tap 0x30 false).setBank 0 { words := words.take 8388608 })) ∧
    (on → bad ≠ none → ∃ t, Completes s c t ∧ t.bank 0 = {} ∧ t.pow.state = .kindling ∧ t.tst.recovery = true ∧ t.pow.faultN = .low ∧
      t.sec.active = s.m.sec.active) ∧
    (on → bad = none →
      let k := (s.m.tap 0x31 false).setBank 0 (fwBank (wsBytes s.m.sec.bank0.words))
      let z := Mod.clear { k with sec := { k.sec with active := 0, trial := false } }
      let m := Mod.latch { z with pow := { z.pow with state := .kindling } } slot feed
      let b := m.boot start.val (failList fails)
      (s.m.pow.held = true → Completes s c m) ∧
      (s.m.pow.held = false → Completes s c (if b.pow.collier then b.event 0x8C05 0 0 else b)))

/-- R62, R63: the status word of a hearth: its run state, spare bit, cause, correctable counts; a retired column reads stopped with its cause, the unused spare parked or stopped with what it counts itself, every other column the word of the logical
hearth that it carries. -/
def Rule.HearthStatusWords : Prop :=
  ∀ (m : Mod) (h d row col : Nat),
    let x := m.hearth h
    let w := m.hearthWord h
    let y := tGet {} (m.die d).spares row
    let z := m.physWord d row 64
    (x.cause < 32 → x.ce < 256 → x.passes < 256 →
      slice w 1 0 = (if x.stopped then 3 else if m.placed.contains h && m.coresRun then 2 else if m.placed.contains h then 1 else 0) ∧
      bitAt w 2 = decide ((m.die (hDie h)).f ≤ hCol h) ∧ slice w 7 3 = x.cause ∧ slice w 15 8 = x.ce ∧ slice w 23 16 = x.passes ∧
      bitAt w 24 = x.addrFlt) ∧
    (col < (m.die d).f → m.physWord d row col = m.hearthWord (hPack d row col)) ∧
    ((m.die d).f < col → m.physWord d row col = m.hearthWord (hPack d row (col - 1))) ∧
    ((m.die d).f = 64 → y.cause < 32 → y.ce < 256 → y.passes < 256 →
      slice z 1 0 = (if y.stopped then 3 else 0) ∧ slice z 7 3 = y.cause ∧ slice z 15 8 = y.ce ∧ slice z 23 16 = y.passes) ∧
    (col = (m.die d).f → col ≠ 64 → slice (m.physWord d row col) 1 0 = 3)

/-! ### Bytes and the whole machine -/

/-- R5, R466, R468: the module reads from the bytes of a PDU the PDU that was written into them, whatever signature and tag follow. -/
def Rule.PduRoundTrip : Prop := ∀ (p : Pdu) (rest : List Byte), p.fits → Pdu.ofBytes (p.bytes ++ rest) = p

/-- R5, R362: an exchange message is read as it was written. -/
def Rule.ExchangeRoundTrip : Prop := ∀ x : ExMsg, x.fits → ExMsg.ofBytes x.bytes = x

/-- R5, R402: a cluster message is read as it was written. -/
def Rule.ClusterRoundTrip : Prop := ∀ x : ClMsg, x.fits → ClMsg.ofBytes x.bytes = x

/-- R391, R363, R414: a batch's token records, a SUMMARY's partial records and digest records are read as they were written. -/
def Rule.RecordRoundTrips : Prop :=
  (∀ ts : List (Word × List Word), (∀ t ∈ ts, 1 ≤ t.2.length ∧ t.2.length ≤ 16) →
    tokRecs ts.length (ts.flatMap fun t => tokRec t.1 t.2) = ts) ∧
  (∀ l : List PartRec, (∀ r ∈ l, r.piece < 2 ^ 16 ∧ r.tensor < 2 ^ 16 ∧ r.samples < 2 ^ 32) →
    partRecs l.length (l.flatMap PartRec.bytes) = l) ∧
  (∀ l : List DigRec, (∀ r ∈ l, r.tensor < 2 ^ 16 ∧ r.first < 2 ^ 40) → digRecs l.length (l.flatMap DigRec.bytes) = l)

/-- R5: a number of n bytes is read back from them, in either byte order. -/
def Rule.ByteOrders : Prop :=
  ∀ (n x : Nat), (leBytes n x).length = n ∧ (beBytes n x).length = n ∧ leNat (leBytes n x) = x % 2 ^ (8 * n) ∧ beNat (beBytes n x) = x % 2 ^ (8 * n) ∧
    ∀ l : List Byte, leBytes l.length (leNat l) = l ∧ beBytes l.length (beNat l) = l

/-- R294, R326 and the byte addresses of R276: what is written to HBM is read back, and no other byte changes; a whole burst written is sound again. -/
def Rule.HbmReadsBack : Prop :=
  ∀ (m : Mod) (a : Nat) (b : List Byte),
    (m.hbm.bad = [] → (m.hbmPut a b).hbmRaw a b.length = b) ∧
    (∀ x n, x + n ≤ a ∨ a + b.length ≤ x → (m.hbmPut a b).hbmRaw x n = m.hbmRaw x n) ∧
    (∀ u, a ≤ 64 * u → 64 * u + 64 ≤ a + b.length → u ∉ (m.hbmPut a b).hbm.bad) ∧ (m.hbmPut a b).grid = m.grid

/-- Every command that waits is taken, first in, first out, and the machine answers a next state for it: no command is refused, none stops the machine, and none touches the commands
that wait behind it; with none waiting the machine stays as it is. -/
def Rule.EveryCommandTaken : Prop :=
  ∀ s : State, (s.pending = [] → Sys2Proof.Machine.step s = .next s) ∧
    (∀ c rest, s.pending = c :: rest → ∃ t, Sys2Proof.Machine.step s = .next t ∧ t.pending = rest)

/-- Whatever command a step takes, the memory of HBM keeps its canonical form: equal contents are equal data after every write, move, import, zeroisation and reset. -/
def Rule.HbmStaysCanonical : Prop :=
  ∀ s t : State, s.hbmCanonical → Sys2Proof.Machine.step s = .next t → t.hbmCanonical

/-- The state after reset: Off, no cord, no owner, no session, nothing waits, memories list nothing, both dies at setting 16 with their spare free and sound, the set map is the identity, no set retired. The start of
the state number and of the journal are the model's choice (log entry 67). -/
def Rule.ResetState : Prop :=
  let s := State.reset
  s.pending = [] ∧ s.hbmCanonical ∧ s.m.hbm.mem = [] ∧ s.m.grid = {} ∧ s.m.cord.inst = none ∧ s.m.sec.owner = [] ∧ s.m.sec.job = none ∧ s.m.kop.sess = [] ∧
    s.m.pow.state = .off ∧ s.m.pow.collier = false ∧ s.m.dieN.f = 64 ∧ s.m.dieS.f = 64 ∧ s.m.dieN.k = 16 ∧ s.m.dieS.k = 16 ∧ s.m.hbm.side = false ∧
    s.m.hbm.setMap = List.range 32 ∧ s.m.hbm.retired = [] ∧ s.m.log.ring = [] ∧ s.m.eth.dscp = [26, 34, 10, 48] ∧ s.m.pow.policy = 0 ∧ s.m.pow.cap = 2600

/-! ### The obligations -/

/-- A step runs the command at the front of the queue on the rest of it. -/
def Obligations.StepRunsTheFrontCommand : Prop :=
  Rule.StepRunsTheFrontCommand

/-- Every waiting command is taken in order and none is refused or stops the machine. -/
def Obligations.EveryCommandTaken : Prop :=
  Rule.EveryCommandTaken

/-- Every step keeps the memory of HBM in its canonical form. -/
def Obligations.HbmStaysCanonical : Prop :=
  Rule.HbmStaysCanonical

/-- The state after reset. -/
def Obligations.ResetState : Prop :=
  Rule.ResetState

/-- PDUs, exchange and cluster messages and their records are read as they were written. -/
def Obligations.MessagesReadAsWritten : Prop :=
  Rule.PduRoundTrip ∧ Rule.ExchangeRoundTrip ∧ Rule.ClusterRoundTrip ∧ Rule.RecordRoundTrips ∧ Rule.ByteOrders

/-- Every value of every number format is encoded as it is decoded. -/
def Obligations.FormatRoundTrip : Prop :=
  Rule.FormatRoundTrip

/-- What every core instruction leaves alone, register 0, reserved opcodes and the program fault. -/
def Obligations.CoreInstructionRules : Prop :=
  Rule.RegisterZeroLaws ∧ Rule.ReservedOpcodesAndProgramEnd ∧ Rule.ProgramFaultEffect ∧ Rule.CoreInstructionFrame

/-- The scalar core's register and immediate operations. -/
def Obligations.ScalarComputes : Prop :=
  Rule.ScalarRegisterOperations ∧ Rule.ScalarImmediateOperations

/-- HASH: its bucket, its range and the immediates that it refuses. -/
def Obligations.HashBucket : Prop :=
  Rule.HashBucket

/-- SORT: one stage of the network, its refusals, and what three stages leave. -/
def Obligations.SortStages : Prop :=
  Rule.SortStages

/-- The scalar core's loads, stores and branches. -/
def Obligations.ScalarMemoryAndBranches : Prop :=
  Rule.ScalarLoadsAndStores ∧ Rule.ScalarBranches

/-- TAKE, PUT, PEEK and QCNT of the scalar core. -/
def Obligations.ScalarTokens : Prop :=
  Rule.ScalarTake ∧ Rule.ScalarPut ∧ Rule.PeekAndCount

/-- Gathers, scatters, CAS, AADD, FENCE and SYNC of the scalar core. -/
def Obligations.ScalarRequests : Prop :=
  Rule.ScalarRequests ∧ Rule.SyncContribution

/-- Lane by lane arithmetic, compares, selects, moves, conversions and approximations of the vector core. -/
def Obligations.VectorComputes : Prop :=
  Rule.VectorArithmetic ∧ Rule.VectorCompareAndSelect ∧ Rule.VectorMoves ∧ Rule.VectorConvert ∧
    Rule.VectorApproximations

/-- Integer lanes wrap or saturate; the approximations at special values and small arguments. -/
def Obligations.LanesAtTheirEnds : Prop :=
  Rule.IntegerLanesWrapOrSaturate ∧ Rule.ApproximationSpecialCases

/-- Reductions over a register and over segments. -/
def Obligations.VectorReduces : Prop :=
  Rule.VectorReduce ∧ Rule.VectorSegmentReduce

/-- Memory, tokens and requests of the vector core. -/
def Obligations.VectorTraffic : Prop :=
  Rule.VectorMemory ∧ Rule.VectorTokens ∧ Rule.VectorRequests

/-- Branches, loops, step parameters and the update instruction of the vector core. -/
def Obligations.VectorControl : Prop :=
  Rule.VectorBranches ∧ Rule.StepParametersAndUpdate

/-- Blocks start, wait and end. -/
def Obligations.Blocks : Prop :=
  Rule.BlockBegins ∧ Rule.BlockEnds ∧ Rule.BlockStart ∧ Rule.ScheduledStart ∧ Rule.WaitInsideBlock

/-- The matrix sequencer: refusals, TILE and LOAD. -/
def Obligations.MatrixSetsUp : Prop :=
  Rule.MatrixRefusals ∧ Rule.MatrixTile ∧ Rule.MatrixLoad ∧ Rule.CompactTile

/-- The matrix sequencer: MMA, DRAIN, SIGNAL, LOOP and END. -/
def Obligations.MatrixRuns : Prop :=
  Rule.MatrixMultiply ∧ Rule.MatrixDrain ∧ Rule.MatrixSignalLoopEnd ∧ Rule.MatrixQueues

/-- The token header holds its fields where R168 puts them and gives them back. -/
def Obligations.TokenHeaderLayout : Prop :=
  Rule.TokenHeaderLayout

/-- Tokens enter queues, queues are kept up, replication forwards, engines serve hearth stores. -/
def Obligations.TokensAndQueues : Prop :=
  Rule.TokenArrives ∧ Rule.QueueUpkeep ∧ Rule.ReplicationForward ∧ Rule.EngineServesHearthStore

/-- An event takes the next number, enters the log and changes nothing else. -/
def Obligations.EventRecord : Prop :=
  Rule.EventRecord

/-- Scrub, hearth faults, stalls, core faults and voided steps. -/
def Obligations.HearthAndCoreFaults : Prop :=
  Rule.PatrolScrub ∧ Rule.HearthFaultOutcome ∧ Rule.TwoHearthFaults ∧ Rule.StallFault ∧ Rule.CoreFaultAnswer ∧
    Rule.VoidedStep

/-- Moves over the mesh, the control ring, settings and runs of the dies, the crossings into the Hub. -/
def Obligations.DiesAndCrossings : Prop :=
  Rule.MeshMoves ∧ Rule.RingStop ∧ Rule.CrossingFifos ∧ Rule.DieStopsAndStarts ∧ Rule.DieSettingSet ∧ Rule.DieRunSet

/-- Tick boundaries, the commit leaf and the digest comparison. -/
def Obligations.TickBoundaries : Prop :=
  Rule.QuietBoundary ∧ Rule.NoBoundary ∧ Rule.BoundaryDelivered ∧ Rule.CommitLeaf ∧ Rule.DigestComparison

/-- The digest of a hearth group. -/
def Obligations.GroupDigest : Prop :=
  Rule.GroupDigest

/-- Engines serve HBM; moves of the offload unit, their operations and places. -/
def Obligations.OffloadMoves : Prop :=
  Rule.EngineServesHbm ∧ Rule.MoveEnds ∧ Rule.MoveOperations ∧ Rule.Transposition ∧ Rule.MovePlaces

/-- HBM reads back what was written, refresh, scrub and uncorrectable bursts. -/
def Obligations.HbmBytesAndErrors : Prop :=
  Rule.HbmReadsBack ∧ Rule.RefreshSlots ∧ Rule.HbmScrub ∧ Rule.UncorrectableBurst ∧ Rule.UncorrectableRegions

/-- Places in flash; HBM sets, flash dies and columns are retired and returned. -/
def Obligations.Retirement : Prop :=
  Rule.FlashPlaces ∧ Rule.FlashDieRetirement ∧ Rule.ChannelRetirement ∧ Rule.FreeSetChoice ∧ Rule.SwapKeepsRegions ∧
    Rule.ServiceRetires ∧ Rule.ColumnRetired

/-- Turves land, wait, are written back; failed reads, the governor and the tier's switch. -/
def Obligations.PeatTier : Prop :=
  Rule.TurfLands ∧ Rule.StagingSlots ∧ Rule.TurfWrittenBack ∧ Rule.GovernorAccrues ∧ Rule.TurfReadFails ∧
    Rule.TurvesCommit ∧ Rule.PeatShutDown

/-- Commit votes, their aggregate and the decision of a pair. -/
def Obligations.Commit : Prop :=
  Rule.CommitVote ∧ Rule.UpdateCovers ∧ Rule.VoteAggregate ∧ Rule.SharedDecision ∧ Rule.VotesAndOutcomes

/-- The flip of sides, what the views show, step parameters and the drift audit. -/
def Obligations.SidesFlip : Prop :=
  Rule.SideFlipEffect ∧ Rule.SideViews ∧ Rule.StepParameterEntries ∧ Rule.DriftAuditEffect

/-- Exchange messages are judged, added and summed. -/
def Obligations.GradientExchange : Prop :=
  Rule.ExchangeReceipt ∧ Rule.ExchangeJudgement ∧ Rule.ContribAdded ∧ Rule.SummaryMade

/-- Credits of the exchange and the buckets that its slots send. -/
def Obligations.ExchangeSlots : Prop :=
  Rule.ExchangeCredit ∧ Rule.ExchangeSlot

/-- PTP messages, synchronisation, holdover and the pulse per second. -/
def Obligations.PtpAndPps : Prop :=
  Rule.PtpMessages ∧ Rule.Synchronisation ∧ Rule.BestAnnounce ∧ Rule.HoldoverAndLeader ∧ Rule.PulsePerSecond

/-- Token batches between modules and gathers that return. -/
def Obligations.RemoteWindows : Prop :=
  Rule.BatchesSent ∧ Rule.BatchReceipt ∧ Rule.BatchUse ∧ Rule.BatchSequence ∧ Rule.BatchInjection ∧ Rule.GatherLands

/-- Cluster messages, mirror traffic, pairing and digest rounds. -/
def Obligations.ClusterTraffic : Prop :=
  Rule.ClusterReceipt ∧ Rule.ClusterJudgement ∧ Rule.MirrorTraffic ∧ Rule.PairingChecks ∧ Rule.DigestRounds

/-- What a digest round decides, and checkpoints. -/
def Obligations.DigestsOfState : Prop :=
  Rule.DigestDecision ∧ Rule.CheckpointDone

/-- Ranks are lost, declared lost and replaced; a digest round is asked for. -/
def Obligations.Losses : Prop :=
  Rule.LossBySilence ∧ Rule.LossLearned ∧ Rule.DigestAndLoss ∧ Rule.Replacement

/-- Links, frames and the settings of ports. -/
def Obligations.EthernetPorts : Prop :=
  Rule.LinkChanges ∧ Rule.FramesHandled ∧ Rule.FrameJudgement ∧ Rule.PortDown ∧ Rule.PortSettings

/-- RoCEv2 packets, host access, timers, congestion and addresses. -/
def Obligations.Transport : Prop :=
  Rule.RocePackets ∧ Rule.HostAccess ∧ Rule.TransportTimers ∧ Rule.CongestionControl ∧ Rule.AddressLists

/-- Descriptors, pacing and shut-down of DMA channels. -/
def Obligations.DmaChannels : Prop :=
  Rule.DescriptorStarts ∧ Rule.RingOrder ∧ Rule.DescriptorCompletes ∧ Rule.Pacing ∧ Rule.ChannelShutDown

/-- A descriptor's write-back, the writes it waits for, and the funnels that undo each other. -/
def Obligations.DmaBytes : Prop :=
  Rule.DescriptorWriteBack ∧ Rule.WritesAcknowledged ∧ Rule.FunnelsUndo

/-- Host queue pairs and descriptor rings are made and ended; doorbells. -/
def Obligations.HostPairsAndRings : Prop :=
  Rule.HostQueuePairs ∧ Rule.Rings ∧ Rule.Doorbells

/-- Datagrams, requests by sequence number and retransmission. -/
def Obligations.KopDatagrams : Prop :=
  Rule.DatagramsJudged ∧ Rule.RequestSequence ∧ Rule.Retransmission

/-- Sessions open, read objects, subscribe and end. -/
def Obligations.KopSessions : Prop :=
  Rule.SessionOpens ∧ Rule.SessionEnds ∧ Rule.GetReadsWhole ∧ Rule.ReadRights ∧ Rule.Subscriptions

/-- Settings are written, with the rights to write them. -/
def Obligations.KopSettings : Prop :=
  Rule.SettingWritten ∧ Rule.SettingsWritten ∧ Rule.SettingsInOrder ∧ Rule.WriteRights ∧ Rule.SwitchSettings ∧
    Rule.PlainSettings

/-- An invocation's checks and a command's outcome. -/
def Obligations.KopCommands : Prop :=
  Rule.CommandChecks ∧ Rule.CommandOutcome ∧ Rule.FinalOutcome

/-- Cords are staged, loaded and switched. -/
def Obligations.Cords : Prop :=
  Rule.StageFetches ∧ Rule.LoadAccepted ∧ Rule.LoadEnds ∧ Rule.SwitchByHearth

/-- Cords are started, stopped and unloaded; state is exported, imported and captured. -/
def Obligations.StateInAndOut : Prop :=
  Rule.StartStopUnload ∧ Rule.UnloadLeaves ∧ Rule.Export ∧ Rule.Import ∧ Rule.ImportedBias ∧ Rule.Capture

/-- Binding, attestation, the job key, zeroisation. -/
def Obligations.Trust : Prop :=
  Rule.Binding ∧ Rule.Attestation ∧ Rule.ReportFields ∧ Rule.JobKey ∧ Rule.ZeroiseCommands ∧ Rule.Zeroisation

/-- Firmware banks and the key exchange between modules. -/
def Obligations.FirmwareAndKeys : Prop :=
  Rule.FirmwareUpdate ∧ Rule.FirmwareChecks ∧ Rule.FirmwareRecovery ∧ Rule.KeyExchange ∧ Rule.PeerChecks ∧
    Rule.KeyExchangeEnds

/-- Caps, the power loop, the input window, input loss, starts from Off and the journal. -/
def Obligations.Power : Prop :=
  Rule.LowestCap ∧ Rule.PowerLoop ∧ Rule.InputWindow ∧ Rule.InputLost ∧ Rule.StartUp ∧ Rule.JournalKeeps

/-- Temperature: duties, settings and the trip. -/
def Obligations.Thermal : Prop :=
  Rule.ThermalSteps ∧ Rule.ThermalSample

/-- Draining ends, rails fail, Fault is entered; resets by command, by watchdog and by pin. -/
def Obligations.DrainAndFault : Prop :=
  Rule.DrainAndRails ∧ Rule.FaultEntered ∧ Rule.ResetCauses ∧ Rule.ResetPin

/-- What a reset clears and what the boot after it leaves. -/
def Obligations.ResetsAndStart : Prop :=
  Rule.ResetClears

/-- The test access port, its pins, debug instructions, the control ring and scan. -/
def Obligations.TestAccess : Prop :=
  Rule.TestPort ∧ Rule.PinDrive ∧ Rule.DebugInstructions ∧ Rule.RingAccess ∧ Rule.SpareRing ∧ Rule.Scan

/-- Status words of hearths, self-test, lane tests and the online test of spares. -/
def Obligations.SelfTest : Prop :=
  Rule.HearthStatusWords ∧ Rule.SelfTestOnDemand ∧ Rule.SelfTestOutcome ∧ Rule.LaneTest ∧ Rule.SpareTest
end

