-- ==== Sys2Proof/Laws/Data.lean ====
section
/-! SUPPORT. Laws of tables and memories: a read after a write, writes leave every other key alone, every write keeps the canonical form. -/

namespace Sys2Proof.Machine

theorem tGet_tDel_same {α : Type} (d : α) (t : Tbl α) (k : Nat) : tGet d (tDel t k) k = d := by
  induction t with
  | nil => rfl
  | cons p t ih =>
    obtain ⟨j, v⟩ := p
    by_cases h : j = k <;> simp [tDel, tGet, h, ih]

theorem tGet_tDel_other {α : Type} (d : α) (t : Tbl α) (k a : Nat) (h : a ≠ k) :
    tGet d (tDel t k) a = tGet d t a := by
  induction t with
  | nil => rfl
  | cons p t ih =>
    obtain ⟨j, v⟩ := p
    by_cases hj : j = k
    · have : ¬ j = a := fun e => h (e ▸ hj)
      have h' : ¬ k = a := fun e => h e.symm
      simp [tDel, tGet, hj, ih, h']
    · simp [tDel, tGet, hj, ih]

theorem tGet_tIns_same {α : Type} (d : α) (t : Tbl α) (k : Nat) (v : α)
    (h : ∀ w, (k, w) ∉ t) : tGet d (tIns t k v) k = v := by
  induction t with
  | nil => simp [tIns, tGet]
  | cons p t ih =>
    obtain ⟨j, w⟩ := p
    have hj : j ≠ k := fun e => h w (by simp [e])
    have ht : ∀ w, (k, w) ∉ t := fun w hw => h w (by simp [hw])
    by_cases hk : k < j <;> simp [tIns, tGet, hk, hj, ih ht]

theorem tGet_tIns_other {α : Type} (d : α) (t : Tbl α) (k a : Nat) (v : α) (h : a ≠ k) :
    tGet d (tIns t k v) a = tGet d t a := by
  have h' : ¬ k = a := fun e => h e.symm
  induction t with
  | nil => simp [tIns, tGet, h']
  | cons p t ih =>
    obtain ⟨j, w⟩ := p
    by_cases hk : k < j
    · simp [tIns, tGet, hk, h']
    · simp [tIns, tGet, hk, ih]

theorem not_mem_tDel {α : Type} (t : Tbl α) (k : Nat) (w : α) : (k, w) ∉ tDel t k := by
  induction t with
  | nil => simp [tDel]
  | cons p t ih =>
    obtain ⟨j, v⟩ := p
    by_cases h : j = k
    · simp [tDel, h, ih]
    · have : ¬ k = j := fun e => h e.symm
      simp [tDel, h, ih, this]

@[simp] theorem tGet_tSet_same {α : Type} [DecidableEq α] (d : α) (t : Tbl α) (k : Nat) (v : α) :
    tGet d (tSet d t k v) k = v := by
  unfold tSet
  split
  · rename_i h; rw [tGet_tDel_same, h]
  · exact tGet_tIns_same d _ k v (not_mem_tDel t k)

theorem tGet_tSet_other {α : Type} [DecidableEq α] (d : α) (t : Tbl α) (k a : Nat) (v : α) (h : a ≠ k) :
    tGet d (tSet d t k v) a = tGet d t a := by
  unfold tSet
  split
  · exact tGet_tDel_other d t k a h
  · rw [tGet_tIns_other d _ k a v h, tGet_tDel_other d t k a h]

theorem tGet_tSet {α : Type} [DecidableEq α] (d : α) (t : Tbl α) (k a : Nat) (v : α) :
    tGet d (tSet d t k v) a = if a = k then v else tGet d t a := by
  by_cases h : a = k
  · subst h; simp
  · simp [h, tGet_tSet_other d t k a v h]

@[simp] theorem mGet_mSet (m : List Host.Cell) (k a : Nat) (b : Byte) :
    mGet (mSet m k b) a = if a = k then b else mGet m a := tGet_tSet _ _ _ _ _

theorem mGet_mWrite_outside (l : List Byte) : ∀ (m : List Host.Cell) (a x : Nat),
    (x < a ∨ a + l.length ≤ x) → mGet (mWrite m a l) x = mGet m x := by
  induction l with
  | nil => intros; rfl
  | cons b t ih =>
    intro m a x h
    have hl : (b :: t).length = t.length + 1 := rfl
    rw [hl] at h
    have hx : x ≠ a := by omega
    simp only [mWrite]
    rw [ih (mSet m a b) (a + 1) x (by omega), mGet_mSet, if_neg hx]

theorem mGet_mWrite_inside (l : List Byte) : ∀ (m : List Host.Cell) (a i : Nat) (h : i < l.length),
    mGet (mWrite m a l) (a + i) = l[i] := by
  induction l with
  | nil => intro m a i h; exact absurd h (by simp)
  | cons b t ih =>
    intro m a i h
    cases i with
    | zero =>
      simp only [mWrite, Nat.add_zero, List.getElem_cons_zero]
      rw [mGet_mWrite_outside t _ _ _ (by omega), mGet_mSet, if_pos rfl]
    | succ i =>
      have e : a + (i + 1) = (a + 1) + i := by omega
      simp only [mWrite, List.getElem_cons_succ]
      rw [e]
      exact ih _ _ _ (by simpa using h)

/-- Every listed key is above `lo` and no value is the default: the form below a first key. -/
def tAbove {α : Type} [DecidableEq α] (d : α) : Nat → Tbl α → Prop
  | _, [] => True
  | lo, (j, v) :: t => lo ≤ j ∧ v ≠ d ∧ tAbove d (j + 1) t

theorem tAbove_mono {α : Type} [DecidableEq α] (d : α) (t : Tbl α) (a b : Nat) (h : b ≤ a)
    (ht : tAbove d a t) : tAbove d b t := by
  cases t with
  | nil => trivial
  | cons p t => exact ⟨Nat.le_trans h ht.1, ht.2⟩

theorem tWf_iff_above {α : Type} [DecidableEq α] (d : α) (t : Tbl α) : tWf d t = true ↔ tAbove d 0 t := by
  have key : ∀ (t : Tbl α) (j : Nat) (v : α),
      tWf d ((j, v) :: t) = true ↔ (v ≠ d ∧ tAbove d (j + 1) t) := by
    intro t
    induction t with
    | nil => intro j v; simp [tWf, tAbove]
    | cons p t ih =>
      obtain ⟨k, w⟩ := p
      intro j v
      simp only [tWf, Bool.and_eq_true, decide_eq_true_eq, ih, tAbove]
      exact ⟨fun h => ⟨h.1.1, h.1.2, h.2⟩, fun h => ⟨⟨h.1, h.2.1⟩, h.2.2⟩⟩
  cases t with
  | nil => simp [tWf, tAbove]
  | cons p t =>
    obtain ⟨j, v⟩ := p
    rw [key]; simp [tAbove]

theorem tAbove_tDel {α : Type} [DecidableEq α] (d : α) (t : Tbl α) (k : Nat) :
    ∀ lo, tAbove d lo t → tAbove d lo (tDel t k) := by
  induction t with
  | nil => intro lo h; exact h
  | cons p t ih =>
    obtain ⟨j, v⟩ := p
    intro lo h
    by_cases hk : j = k
    · simp only [tDel, hk, if_true]
      exact tAbove_mono d _ (j + 1) lo (Nat.le_trans h.1 (Nat.le_succ j)) (hk ▸ ih (j + 1) h.2.2)
    · simp only [tDel, hk, if_false]
      exact ⟨h.1, h.2.1, ih _ h.2.2⟩

theorem tAbove_tIns {α : Type} [DecidableEq α] (d : α) (t : Tbl α) (k : Nat) (v : α) (hv : v ≠ d) :
    ∀ lo, lo ≤ k → (∀ w, (k, w) ∉ t) → tAbove d lo t → tAbove d lo (tIns t k v) := by
  induction t with
  | nil => intro lo h _ _; exact ⟨h, hv, trivial⟩
  | cons p t ih =>
    obtain ⟨j, w⟩ := p
    intro lo h hn ht
    have hj : j ≠ k := fun e => hn w (by simp [e])
    by_cases hk : k < j
    · simp only [tIns, hk, if_true]
      exact ⟨h, hv, hk, ht.2⟩
    · simp only [tIns, hk, if_false]
      exact ⟨ht.1, ht.2.1, ih (j + 1) (by omega) (fun w hw => hn w (by simp [hw])) ht.2.2⟩

theorem tWf_tSet {α : Type} [DecidableEq α] (d : α) (t : Tbl α) (k : Nat) (v : α)
    (h : tWf d t = true) : tWf d (tSet d t k v) = true := by
  rw [tWf_iff_above] at h ⊢
  have hd := tAbove_tDel d t k 0 h
  unfold tSet
  split
  · exact hd
  · rename_i hv
    exact tAbove_tIns d _ k v hv 0 (Nat.zero_le _) (not_mem_tDel t k) hd

theorem mWrite_wf (l : List Byte) : ∀ (m : List Host.Cell) (a : Nat),
    Memory.wf m = true → Memory.wf (mWrite m a l) = true := by
  induction l with
  | nil => intro m a h; exact h
  | cons b t ih => intro m a h; exact ih _ _ (tWf_tSet _ _ _ _ h)

theorem tDel_tIns {α : Type} (t : Tbl α) (k : Nat) (v : α) : tDel (tIns t k v) k = tDel t k := by
  induction t with
  | nil => simp [tIns, tDel]
  | cons p t ih =>
    obtain ⟨j, w⟩ := p
    by_cases h : k < j
    · simp [tIns, h, tDel]
    · simp only [tIns, h, if_false, tDel, ih]

theorem tDel_tDel {α : Type} (t : Tbl α) (k : Nat) : tDel (tDel t k) k = tDel t k := by
  induction t with
  | nil => rfl
  | cons p t ih =>
    obtain ⟨j, w⟩ := p
    by_cases h : j = k <;> simp [tDel, h, ih]

/-- The later of two writes of one key stands. -/
@[simp] theorem tSet_tSet {α : Type} [DecidableEq α] (d : α) (t : Tbl α) (k : Nat) (v w : α) :
    tSet d (tSet d t k v) k w = tSet d t k w := by
  have h : tDel (tSet d t k v) k = tDel t k := by
    unfold tSet; split
    · exact tDel_tDel t k
    · rw [tDel_tIns, tDel_tDel]
  unfold tSet at *
  simp only [h]

theorem tAbove_filter {α : Type} [DecidableEq α] (d : α) (f : Nat × α → Bool) (t : Tbl α) :
    ∀ lo, tAbove d lo t → tAbove d lo (t.filter f) := by
  induction t with
  | nil => intro lo h; exact h
  | cons p t ih =>
    obtain ⟨j, v⟩ := p
    intro lo h
    by_cases hf : f (j, v) = true
    · rw [List.filter_cons_of_pos hf]; exact ⟨h.1, h.2.1, ih _ h.2.2⟩
    · rw [List.filter_cons_of_neg hf]
      exact tAbove_mono d _ (j + 1) lo (Nat.le_trans h.1 (Nat.le_succ j)) (ih _ h.2.2)

/-- Entries taken out leave the canonical form. -/
theorem tWf_filter {α : Type} [DecidableEq α] (d : α) (f : Nat × α → Bool) (t : Tbl α) (h : tWf d t = true) :
    tWf d (t.filter f) = true :=
  (tWf_iff_above d _).2 (tAbove_filter d f t 0 ((tWf_iff_above d t).1 h))

end Sys2Proof.Machine
end

