-- ==== Sys2Proof/Laws/State.lean ====
section
/-! SUPPORT. Small laws of the state: what each update of one entry leaves alone, and that an entry is read back as it was written. -/

namespace Sys2Proof.Machine

/-! ### setHearth -/

@[simp] theorem setHearth_cord (m : Mod) (k : Nat) (x : Hearth) : (m.setHearth k x).cord = m.cord := rfl
@[simp] theorem setHearth_tick (m : Mod) (k : Nat) (x : Hearth) : (m.setHearth k x).tick = m.tick := rfl
@[simp] theorem setHearth_pow (m : Mod) (k : Nat) (x : Hearth) : (m.setHearth k x).pow = m.pow := rfl
@[simp] theorem setHearth_flt (m : Mod) (k : Nat) (x : Hearth) : (m.setHearth k x).flt = m.flt := rfl
@[simp] theorem setHearth_rem (m : Mod) (k : Nat) (x : Hearth) : (m.setHearth k x).rem = m.rem := rfl
@[simp] theorem setHearth_dieN (m : Mod) (k : Nat) (x : Hearth) : (m.setHearth k x).dieN = m.dieN := rfl
@[simp] theorem setHearth_dieS (m : Mod) (k : Nat) (x : Hearth) : (m.setHearth k x).dieS = m.dieS := rfl
@[simp] theorem setHearth_cross (m : Mod) (k : Nat) (x : Hearth) : (m.setHearth k x).cross = m.cross := rfl
@[simp] theorem setHearth_log (m : Mod) (k : Nat) (x : Hearth) : (m.setHearth k x).log = m.log := rfl
@[simp] theorem setHearth_hbm (m : Mod) (k : Nat) (x : Hearth) : (m.setHearth k x).hbm = m.hbm := rfl
@[simp] theorem setHearth_peat (m : Mod) (k : Nat) (x : Hearth) : (m.setHearth k x).peat = m.peat := rfl
@[simp] theorem setHearth_train (m : Mod) (k : Nat) (x : Hearth) : (m.setHearth k x).train = m.train := rfl
@[simp] theorem setHearth_exch (m : Mod) (k : Nat) (x : Hearth) : (m.setHearth k x).exch = m.exch := rfl
@[simp] theorem setHearth_clus (m : Mod) (k : Nat) (x : Hearth) : (m.setHearth k x).clus = m.clus := rfl
@[simp] theorem setHearth_eth (m : Mod) (k : Nat) (x : Hearth) : (m.setHearth k x).eth = m.eth := rfl
@[simp] theorem setHearth_dma (m : Mod) (k : Nat) (x : Hearth) : (m.setHearth k x).dma = m.dma := rfl
@[simp] theorem setHearth_kop (m : Mod) (k : Nat) (x : Hearth) : (m.setHearth k x).kop = m.kop := rfl
@[simp] theorem setHearth_sec (m : Mod) (k : Nat) (x : Hearth) : (m.setHearth k x).sec = m.sec := rfl
@[simp] theorem setHearth_tst (m : Mod) (k : Nat) (x : Hearth) : (m.setHearth k x).tst = m.tst := rfl
@[simp] theorem setHearth_free (m : Mod) (k : Nat) (x : Hearth) : (m.setHearth k x).free = m.free := rfl
@[simp] theorem setHearth_hearth_same (m : Mod) (k : Nat) (x : Hearth) : (m.setHearth k x).hearth k = x := tGet_tSet_same _ _ _ _
theorem setHearth_hearth (m : Mod) (k j : Nat) (x : Hearth) : (m.setHearth k x).hearth j = if j = k then x else m.hearth j := tGet_tSet _ _ _ _ _
@[simp] theorem setHearth_ctl (m : Mod) (k j : Nat) (x : Hearth) : (m.setHearth k x).ctl j = m.ctl j := rfl
@[simp] theorem setHearth_sc (m : Mod) (k j : Nat) (x : Hearth) : (m.setHearth k x).sc j = m.sc j := rfl
@[simp] theorem setHearth_vc (m : Mod) (k j : Nat) (x : Hearth) : (m.setHearth k x).vc j = m.vc j := rfl
@[simp] theorem setHearth_mc (m : Mod) (k j : Nat) (x : Hearth) : (m.setHearth k x).mc j = m.mc j := rfl
@[simp] theorem setHearth_inq (m : Mod) (k j : Nat) (x : Hearth) : (m.setHearth k x).inq j = m.inq j := rfl
@[simp] theorem setHearth_outq (m : Mod) (k j : Nat) (x : Hearth) : (m.setHearth k x).outq j = m.outq j := rfl
@[simp] theorem setHearth_tree (m : Mod) (k j : Nat) (x : Hearth) : (m.setHearth k x).tree j = m.tree j := rfl

/-! ### setCtl -/

@[simp] theorem setCtl_cord (m : Mod) (k : Nat) (x : Ctl) : (m.setCtl k x).cord = m.cord := rfl
@[simp] theorem setCtl_tick (m : Mod) (k : Nat) (x : Ctl) : (m.setCtl k x).tick = m.tick := rfl
@[simp] theorem setCtl_pow (m : Mod) (k : Nat) (x : Ctl) : (m.setCtl k x).pow = m.pow := rfl
@[simp] theorem setCtl_flt (m : Mod) (k : Nat) (x : Ctl) : (m.setCtl k x).flt = m.flt := rfl
@[simp] theorem setCtl_rem (m : Mod) (k : Nat) (x : Ctl) : (m.setCtl k x).rem = m.rem := rfl
@[simp] theorem setCtl_dieN (m : Mod) (k : Nat) (x : Ctl) : (m.setCtl k x).dieN = m.dieN := rfl
@[simp] theorem setCtl_dieS (m : Mod) (k : Nat) (x : Ctl) : (m.setCtl k x).dieS = m.dieS := rfl
@[simp] theorem setCtl_cross (m : Mod) (k : Nat) (x : Ctl) : (m.setCtl k x).cross = m.cross := rfl
@[simp] theorem setCtl_log (m : Mod) (k : Nat) (x : Ctl) : (m.setCtl k x).log = m.log := rfl
@[simp] theorem setCtl_hbm (m : Mod) (k : Nat) (x : Ctl) : (m.setCtl k x).hbm = m.hbm := rfl
@[simp] theorem setCtl_peat (m : Mod) (k : Nat) (x : Ctl) : (m.setCtl k x).peat = m.peat := rfl
@[simp] theorem setCtl_train (m : Mod) (k : Nat) (x : Ctl) : (m.setCtl k x).train = m.train := rfl
@[simp] theorem setCtl_exch (m : Mod) (k : Nat) (x : Ctl) : (m.setCtl k x).exch = m.exch := rfl
@[simp] theorem setCtl_clus (m : Mod) (k : Nat) (x : Ctl) : (m.setCtl k x).clus = m.clus := rfl
@[simp] theorem setCtl_eth (m : Mod) (k : Nat) (x : Ctl) : (m.setCtl k x).eth = m.eth := rfl
@[simp] theorem setCtl_dma (m : Mod) (k : Nat) (x : Ctl) : (m.setCtl k x).dma = m.dma := rfl
@[simp] theorem setCtl_kop (m : Mod) (k : Nat) (x : Ctl) : (m.setCtl k x).kop = m.kop := rfl
@[simp] theorem setCtl_sec (m : Mod) (k : Nat) (x : Ctl) : (m.setCtl k x).sec = m.sec := rfl
@[simp] theorem setCtl_tst (m : Mod) (k : Nat) (x : Ctl) : (m.setCtl k x).tst = m.tst := rfl
@[simp] theorem setCtl_free (m : Mod) (k : Nat) (x : Ctl) : (m.setCtl k x).free = m.free := rfl
@[simp] theorem setCtl_ctl_same (m : Mod) (k : Nat) (x : Ctl) : (m.setCtl k x).ctl k = x := tGet_tSet_same _ _ _ _
theorem setCtl_ctl (m : Mod) (k j : Nat) (x : Ctl) : (m.setCtl k x).ctl j = if j = k then x else m.ctl j := tGet_tSet _ _ _ _ _
@[simp] theorem setCtl_hearth (m : Mod) (k j : Nat) (x : Ctl) : (m.setCtl k x).hearth j = m.hearth j := rfl
@[simp] theorem setCtl_sc (m : Mod) (k j : Nat) (x : Ctl) : (m.setCtl k x).sc j = m.sc j := rfl
@[simp] theorem setCtl_vc (m : Mod) (k j : Nat) (x : Ctl) : (m.setCtl k x).vc j = m.vc j := rfl
@[simp] theorem setCtl_mc (m : Mod) (k j : Nat) (x : Ctl) : (m.setCtl k x).mc j = m.mc j := rfl
@[simp] theorem setCtl_inq (m : Mod) (k j : Nat) (x : Ctl) : (m.setCtl k x).inq j = m.inq j := rfl
@[simp] theorem setCtl_outq (m : Mod) (k j : Nat) (x : Ctl) : (m.setCtl k x).outq j = m.outq j := rfl
@[simp] theorem setCtl_tree (m : Mod) (k j : Nat) (x : Ctl) : (m.setCtl k x).tree j = m.tree j := rfl

/-! ### setSc -/

@[simp] theorem setSc_cord (m : Mod) (k : Nat) (x : ScSt) : (m.setSc k x).cord = m.cord := rfl
@[simp] theorem setSc_tick (m : Mod) (k : Nat) (x : ScSt) : (m.setSc k x).tick = m.tick := rfl
@[simp] theorem setSc_pow (m : Mod) (k : Nat) (x : ScSt) : (m.setSc k x).pow = m.pow := rfl
@[simp] theorem setSc_flt (m : Mod) (k : Nat) (x : ScSt) : (m.setSc k x).flt = m.flt := rfl
@[simp] theorem setSc_rem (m : Mod) (k : Nat) (x : ScSt) : (m.setSc k x).rem = m.rem := rfl
@[simp] theorem setSc_dieN (m : Mod) (k : Nat) (x : ScSt) : (m.setSc k x).dieN = m.dieN := rfl
@[simp] theorem setSc_dieS (m : Mod) (k : Nat) (x : ScSt) : (m.setSc k x).dieS = m.dieS := rfl
@[simp] theorem setSc_cross (m : Mod) (k : Nat) (x : ScSt) : (m.setSc k x).cross = m.cross := rfl
@[simp] theorem setSc_log (m : Mod) (k : Nat) (x : ScSt) : (m.setSc k x).log = m.log := rfl
@[simp] theorem setSc_hbm (m : Mod) (k : Nat) (x : ScSt) : (m.setSc k x).hbm = m.hbm := rfl
@[simp] theorem setSc_peat (m : Mod) (k : Nat) (x : ScSt) : (m.setSc k x).peat = m.peat := rfl
@[simp] theorem setSc_train (m : Mod) (k : Nat) (x : ScSt) : (m.setSc k x).train = m.train := rfl
@[simp] theorem setSc_exch (m : Mod) (k : Nat) (x : ScSt) : (m.setSc k x).exch = m.exch := rfl
@[simp] theorem setSc_clus (m : Mod) (k : Nat) (x : ScSt) : (m.setSc k x).clus = m.clus := rfl
@[simp] theorem setSc_eth (m : Mod) (k : Nat) (x : ScSt) : (m.setSc k x).eth = m.eth := rfl
@[simp] theorem setSc_dma (m : Mod) (k : Nat) (x : ScSt) : (m.setSc k x).dma = m.dma := rfl
@[simp] theorem setSc_kop (m : Mod) (k : Nat) (x : ScSt) : (m.setSc k x).kop = m.kop := rfl
@[simp] theorem setSc_sec (m : Mod) (k : Nat) (x : ScSt) : (m.setSc k x).sec = m.sec := rfl
@[simp] theorem setSc_tst (m : Mod) (k : Nat) (x : ScSt) : (m.setSc k x).tst = m.tst := rfl
@[simp] theorem setSc_free (m : Mod) (k : Nat) (x : ScSt) : (m.setSc k x).free = m.free := rfl
@[simp] theorem setSc_sc_same (m : Mod) (k : Nat) (x : ScSt) : (m.setSc k x).sc k = x := tGet_tSet_same _ _ _ _
theorem setSc_sc (m : Mod) (k j : Nat) (x : ScSt) : (m.setSc k x).sc j = if j = k then x else m.sc j := tGet_tSet _ _ _ _ _
@[simp] theorem setSc_hearth (m : Mod) (k j : Nat) (x : ScSt) : (m.setSc k x).hearth j = m.hearth j := rfl
@[simp] theorem setSc_ctl (m : Mod) (k j : Nat) (x : ScSt) : (m.setSc k x).ctl j = m.ctl j := rfl
@[simp] theorem setSc_vc (m : Mod) (k j : Nat) (x : ScSt) : (m.setSc k x).vc j = m.vc j := rfl
@[simp] theorem setSc_mc (m : Mod) (k j : Nat) (x : ScSt) : (m.setSc k x).mc j = m.mc j := rfl
@[simp] theorem setSc_inq (m : Mod) (k j : Nat) (x : ScSt) : (m.setSc k x).inq j = m.inq j := rfl
@[simp] theorem setSc_outq (m : Mod) (k j : Nat) (x : ScSt) : (m.setSc k x).outq j = m.outq j := rfl
@[simp] theorem setSc_tree (m : Mod) (k j : Nat) (x : ScSt) : (m.setSc k x).tree j = m.tree j := rfl

/-! ### setVc -/

@[simp] theorem setVc_cord (m : Mod) (k : Nat) (x : VcSt) : (m.setVc k x).cord = m.cord := rfl
@[simp] theorem setVc_tick (m : Mod) (k : Nat) (x : VcSt) : (m.setVc k x).tick = m.tick := rfl
@[simp] theorem setVc_pow (m : Mod) (k : Nat) (x : VcSt) : (m.setVc k x).pow = m.pow := rfl
@[simp] theorem setVc_flt (m : Mod) (k : Nat) (x : VcSt) : (m.setVc k x).flt = m.flt := rfl
@[simp] theorem setVc_rem (m : Mod) (k : Nat) (x : VcSt) : (m.setVc k x).rem = m.rem := rfl
@[simp] theorem setVc_dieN (m : Mod) (k : Nat) (x : VcSt) : (m.setVc k x).dieN = m.dieN := rfl
@[simp] theorem setVc_dieS (m : Mod) (k : Nat) (x : VcSt) : (m.setVc k x).dieS = m.dieS := rfl
@[simp] theorem setVc_cross (m : Mod) (k : Nat) (x : VcSt) : (m.setVc k x).cross = m.cross := rfl
@[simp] theorem setVc_log (m : Mod) (k : Nat) (x : VcSt) : (m.setVc k x).log = m.log := rfl
@[simp] theorem setVc_hbm (m : Mod) (k : Nat) (x : VcSt) : (m.setVc k x).hbm = m.hbm := rfl
@[simp] theorem setVc_peat (m : Mod) (k : Nat) (x : VcSt) : (m.setVc k x).peat = m.peat := rfl
@[simp] theorem setVc_train (m : Mod) (k : Nat) (x : VcSt) : (m.setVc k x).train = m.train := rfl
@[simp] theorem setVc_exch (m : Mod) (k : Nat) (x : VcSt) : (m.setVc k x).exch = m.exch := rfl
@[simp] theorem setVc_clus (m : Mod) (k : Nat) (x : VcSt) : (m.setVc k x).clus = m.clus := rfl
@[simp] theorem setVc_eth (m : Mod) (k : Nat) (x : VcSt) : (m.setVc k x).eth = m.eth := rfl
@[simp] theorem setVc_dma (m : Mod) (k : Nat) (x : VcSt) : (m.setVc k x).dma = m.dma := rfl
@[simp] theorem setVc_kop (m : Mod) (k : Nat) (x : VcSt) : (m.setVc k x).kop = m.kop := rfl
@[simp] theorem setVc_sec (m : Mod) (k : Nat) (x : VcSt) : (m.setVc k x).sec = m.sec := rfl
@[simp] theorem setVc_tst (m : Mod) (k : Nat) (x : VcSt) : (m.setVc k x).tst = m.tst := rfl
@[simp] theorem setVc_free (m : Mod) (k : Nat) (x : VcSt) : (m.setVc k x).free = m.free := rfl
@[simp] theorem setVc_vc_same (m : Mod) (k : Nat) (x : VcSt) : (m.setVc k x).vc k = x := tGet_tSet_same _ _ _ _
theorem setVc_vc (m : Mod) (k j : Nat) (x : VcSt) : (m.setVc k x).vc j = if j = k then x else m.vc j := tGet_tSet _ _ _ _ _
@[simp] theorem setVc_hearth (m : Mod) (k j : Nat) (x : VcSt) : (m.setVc k x).hearth j = m.hearth j := rfl
@[simp] theorem setVc_ctl (m : Mod) (k j : Nat) (x : VcSt) : (m.setVc k x).ctl j = m.ctl j := rfl
@[simp] theorem setVc_sc (m : Mod) (k j : Nat) (x : VcSt) : (m.setVc k x).sc j = m.sc j := rfl
@[simp] theorem setVc_mc (m : Mod) (k j : Nat) (x : VcSt) : (m.setVc k x).mc j = m.mc j := rfl
@[simp] theorem setVc_inq (m : Mod) (k j : Nat) (x : VcSt) : (m.setVc k x).inq j = m.inq j := rfl
@[simp] theorem setVc_outq (m : Mod) (k j : Nat) (x : VcSt) : (m.setVc k x).outq j = m.outq j := rfl
@[simp] theorem setVc_tree (m : Mod) (k j : Nat) (x : VcSt) : (m.setVc k x).tree j = m.tree j := rfl

/-! ### setMc -/

@[simp] theorem setMc_cord (m : Mod) (k : Nat) (x : McSt) : (m.setMc k x).cord = m.cord := rfl
@[simp] theorem setMc_tick (m : Mod) (k : Nat) (x : McSt) : (m.setMc k x).tick = m.tick := rfl
@[simp] theorem setMc_pow (m : Mod) (k : Nat) (x : McSt) : (m.setMc k x).pow = m.pow := rfl
@[simp] theorem setMc_flt (m : Mod) (k : Nat) (x : McSt) : (m.setMc k x).flt = m.flt := rfl
@[simp] theorem setMc_rem (m : Mod) (k : Nat) (x : McSt) : (m.setMc k x).rem = m.rem := rfl
@[simp] theorem setMc_dieN (m : Mod) (k : Nat) (x : McSt) : (m.setMc k x).dieN = m.dieN := rfl
@[simp] theorem setMc_dieS (m : Mod) (k : Nat) (x : McSt) : (m.setMc k x).dieS = m.dieS := rfl
@[simp] theorem setMc_cross (m : Mod) (k : Nat) (x : McSt) : (m.setMc k x).cross = m.cross := rfl
@[simp] theorem setMc_log (m : Mod) (k : Nat) (x : McSt) : (m.setMc k x).log = m.log := rfl
@[simp] theorem setMc_hbm (m : Mod) (k : Nat) (x : McSt) : (m.setMc k x).hbm = m.hbm := rfl
@[simp] theorem setMc_peat (m : Mod) (k : Nat) (x : McSt) : (m.setMc k x).peat = m.peat := rfl
@[simp] theorem setMc_train (m : Mod) (k : Nat) (x : McSt) : (m.setMc k x).train = m.train := rfl
@[simp] theorem setMc_exch (m : Mod) (k : Nat) (x : McSt) : (m.setMc k x).exch = m.exch := rfl
@[simp] theorem setMc_clus (m : Mod) (k : Nat) (x : McSt) : (m.setMc k x).clus = m.clus := rfl
@[simp] theorem setMc_eth (m : Mod) (k : Nat) (x : McSt) : (m.setMc k x).eth = m.eth := rfl
@[simp] theorem setMc_dma (m : Mod) (k : Nat) (x : McSt) : (m.setMc k x).dma = m.dma := rfl
@[simp] theorem setMc_kop (m : Mod) (k : Nat) (x : McSt) : (m.setMc k x).kop = m.kop := rfl
@[simp] theorem setMc_sec (m : Mod) (k : Nat) (x : McSt) : (m.setMc k x).sec = m.sec := rfl
@[simp] theorem setMc_tst (m : Mod) (k : Nat) (x : McSt) : (m.setMc k x).tst = m.tst := rfl
@[simp] theorem setMc_free (m : Mod) (k : Nat) (x : McSt) : (m.setMc k x).free = m.free := rfl
@[simp] theorem setMc_mc_same (m : Mod) (k : Nat) (x : McSt) : (m.setMc k x).mc k = x := tGet_tSet_same _ _ _ _
theorem setMc_mc (m : Mod) (k j : Nat) (x : McSt) : (m.setMc k x).mc j = if j = k then x else m.mc j := tGet_tSet _ _ _ _ _
@[simp] theorem setMc_hearth (m : Mod) (k j : Nat) (x : McSt) : (m.setMc k x).hearth j = m.hearth j := rfl
@[simp] theorem setMc_ctl (m : Mod) (k j : Nat) (x : McSt) : (m.setMc k x).ctl j = m.ctl j := rfl
@[simp] theorem setMc_sc (m : Mod) (k j : Nat) (x : McSt) : (m.setMc k x).sc j = m.sc j := rfl
@[simp] theorem setMc_vc (m : Mod) (k j : Nat) (x : McSt) : (m.setMc k x).vc j = m.vc j := rfl
@[simp] theorem setMc_inq (m : Mod) (k j : Nat) (x : McSt) : (m.setMc k x).inq j = m.inq j := rfl
@[simp] theorem setMc_outq (m : Mod) (k j : Nat) (x : McSt) : (m.setMc k x).outq j = m.outq j := rfl
@[simp] theorem setMc_tree (m : Mod) (k j : Nat) (x : McSt) : (m.setMc k x).tree j = m.tree j := rfl

/-! ### setInq -/

@[simp] theorem setInq_cord (m : Mod) (k : Nat) (x : InQ) : (m.setInq k x).cord = m.cord := rfl
@[simp] theorem setInq_tick (m : Mod) (k : Nat) (x : InQ) : (m.setInq k x).tick = m.tick := rfl
@[simp] theorem setInq_pow (m : Mod) (k : Nat) (x : InQ) : (m.setInq k x).pow = m.pow := rfl
@[simp] theorem setInq_flt (m : Mod) (k : Nat) (x : InQ) : (m.setInq k x).flt = m.flt := rfl
@[simp] theorem setInq_rem (m : Mod) (k : Nat) (x : InQ) : (m.setInq k x).rem = m.rem := rfl
@[simp] theorem setInq_dieN (m : Mod) (k : Nat) (x : InQ) : (m.setInq k x).dieN = m.dieN := rfl
@[simp] theorem setInq_dieS (m : Mod) (k : Nat) (x : InQ) : (m.setInq k x).dieS = m.dieS := rfl
@[simp] theorem setInq_cross (m : Mod) (k : Nat) (x : InQ) : (m.setInq k x).cross = m.cross := rfl
@[simp] theorem setInq_log (m : Mod) (k : Nat) (x : InQ) : (m.setInq k x).log = m.log := rfl
@[simp] theorem setInq_hbm (m : Mod) (k : Nat) (x : InQ) : (m.setInq k x).hbm = m.hbm := rfl
@[simp] theorem setInq_peat (m : Mod) (k : Nat) (x : InQ) : (m.setInq k x).peat = m.peat := rfl
@[simp] theorem setInq_train (m : Mod) (k : Nat) (x : InQ) : (m.setInq k x).train = m.train := rfl
@[simp] theorem setInq_exch (m : Mod) (k : Nat) (x : InQ) : (m.setInq k x).exch = m.exch := rfl
@[simp] theorem setInq_clus (m : Mod) (k : Nat) (x : InQ) : (m.setInq k x).clus = m.clus := rfl
@[simp] theorem setInq_eth (m : Mod) (k : Nat) (x : InQ) : (m.setInq k x).eth = m.eth := rfl
@[simp] theorem setInq_dma (m : Mod) (k : Nat) (x : InQ) : (m.setInq k x).dma = m.dma := rfl
@[simp] theorem setInq_kop (m : Mod) (k : Nat) (x : InQ) : (m.setInq k x).kop = m.kop := rfl
@[simp] theorem setInq_sec (m : Mod) (k : Nat) (x : InQ) : (m.setInq k x).sec = m.sec := rfl
@[simp] theorem setInq_tst (m : Mod) (k : Nat) (x : InQ) : (m.setInq k x).tst = m.tst := rfl
@[simp] theorem setInq_free (m : Mod) (k : Nat) (x : InQ) : (m.setInq k x).free = m.free := rfl
@[simp] theorem setInq_inq_same (m : Mod) (k : Nat) (x : InQ) : (m.setInq k x).inq k = x := tGet_tSet_same _ _ _ _
theorem setInq_inq (m : Mod) (k j : Nat) (x : InQ) : (m.setInq k x).inq j = if j = k then x else m.inq j := tGet_tSet _ _ _ _ _
@[simp] theorem setInq_hearth (m : Mod) (k j : Nat) (x : InQ) : (m.setInq k x).hearth j = m.hearth j := rfl
@[simp] theorem setInq_ctl (m : Mod) (k j : Nat) (x : InQ) : (m.setInq k x).ctl j = m.ctl j := rfl
@[simp] theorem setInq_sc (m : Mod) (k j : Nat) (x : InQ) : (m.setInq k x).sc j = m.sc j := rfl
@[simp] theorem setInq_vc (m : Mod) (k j : Nat) (x : InQ) : (m.setInq k x).vc j = m.vc j := rfl
@[simp] theorem setInq_mc (m : Mod) (k j : Nat) (x : InQ) : (m.setInq k x).mc j = m.mc j := rfl
@[simp] theorem setInq_outq (m : Mod) (k j : Nat) (x : InQ) : (m.setInq k x).outq j = m.outq j := rfl
@[simp] theorem setInq_tree (m : Mod) (k j : Nat) (x : InQ) : (m.setInq k x).tree j = m.tree j := rfl

/-! ### setOutq -/

@[simp] theorem setOutq_cord (m : Mod) (k : Nat) (x : OutQ) : (m.setOutq k x).cord = m.cord := rfl
@[simp] theorem setOutq_tick (m : Mod) (k : Nat) (x : OutQ) : (m.setOutq k x).tick = m.tick := rfl
@[simp] theorem setOutq_pow (m : Mod) (k : Nat) (x : OutQ) : (m.setOutq k x).pow = m.pow := rfl
@[simp] theorem setOutq_flt (m : Mod) (k : Nat) (x : OutQ) : (m.setOutq k x).flt = m.flt := rfl
@[simp] theorem setOutq_rem (m : Mod) (k : Nat) (x : OutQ) : (m.setOutq k x).rem = m.rem := rfl
@[simp] theorem setOutq_dieN (m : Mod) (k : Nat) (x : OutQ) : (m.setOutq k x).dieN = m.dieN := rfl
@[simp] theorem setOutq_dieS (m : Mod) (k : Nat) (x : OutQ) : (m.setOutq k x).dieS = m.dieS := rfl
@[simp] theorem setOutq_cross (m : Mod) (k : Nat) (x : OutQ) : (m.setOutq k x).cross = m.cross := rfl
@[simp] theorem setOutq_log (m : Mod) (k : Nat) (x : OutQ) : (m.setOutq k x).log = m.log := rfl
@[simp] theorem setOutq_hbm (m : Mod) (k : Nat) (x : OutQ) : (m.setOutq k x).hbm = m.hbm := rfl
@[simp] theorem setOutq_peat (m : Mod) (k : Nat) (x : OutQ) : (m.setOutq k x).peat = m.peat := rfl
@[simp] theorem setOutq_train (m : Mod) (k : Nat) (x : OutQ) : (m.setOutq k x).train = m.train := rfl
@[simp] theorem setOutq_exch (m : Mod) (k : Nat) (x : OutQ) : (m.setOutq k x).exch = m.exch := rfl
@[simp] theorem setOutq_clus (m : Mod) (k : Nat) (x : OutQ) : (m.setOutq k x).clus = m.clus := rfl
@[simp] theorem setOutq_eth (m : Mod) (k : Nat) (x : OutQ) : (m.setOutq k x).eth = m.eth := rfl
@[simp] theorem setOutq_dma (m : Mod) (k : Nat) (x : OutQ) : (m.setOutq k x).dma = m.dma := rfl
@[simp] theorem setOutq_kop (m : Mod) (k : Nat) (x : OutQ) : (m.setOutq k x).kop = m.kop := rfl
@[simp] theorem setOutq_sec (m : Mod) (k : Nat) (x : OutQ) : (m.setOutq k x).sec = m.sec := rfl
@[simp] theorem setOutq_tst (m : Mod) (k : Nat) (x : OutQ) : (m.setOutq k x).tst = m.tst := rfl
@[simp] theorem setOutq_free (m : Mod) (k : Nat) (x : OutQ) : (m.setOutq k x).free = m.free := rfl
@[simp] theorem setOutq_outq_same (m : Mod) (k : Nat) (x : OutQ) : (m.setOutq k x).outq k = x := tGet_tSet_same _ _ _ _
theorem setOutq_outq (m : Mod) (k j : Nat) (x : OutQ) : (m.setOutq k x).outq j = if j = k then x else m.outq j := tGet_tSet _ _ _ _ _
@[simp] theorem setOutq_hearth (m : Mod) (k j : Nat) (x : OutQ) : (m.setOutq k x).hearth j = m.hearth j := rfl
@[simp] theorem setOutq_ctl (m : Mod) (k j : Nat) (x : OutQ) : (m.setOutq k x).ctl j = m.ctl j := rfl
@[simp] theorem setOutq_sc (m : Mod) (k j : Nat) (x : OutQ) : (m.setOutq k x).sc j = m.sc j := rfl
@[simp] theorem setOutq_vc (m : Mod) (k j : Nat) (x : OutQ) : (m.setOutq k x).vc j = m.vc j := rfl
@[simp] theorem setOutq_mc (m : Mod) (k j : Nat) (x : OutQ) : (m.setOutq k x).mc j = m.mc j := rfl
@[simp] theorem setOutq_inq (m : Mod) (k j : Nat) (x : OutQ) : (m.setOutq k x).inq j = m.inq j := rfl
@[simp] theorem setOutq_tree (m : Mod) (k j : Nat) (x : OutQ) : (m.setOutq k x).tree j = m.tree j := rfl

/-! ### setTree -/

@[simp] theorem setTree_cord (m : Mod) (k : Nat) (x : Tree) : (m.setTree k x).cord = m.cord := rfl
@[simp] theorem setTree_tick (m : Mod) (k : Nat) (x : Tree) : (m.setTree k x).tick = m.tick := rfl
@[simp] theorem setTree_pow (m : Mod) (k : Nat) (x : Tree) : (m.setTree k x).pow = m.pow := rfl
@[simp] theorem setTree_flt (m : Mod) (k : Nat) (x : Tree) : (m.setTree k x).flt = m.flt := rfl
@[simp] theorem setTree_rem (m : Mod) (k : Nat) (x : Tree) : (m.setTree k x).rem = m.rem := rfl
@[simp] theorem setTree_dieN (m : Mod) (k : Nat) (x : Tree) : (m.setTree k x).dieN = m.dieN := rfl
@[simp] theorem setTree_dieS (m : Mod) (k : Nat) (x : Tree) : (m.setTree k x).dieS = m.dieS := rfl
@[simp] theorem setTree_cross (m : Mod) (k : Nat) (x : Tree) : (m.setTree k x).cross = m.cross := rfl
@[simp] theorem setTree_log (m : Mod) (k : Nat) (x : Tree) : (m.setTree k x).log = m.log := rfl
@[simp] theorem setTree_hbm (m : Mod) (k : Nat) (x : Tree) : (m.setTree k x).hbm = m.hbm := rfl
@[simp] theorem setTree_peat (m : Mod) (k : Nat) (x : Tree) : (m.setTree k x).peat = m.peat := rfl
@[simp] theorem setTree_train (m : Mod) (k : Nat) (x : Tree) : (m.setTree k x).train = m.train := rfl
@[simp] theorem setTree_exch (m : Mod) (k : Nat) (x : Tree) : (m.setTree k x).exch = m.exch := rfl
@[simp] theorem setTree_clus (m : Mod) (k : Nat) (x : Tree) : (m.setTree k x).clus = m.clus := rfl
@[simp] theorem setTree_eth (m : Mod) (k : Nat) (x : Tree) : (m.setTree k x).eth = m.eth := rfl
@[simp] theorem setTree_dma (m : Mod) (k : Nat) (x : Tree) : (m.setTree k x).dma = m.dma := rfl
@[simp] theorem setTree_kop (m : Mod) (k : Nat) (x : Tree) : (m.setTree k x).kop = m.kop := rfl
@[simp] theorem setTree_sec (m : Mod) (k : Nat) (x : Tree) : (m.setTree k x).sec = m.sec := rfl
@[simp] theorem setTree_tst (m : Mod) (k : Nat) (x : Tree) : (m.setTree k x).tst = m.tst := rfl
@[simp] theorem setTree_free (m : Mod) (k : Nat) (x : Tree) : (m.setTree k x).free = m.free := rfl
@[simp] theorem setTree_tree_same (m : Mod) (k : Nat) (x : Tree) : (m.setTree k x).tree k = x := tGet_tSet_same _ _ _ _
theorem setTree_tree (m : Mod) (k j : Nat) (x : Tree) : (m.setTree k x).tree j = if j = k then x else m.tree j := tGet_tSet _ _ _ _ _
@[simp] theorem setTree_hearth (m : Mod) (k j : Nat) (x : Tree) : (m.setTree k x).hearth j = m.hearth j := rfl
@[simp] theorem setTree_ctl (m : Mod) (k j : Nat) (x : Tree) : (m.setTree k x).ctl j = m.ctl j := rfl
@[simp] theorem setTree_sc (m : Mod) (k j : Nat) (x : Tree) : (m.setTree k x).sc j = m.sc j := rfl
@[simp] theorem setTree_vc (m : Mod) (k j : Nat) (x : Tree) : (m.setTree k x).vc j = m.vc j := rfl
@[simp] theorem setTree_mc (m : Mod) (k j : Nat) (x : Tree) : (m.setTree k x).mc j = m.mc j := rfl
@[simp] theorem setTree_inq (m : Mod) (k j : Nat) (x : Tree) : (m.setTree k x).inq j = m.inq j := rfl
@[simp] theorem setTree_outq (m : Mod) (k j : Nat) (x : Tree) : (m.setTree k x).outq j = m.outq j := rfl

/-! ### setKsess -/

@[simp] theorem setKsess_grid (m : Mod) (k : Nat) (x : KSess) : (m.setKsess k x).grid = m.grid := rfl
@[simp] theorem setKsess_cord (m : Mod) (k : Nat) (x : KSess) : (m.setKsess k x).cord = m.cord := rfl
@[simp] theorem setKsess_tick (m : Mod) (k : Nat) (x : KSess) : (m.setKsess k x).tick = m.tick := rfl
@[simp] theorem setKsess_pow (m : Mod) (k : Nat) (x : KSess) : (m.setKsess k x).pow = m.pow := rfl
@[simp] theorem setKsess_flt (m : Mod) (k : Nat) (x : KSess) : (m.setKsess k x).flt = m.flt := rfl
@[simp] theorem setKsess_rem (m : Mod) (k : Nat) (x : KSess) : (m.setKsess k x).rem = m.rem := rfl
@[simp] theorem setKsess_dieN (m : Mod) (k : Nat) (x : KSess) : (m.setKsess k x).dieN = m.dieN := rfl
@[simp] theorem setKsess_dieS (m : Mod) (k : Nat) (x : KSess) : (m.setKsess k x).dieS = m.dieS := rfl
@[simp] theorem setKsess_cross (m : Mod) (k : Nat) (x : KSess) : (m.setKsess k x).cross = m.cross := rfl
@[simp] theorem setKsess_log (m : Mod) (k : Nat) (x : KSess) : (m.setKsess k x).log = m.log := rfl
@[simp] theorem setKsess_hbm (m : Mod) (k : Nat) (x : KSess) : (m.setKsess k x).hbm = m.hbm := rfl
@[simp] theorem setKsess_peat (m : Mod) (k : Nat) (x : KSess) : (m.setKsess k x).peat = m.peat := rfl
@[simp] theorem setKsess_train (m : Mod) (k : Nat) (x : KSess) : (m.setKsess k x).train = m.train := rfl
@[simp] theorem setKsess_exch (m : Mod) (k : Nat) (x : KSess) : (m.setKsess k x).exch = m.exch := rfl
@[simp] theorem setKsess_clus (m : Mod) (k : Nat) (x : KSess) : (m.setKsess k x).clus = m.clus := rfl
@[simp] theorem setKsess_eth (m : Mod) (k : Nat) (x : KSess) : (m.setKsess k x).eth = m.eth := rfl
@[simp] theorem setKsess_dma (m : Mod) (k : Nat) (x : KSess) : (m.setKsess k x).dma = m.dma := rfl
@[simp] theorem setKsess_sec (m : Mod) (k : Nat) (x : KSess) : (m.setKsess k x).sec = m.sec := rfl
@[simp] theorem setKsess_tst (m : Mod) (k : Nat) (x : KSess) : (m.setKsess k x).tst = m.tst := rfl
@[simp] theorem setKsess_free (m : Mod) (k : Nat) (x : KSess) : (m.setKsess k x).free = m.free := rfl
@[simp] theorem setKsess_ksess_same (m : Mod) (k : Nat) (x : KSess) : (m.setKsess k x).ksess k = x := tGet_tSet_same _ _ _ _
theorem setKsess_ksess (m : Mod) (k j : Nat) (x : KSess) : (m.setKsess k x).ksess j = if j = k then x else m.ksess j := tGet_tSet _ _ _ _ _
@[simp] theorem setKsess_cmd (m : Mod) (k j : Nat) (x : KSess) : (m.setKsess k x).cmd j = m.cmd j := rfl

/-! ### setCmd -/

@[simp] theorem setCmd_grid (m : Mod) (k : Nat) (x : KCmd) : (m.setCmd k x).grid = m.grid := rfl
@[simp] theorem setCmd_cord (m : Mod) (k : Nat) (x : KCmd) : (m.setCmd k x).cord = m.cord := rfl
@[simp] theorem setCmd_tick (m : Mod) (k : Nat) (x : KCmd) : (m.setCmd k x).tick = m.tick := rfl
@[simp] theorem setCmd_pow (m : Mod) (k : Nat) (x : KCmd) : (m.setCmd k x).pow = m.pow := rfl
@[simp] theorem setCmd_flt (m : Mod) (k : Nat) (x : KCmd) : (m.setCmd k x).flt = m.flt := rfl
@[simp] theorem setCmd_rem (m : Mod) (k : Nat) (x : KCmd) : (m.setCmd k x).rem = m.rem := rfl
@[simp] theorem setCmd_dieN (m : Mod) (k : Nat) (x : KCmd) : (m.setCmd k x).dieN = m.dieN := rfl
@[simp] theorem setCmd_dieS (m : Mod) (k : Nat) (x : KCmd) : (m.setCmd k x).dieS = m.dieS := rfl
@[simp] theorem setCmd_cross (m : Mod) (k : Nat) (x : KCmd) : (m.setCmd k x).cross = m.cross := rfl
@[simp] theorem setCmd_log (m : Mod) (k : Nat) (x : KCmd) : (m.setCmd k x).log = m.log := rfl
@[simp] theorem setCmd_hbm (m : Mod) (k : Nat) (x : KCmd) : (m.setCmd k x).hbm = m.hbm := rfl
@[simp] theorem setCmd_peat (m : Mod) (k : Nat) (x : KCmd) : (m.setCmd k x).peat = m.peat := rfl
@[simp] theorem setCmd_train (m : Mod) (k : Nat) (x : KCmd) : (m.setCmd k x).train = m.train := rfl
@[simp] theorem setCmd_exch (m : Mod) (k : Nat) (x : KCmd) : (m.setCmd k x).exch = m.exch := rfl
@[simp] theorem setCmd_clus (m : Mod) (k : Nat) (x : KCmd) : (m.setCmd k x).clus = m.clus := rfl
@[simp] theorem setCmd_eth (m : Mod) (k : Nat) (x : KCmd) : (m.setCmd k x).eth = m.eth := rfl
@[simp] theorem setCmd_dma (m : Mod) (k : Nat) (x : KCmd) : (m.setCmd k x).dma = m.dma := rfl
@[simp] theorem setCmd_sec (m : Mod) (k : Nat) (x : KCmd) : (m.setCmd k x).sec = m.sec := rfl
@[simp] theorem setCmd_tst (m : Mod) (k : Nat) (x : KCmd) : (m.setCmd k x).tst = m.tst := rfl
@[simp] theorem setCmd_free (m : Mod) (k : Nat) (x : KCmd) : (m.setCmd k x).free = m.free := rfl
@[simp] theorem setCmd_cmd_same (m : Mod) (k : Nat) (x : KCmd) : (m.setCmd k x).cmd k = x := tGet_tSet_same _ _ _ _
theorem setCmd_cmd (m : Mod) (k j : Nat) (x : KCmd) : (m.setCmd k x).cmd j = if j = k then x else m.cmd j := tGet_tSet _ _ _ _ _
@[simp] theorem setCmd_ksess (m : Mod) (k j : Nat) (x : KCmd) : (m.setCmd k x).ksess j = m.ksess j := rfl

/-! ### setMsess -/

@[simp] theorem setMsess_grid (m : Mod) (k : Nat) (x : MSess) : (m.setMsess k x).grid = m.grid := rfl
@[simp] theorem setMsess_cord (m : Mod) (k : Nat) (x : MSess) : (m.setMsess k x).cord = m.cord := rfl
@[simp] theorem setMsess_tick (m : Mod) (k : Nat) (x : MSess) : (m.setMsess k x).tick = m.tick := rfl
@[simp] theorem setMsess_pow (m : Mod) (k : Nat) (x : MSess) : (m.setMsess k x).pow = m.pow := rfl
@[simp] theorem setMsess_flt (m : Mod) (k : Nat) (x : MSess) : (m.setMsess k x).flt = m.flt := rfl
@[simp] theorem setMsess_rem (m : Mod) (k : Nat) (x : MSess) : (m.setMsess k x).rem = m.rem := rfl
@[simp] theorem setMsess_dieN (m : Mod) (k : Nat) (x : MSess) : (m.setMsess k x).dieN = m.dieN := rfl
@[simp] theorem setMsess_dieS (m : Mod) (k : Nat) (x : MSess) : (m.setMsess k x).dieS = m.dieS := rfl
@[simp] theorem setMsess_cross (m : Mod) (k : Nat) (x : MSess) : (m.setMsess k x).cross = m.cross := rfl
@[simp] theorem setMsess_log (m : Mod) (k : Nat) (x : MSess) : (m.setMsess k x).log = m.log := rfl
@[simp] theorem setMsess_hbm (m : Mod) (k : Nat) (x : MSess) : (m.setMsess k x).hbm = m.hbm := rfl
@[simp] theorem setMsess_peat (m : Mod) (k : Nat) (x : MSess) : (m.setMsess k x).peat = m.peat := rfl
@[simp] theorem setMsess_train (m : Mod) (k : Nat) (x : MSess) : (m.setMsess k x).train = m.train := rfl
@[simp] theorem setMsess_exch (m : Mod) (k : Nat) (x : MSess) : (m.setMsess k x).exch = m.exch := rfl
@[simp] theorem setMsess_clus (m : Mod) (k : Nat) (x : MSess) : (m.setMsess k x).clus = m.clus := rfl
@[simp] theorem setMsess_eth (m : Mod) (k : Nat) (x : MSess) : (m.setMsess k x).eth = m.eth := rfl
@[simp] theorem setMsess_dma (m : Mod) (k : Nat) (x : MSess) : (m.setMsess k x).dma = m.dma := rfl
@[simp] theorem setMsess_kop (m : Mod) (k : Nat) (x : MSess) : (m.setMsess k x).kop = m.kop := rfl
@[simp] theorem setMsess_tst (m : Mod) (k : Nat) (x : MSess) : (m.setMsess k x).tst = m.tst := rfl
@[simp] theorem setMsess_free (m : Mod) (k : Nat) (x : MSess) : (m.setMsess k x).free = m.free := rfl
@[simp] theorem setMsess_msess_same (m : Mod) (k : Nat) (x : MSess) : (m.setMsess k x).msess k = x := tGet_tSet_same _ _ _ _
theorem setMsess_msess (m : Mod) (k j : Nat) (x : MSess) : (m.setMsess k x).msess j = if j = k then x else m.msess j := tGet_tSet _ _ _ _ _

/-! ### setQp -/

@[simp] theorem setQp_grid (m : Mod) (k : Nat) (x : QpSt) : (m.setQp k x).grid = m.grid := rfl
@[simp] theorem setQp_cord (m : Mod) (k : Nat) (x : QpSt) : (m.setQp k x).cord = m.cord := rfl
@[simp] theorem setQp_tick (m : Mod) (k : Nat) (x : QpSt) : (m.setQp k x).tick = m.tick := rfl
@[simp] theorem setQp_pow (m : Mod) (k : Nat) (x : QpSt) : (m.setQp k x).pow = m.pow := rfl
@[simp] theorem setQp_flt (m : Mod) (k : Nat) (x : QpSt) : (m.setQp k x).flt = m.flt := rfl
@[simp] theorem setQp_rem (m : Mod) (k : Nat) (x : QpSt) : (m.setQp k x).rem = m.rem := rfl
@[simp] theorem setQp_dieN (m : Mod) (k : Nat) (x : QpSt) : (m.setQp k x).dieN = m.dieN := rfl
@[simp] theorem setQp_dieS (m : Mod) (k : Nat) (x : QpSt) : (m.setQp k x).dieS = m.dieS := rfl
@[simp] theorem setQp_cross (m : Mod) (k : Nat) (x : QpSt) : (m.setQp k x).cross = m.cross := rfl
@[simp] theorem setQp_log (m : Mod) (k : Nat) (x : QpSt) : (m.setQp k x).log = m.log := rfl
@[simp] theorem setQp_hbm (m : Mod) (k : Nat) (x : QpSt) : (m.setQp k x).hbm = m.hbm := rfl
@[simp] theorem setQp_peat (m : Mod) (k : Nat) (x : QpSt) : (m.setQp k x).peat = m.peat := rfl
@[simp] theorem setQp_train (m : Mod) (k : Nat) (x : QpSt) : (m.setQp k x).train = m.train := rfl
@[simp] theorem setQp_exch (m : Mod) (k : Nat) (x : QpSt) : (m.setQp k x).exch = m.exch := rfl
@[simp] theorem setQp_clus (m : Mod) (k : Nat) (x : QpSt) : (m.setQp k x).clus = m.clus := rfl
@[simp] theorem setQp_dma (m : Mod) (k : Nat) (x : QpSt) : (m.setQp k x).dma = m.dma := rfl
@[simp] theorem setQp_kop (m : Mod) (k : Nat) (x : QpSt) : (m.setQp k x).kop = m.kop := rfl
@[simp] theorem setQp_sec (m : Mod) (k : Nat) (x : QpSt) : (m.setQp k x).sec = m.sec := rfl
@[simp] theorem setQp_tst (m : Mod) (k : Nat) (x : QpSt) : (m.setQp k x).tst = m.tst := rfl
@[simp] theorem setQp_free (m : Mod) (k : Nat) (x : QpSt) : (m.setQp k x).free = m.free := rfl
@[simp] theorem setQp_qp_same (m : Mod) (k : Nat) (x : QpSt) : (m.setQp k x).qp k = x := tGet_tSet_same _ _ _ _
theorem setQp_qp (m : Mod) (k j : Nat) (x : QpSt) : (m.setQp k x).qp j = if j = k then x else m.qp j := tGet_tSet _ _ _ _ _
@[simp] theorem setQp_port (m : Mod) (k j : Nat) (x : QpSt) : (m.setQp k x).port j = m.port j := rfl
@[simp] theorem setQp_iface (m : Mod) (k j : Nat) (x : QpSt) : (m.setQp k x).iface j = m.iface j := rfl

/-! ### setPort -/

@[simp] theorem setPort_grid (m : Mod) (k : Nat) (x : PortSt) : (m.setPort k x).grid = m.grid := rfl
@[simp] theorem setPort_cord (m : Mod) (k : Nat) (x : PortSt) : (m.setPort k x).cord = m.cord := rfl
@[simp] theorem setPort_tick (m : Mod) (k : Nat) (x : PortSt) : (m.setPort k x).tick = m.tick := rfl
@[simp] theorem setPort_pow (m : Mod) (k : Nat) (x : PortSt) : (m.setPort k x).pow = m.pow := rfl
@[simp] theorem setPort_flt (m : Mod) (k : Nat) (x : PortSt) : (m.setPort k x).flt = m.flt := rfl
@[simp] theorem setPort_rem (m : Mod) (k : Nat) (x : PortSt) : (m.setPort k x).rem = m.rem := rfl
@[simp] theorem setPort_dieN (m : Mod) (k : Nat) (x : PortSt) : (m.setPort k x).dieN = m.dieN := rfl
@[simp] theorem setPort_dieS (m : Mod) (k : Nat) (x : PortSt) : (m.setPort k x).dieS = m.dieS := rfl
@[simp] theorem setPort_cross (m : Mod) (k : Nat) (x : PortSt) : (m.setPort k x).cross = m.cross := rfl
@[simp] theorem setPort_log (m : Mod) (k : Nat) (x : PortSt) : (m.setPort k x).log = m.log := rfl
@[simp] theorem setPort_hbm (m : Mod) (k : Nat) (x : PortSt) : (m.setPort k x).hbm = m.hbm := rfl
@[simp] theorem setPort_peat (m : Mod) (k : Nat) (x : PortSt) : (m.setPort k x).peat = m.peat := rfl
@[simp] theorem setPort_train (m : Mod) (k : Nat) (x : PortSt) : (m.setPort k x).train = m.train := rfl
@[simp] theorem setPort_exch (m : Mod) (k : Nat) (x : PortSt) : (m.setPort k x).exch = m.exch := rfl
@[simp] theorem setPort_clus (m : Mod) (k : Nat) (x : PortSt) : (m.setPort k x).clus = m.clus := rfl
@[simp] theorem setPort_dma (m : Mod) (k : Nat) (x : PortSt) : (m.setPort k x).dma = m.dma := rfl
@[simp] theorem setPort_kop (m : Mod) (k : Nat) (x : PortSt) : (m.setPort k x).kop = m.kop := rfl
@[simp] theorem setPort_sec (m : Mod) (k : Nat) (x : PortSt) : (m.setPort k x).sec = m.sec := rfl
@[simp] theorem setPort_tst (m : Mod) (k : Nat) (x : PortSt) : (m.setPort k x).tst = m.tst := rfl
@[simp] theorem setPort_free (m : Mod) (k : Nat) (x : PortSt) : (m.setPort k x).free = m.free := rfl
@[simp] theorem setPort_port_same (m : Mod) (k : Nat) (x : PortSt) : (m.setPort k x).port k = x := tGet_tSet_same _ _ _ _
theorem setPort_port (m : Mod) (k j : Nat) (x : PortSt) : (m.setPort k x).port j = if j = k then x else m.port j := tGet_tSet _ _ _ _ _
@[simp] theorem setPort_qp (m : Mod) (k j : Nat) (x : PortSt) : (m.setPort k x).qp j = m.qp j := rfl
@[simp] theorem setPort_iface (m : Mod) (k j : Nat) (x : PortSt) : (m.setPort k x).iface j = m.iface j := rfl

/-! ### setIface -/

@[simp] theorem setIface_grid (m : Mod) (k : Nat) (x : IfSt) : (m.setIface k x).grid = m.grid := rfl
@[simp] theorem setIface_cord (m : Mod) (k : Nat) (x : IfSt) : (m.setIface k x).cord = m.cord := rfl
@[simp] theorem setIface_tick (m : Mod) (k : Nat) (x : IfSt) : (m.setIface k x).tick = m.tick := rfl
@[simp] theorem setIface_pow (m : Mod) (k : Nat) (x : IfSt) : (m.setIface k x).pow = m.pow := rfl
@[simp] theorem setIface_flt (m : Mod) (k : Nat) (x : IfSt) : (m.setIface k x).flt = m.flt := rfl
@[simp] theorem setIface_rem (m : Mod) (k : Nat) (x : IfSt) : (m.setIface k x).rem = m.rem := rfl
@[simp] theorem setIface_dieN (m : Mod) (k : Nat) (x : IfSt) : (m.setIface k x).dieN = m.dieN := rfl
@[simp] theorem setIface_dieS (m : Mod) (k : Nat) (x : IfSt) : (m.setIface k x).dieS = m.dieS := rfl
@[simp] theorem setIface_cross (m : Mod) (k : Nat) (x : IfSt) : (m.setIface k x).cross = m.cross := rfl
@[simp] theorem setIface_log (m : Mod) (k : Nat) (x : IfSt) : (m.setIface k x).log = m.log := rfl
@[simp] theorem setIface_hbm (m : Mod) (k : Nat) (x : IfSt) : (m.setIface k x).hbm = m.hbm := rfl
@[simp] theorem setIface_peat (m : Mod) (k : Nat) (x : IfSt) : (m.setIface k x).peat = m.peat := rfl
@[simp] theorem setIface_train (m : Mod) (k : Nat) (x : IfSt) : (m.setIface k x).train = m.train := rfl
@[simp] theorem setIface_exch (m : Mod) (k : Nat) (x : IfSt) : (m.setIface k x).exch = m.exch := rfl
@[simp] theorem setIface_clus (m : Mod) (k : Nat) (x : IfSt) : (m.setIface k x).clus = m.clus := rfl
@[simp] theorem setIface_dma (m : Mod) (k : Nat) (x : IfSt) : (m.setIface k x).dma = m.dma := rfl
@[simp] theorem setIface_kop (m : Mod) (k : Nat) (x : IfSt) : (m.setIface k x).kop = m.kop := rfl
@[simp] theorem setIface_sec (m : Mod) (k : Nat) (x : IfSt) : (m.setIface k x).sec = m.sec := rfl
@[simp] theorem setIface_tst (m : Mod) (k : Nat) (x : IfSt) : (m.setIface k x).tst = m.tst := rfl
@[simp] theorem setIface_free (m : Mod) (k : Nat) (x : IfSt) : (m.setIface k x).free = m.free := rfl
@[simp] theorem setIface_iface_same (m : Mod) (k : Nat) (x : IfSt) : (m.setIface k x).iface k = x := tGet_tSet_same _ _ _ _
theorem setIface_iface (m : Mod) (k j : Nat) (x : IfSt) : (m.setIface k x).iface j = if j = k then x else m.iface j := tGet_tSet _ _ _ _ _
@[simp] theorem setIface_qp (m : Mod) (k j : Nat) (x : IfSt) : (m.setIface k x).qp j = m.qp j := rfl
@[simp] theorem setIface_port (m : Mod) (k j : Nat) (x : IfSt) : (m.setIface k x).port j = m.port j := rfl

/-! ### setRing -/

@[simp] theorem setRing_grid (m : Mod) (k : Nat) (x : RingSt) : (m.setRing k x).grid = m.grid := rfl
@[simp] theorem setRing_cord (m : Mod) (k : Nat) (x : RingSt) : (m.setRing k x).cord = m.cord := rfl
@[simp] theorem setRing_tick (m : Mod) (k : Nat) (x : RingSt) : (m.setRing k x).tick = m.tick := rfl
@[simp] theorem setRing_pow (m : Mod) (k : Nat) (x : RingSt) : (m.setRing k x).pow = m.pow := rfl
@[simp] theorem setRing_flt (m : Mod) (k : Nat) (x : RingSt) : (m.setRing k x).flt = m.flt := rfl
@[simp] theorem setRing_rem (m : Mod) (k : Nat) (x : RingSt) : (m.setRing k x).rem = m.rem := rfl
@[simp] theorem setRing_dieN (m : Mod) (k : Nat) (x : RingSt) : (m.setRing k x).dieN = m.dieN := rfl
@[simp] theorem setRing_dieS (m : Mod) (k : Nat) (x : RingSt) : (m.setRing k x).dieS = m.dieS := rfl
@[simp] theorem setRing_cross (m : Mod) (k : Nat) (x : RingSt) : (m.setRing k x).cross = m.cross := rfl
@[simp] theorem setRing_log (m : Mod) (k : Nat) (x : RingSt) : (m.setRing k x).log = m.log := rfl
@[simp] theorem setRing_hbm (m : Mod) (k : Nat) (x : RingSt) : (m.setRing k x).hbm = m.hbm := rfl
@[simp] theorem setRing_peat (m : Mod) (k : Nat) (x : RingSt) : (m.setRing k x).peat = m.peat := rfl
@[simp] theorem setRing_train (m : Mod) (k : Nat) (x : RingSt) : (m.setRing k x).train = m.train := rfl
@[simp] theorem setRing_exch (m : Mod) (k : Nat) (x : RingSt) : (m.setRing k x).exch = m.exch := rfl
@[simp] theorem setRing_clus (m : Mod) (k : Nat) (x : RingSt) : (m.setRing k x).clus = m.clus := rfl
@[simp] theorem setRing_eth (m : Mod) (k : Nat) (x : RingSt) : (m.setRing k x).eth = m.eth := rfl
@[simp] theorem setRing_kop (m : Mod) (k : Nat) (x : RingSt) : (m.setRing k x).kop = m.kop := rfl
@[simp] theorem setRing_sec (m : Mod) (k : Nat) (x : RingSt) : (m.setRing k x).sec = m.sec := rfl
@[simp] theorem setRing_tst (m : Mod) (k : Nat) (x : RingSt) : (m.setRing k x).tst = m.tst := rfl
@[simp] theorem setRing_free (m : Mod) (k : Nat) (x : RingSt) : (m.setRing k x).free = m.free := rfl
@[simp] theorem setRing_ring_same (m : Mod) (k : Nat) (x : RingSt) : (m.setRing k x).ring k = x := tGet_tSet_same _ _ _ _
theorem setRing_ring (m : Mod) (k j : Nat) (x : RingSt) : (m.setRing k x).ring j = if j = k then x else m.ring j := tGet_tSet _ _ _ _ _
@[simp] theorem setRing_chanD (m : Mod) (k j : Nat) (x : RingSt) : (m.setRing k x).chanD j = m.chanD j := rfl

/-! ### setChanD -/

@[simp] theorem setChanD_grid (m : Mod) (k : Nat) (x : ChanSt) : (m.setChanD k x).grid = m.grid := rfl
@[simp] theorem setChanD_cord (m : Mod) (k : Nat) (x : ChanSt) : (m.setChanD k x).cord = m.cord := rfl
@[simp] theorem setChanD_tick (m : Mod) (k : Nat) (x : ChanSt) : (m.setChanD k x).tick = m.tick := rfl
@[simp] theorem setChanD_pow (m : Mod) (k : Nat) (x : ChanSt) : (m.setChanD k x).pow = m.pow := rfl
@[simp] theorem setChanD_flt (m : Mod) (k : Nat) (x : ChanSt) : (m.setChanD k x).flt = m.flt := rfl
@[simp] theorem setChanD_rem (m : Mod) (k : Nat) (x : ChanSt) : (m.setChanD k x).rem = m.rem := rfl
@[simp] theorem setChanD_dieN (m : Mod) (k : Nat) (x : ChanSt) : (m.setChanD k x).dieN = m.dieN := rfl
@[simp] theorem setChanD_dieS (m : Mod) (k : Nat) (x : ChanSt) : (m.setChanD k x).dieS = m.dieS := rfl
@[simp] theorem setChanD_cross (m : Mod) (k : Nat) (x : ChanSt) : (m.setChanD k x).cross = m.cross := rfl
@[simp] theorem setChanD_log (m : Mod) (k : Nat) (x : ChanSt) : (m.setChanD k x).log = m.log := rfl
@[simp] theorem setChanD_hbm (m : Mod) (k : Nat) (x : ChanSt) : (m.setChanD k x).hbm = m.hbm := rfl
@[simp] theorem setChanD_peat (m : Mod) (k : Nat) (x : ChanSt) : (m.setChanD k x).peat = m.peat := rfl
@[simp] theorem setChanD_train (m : Mod) (k : Nat) (x : ChanSt) : (m.setChanD k x).train = m.train := rfl
@[simp] theorem setChanD_exch (m : Mod) (k : Nat) (x : ChanSt) : (m.setChanD k x).exch = m.exch := rfl
@[simp] theorem setChanD_clus (m : Mod) (k : Nat) (x : ChanSt) : (m.setChanD k x).clus = m.clus := rfl
@[simp] theorem setChanD_eth (m : Mod) (k : Nat) (x : ChanSt) : (m.setChanD k x).eth = m.eth := rfl
@[simp] theorem setChanD_kop (m : Mod) (k : Nat) (x : ChanSt) : (m.setChanD k x).kop = m.kop := rfl
@[simp] theorem setChanD_sec (m : Mod) (k : Nat) (x : ChanSt) : (m.setChanD k x).sec = m.sec := rfl
@[simp] theorem setChanD_tst (m : Mod) (k : Nat) (x : ChanSt) : (m.setChanD k x).tst = m.tst := rfl
@[simp] theorem setChanD_free (m : Mod) (k : Nat) (x : ChanSt) : (m.setChanD k x).free = m.free := rfl
@[simp] theorem setChanD_chanD_same (m : Mod) (k : Nat) (x : ChanSt) : (m.setChanD k x).chanD k = x := tGet_tSet_same _ _ _ _
theorem setChanD_chanD (m : Mod) (k j : Nat) (x : ChanSt) : (m.setChanD k x).chanD j = if j = k then x else m.chanD j := tGet_tSet _ _ _ _ _
@[simp] theorem setChanD_ring (m : Mod) (k j : Nat) (x : ChanSt) : (m.setChanD k x).ring j = m.ring j := rfl

/-! ### setChan -/

@[simp] theorem setChan_grid (m : Mod) (k : Nat) (x : HbmChan) : (m.setChan k x).grid = m.grid := rfl
@[simp] theorem setChan_cord (m : Mod) (k : Nat) (x : HbmChan) : (m.setChan k x).cord = m.cord := rfl
@[simp] theorem setChan_tick (m : Mod) (k : Nat) (x : HbmChan) : (m.setChan k x).tick = m.tick := rfl
@[simp] theorem setChan_pow (m : Mod) (k : Nat) (x : HbmChan) : (m.setChan k x).pow = m.pow := rfl
@[simp] theorem setChan_flt (m : Mod) (k : Nat) (x : HbmChan) : (m.setChan k x).flt = m.flt := rfl
@[simp] theorem setChan_rem (m : Mod) (k : Nat) (x : HbmChan) : (m.setChan k x).rem = m.rem := rfl
@[simp] theorem setChan_dieN (m : Mod) (k : Nat) (x : HbmChan) : (m.setChan k x).dieN = m.dieN := rfl
@[simp] theorem setChan_dieS (m : Mod) (k : Nat) (x : HbmChan) : (m.setChan k x).dieS = m.dieS := rfl
@[simp] theorem setChan_cross (m : Mod) (k : Nat) (x : HbmChan) : (m.setChan k x).cross = m.cross := rfl
@[simp] theorem setChan_log (m : Mod) (k : Nat) (x : HbmChan) : (m.setChan k x).log = m.log := rfl
@[simp] theorem setChan_peat (m : Mod) (k : Nat) (x : HbmChan) : (m.setChan k x).peat = m.peat := rfl
@[simp] theorem setChan_train (m : Mod) (k : Nat) (x : HbmChan) : (m.setChan k x).train = m.train := rfl
@[simp] theorem setChan_exch (m : Mod) (k : Nat) (x : HbmChan) : (m.setChan k x).exch = m.exch := rfl
@[simp] theorem setChan_clus (m : Mod) (k : Nat) (x : HbmChan) : (m.setChan k x).clus = m.clus := rfl
@[simp] theorem setChan_eth (m : Mod) (k : Nat) (x : HbmChan) : (m.setChan k x).eth = m.eth := rfl
@[simp] theorem setChan_dma (m : Mod) (k : Nat) (x : HbmChan) : (m.setChan k x).dma = m.dma := rfl
@[simp] theorem setChan_kop (m : Mod) (k : Nat) (x : HbmChan) : (m.setChan k x).kop = m.kop := rfl
@[simp] theorem setChan_sec (m : Mod) (k : Nat) (x : HbmChan) : (m.setChan k x).sec = m.sec := rfl
@[simp] theorem setChan_tst (m : Mod) (k : Nat) (x : HbmChan) : (m.setChan k x).tst = m.tst := rfl
@[simp] theorem setChan_free (m : Mod) (k : Nat) (x : HbmChan) : (m.setChan k x).free = m.free := rfl
@[simp] theorem setChan_chan_same (m : Mod) (k : Nat) (x : HbmChan) : (m.setChan k x).chan k = x := tGet_tSet_same _ _ _ _
theorem setChan_chan (m : Mod) (k j : Nat) (x : HbmChan) : (m.setChan k x).chan j = if j = k then x else m.chan j := tGet_tSet _ _ _ _ _

/-! ### setPslot -/

@[simp] theorem setPslot_grid (m : Mod) (k : Nat) (x : PeatSlot) : (m.setPslot k x).grid = m.grid := rfl
@[simp] theorem setPslot_cord (m : Mod) (k : Nat) (x : PeatSlot) : (m.setPslot k x).cord = m.cord := rfl
@[simp] theorem setPslot_tick (m : Mod) (k : Nat) (x : PeatSlot) : (m.setPslot k x).tick = m.tick := rfl
@[simp] theorem setPslot_pow (m : Mod) (k : Nat) (x : PeatSlot) : (m.setPslot k x).pow = m.pow := rfl
@[simp] theorem setPslot_flt (m : Mod) (k : Nat) (x : PeatSlot) : (m.setPslot k x).flt = m.flt := rfl
@[simp] theorem setPslot_rem (m : Mod) (k : Nat) (x : PeatSlot) : (m.setPslot k x).rem = m.rem := rfl
@[simp] theorem setPslot_dieN (m : Mod) (k : Nat) (x : PeatSlot) : (m.setPslot k x).dieN = m.dieN := rfl
@[simp] theorem setPslot_dieS (m : Mod) (k : Nat) (x : PeatSlot) : (m.setPslot k x).dieS = m.dieS := rfl
@[simp] theorem setPslot_cross (m : Mod) (k : Nat) (x : PeatSlot) : (m.setPslot k x).cross = m.cross := rfl
@[simp] theorem setPslot_log (m : Mod) (k : Nat) (x : PeatSlot) : (m.setPslot k x).log = m.log := rfl
@[simp] theorem setPslot_hbm (m : Mod) (k : Nat) (x : PeatSlot) : (m.setPslot k x).hbm = m.hbm := rfl
@[simp] theorem setPslot_train (m : Mod) (k : Nat) (x : PeatSlot) : (m.setPslot k x).train = m.train := rfl
@[simp] theorem setPslot_exch (m : Mod) (k : Nat) (x : PeatSlot) : (m.setPslot k x).exch = m.exch := rfl
@[simp] theorem setPslot_clus (m : Mod) (k : Nat) (x : PeatSlot) : (m.setPslot k x).clus = m.clus := rfl
@[simp] theorem setPslot_eth (m : Mod) (k : Nat) (x : PeatSlot) : (m.setPslot k x).eth = m.eth := rfl
@[simp] theorem setPslot_dma (m : Mod) (k : Nat) (x : PeatSlot) : (m.setPslot k x).dma = m.dma := rfl
@[simp] theorem setPslot_kop (m : Mod) (k : Nat) (x : PeatSlot) : (m.setPslot k x).kop = m.kop := rfl
@[simp] theorem setPslot_sec (m : Mod) (k : Nat) (x : PeatSlot) : (m.setPslot k x).sec = m.sec := rfl
@[simp] theorem setPslot_tst (m : Mod) (k : Nat) (x : PeatSlot) : (m.setPslot k x).tst = m.tst := rfl
@[simp] theorem setPslot_free (m : Mod) (k : Nat) (x : PeatSlot) : (m.setPslot k x).free = m.free := rfl
@[simp] theorem setPslot_pslot_same (m : Mod) (k : Nat) (x : PeatSlot) : (m.setPslot k x).pslot k = x := tGet_tSet_same _ _ _ _
theorem setPslot_pslot (m : Mod) (k j : Nat) (x : PeatSlot) : (m.setPslot k x).pslot j = if j = k then x else m.pslot j := tGet_tSet _ _ _ _ _
@[simp] theorem setPslot_fdie (m : Mod) (k j : Nat) (x : PeatSlot) : (m.setPslot k x).fdie j = m.fdie j := rfl

/-! ### setFdie -/

@[simp] theorem setFdie_grid (m : Mod) (k : Nat) (x : FlashDie) : (m.setFdie k x).grid = m.grid := rfl
@[simp] theorem setFdie_cord (m : Mod) (k : Nat) (x : FlashDie) : (m.setFdie k x).cord = m.cord := rfl
@[simp] theorem setFdie_tick (m : Mod) (k : Nat) (x : FlashDie) : (m.setFdie k x).tick = m.tick := rfl
@[simp] theorem setFdie_pow (m : Mod) (k : Nat) (x : FlashDie) : (m.setFdie k x).pow = m.pow := rfl
@[simp] theorem setFdie_flt (m : Mod) (k : Nat) (x : FlashDie) : (m.setFdie k x).flt = m.flt := rfl
@[simp] theorem setFdie_rem (m : Mod) (k : Nat) (x : FlashDie) : (m.setFdie k x).rem = m.rem := rfl
@[simp] theorem setFdie_dieN (m : Mod) (k : Nat) (x : FlashDie) : (m.setFdie k x).dieN = m.dieN := rfl
@[simp] theorem setFdie_dieS (m : Mod) (k : Nat) (x : FlashDie) : (m.setFdie k x).dieS = m.dieS := rfl
@[simp] theorem setFdie_cross (m : Mod) (k : Nat) (x : FlashDie) : (m.setFdie k x).cross = m.cross := rfl
@[simp] theorem setFdie_log (m : Mod) (k : Nat) (x : FlashDie) : (m.setFdie k x).log = m.log := rfl
@[simp] theorem setFdie_hbm (m : Mod) (k : Nat) (x : FlashDie) : (m.setFdie k x).hbm = m.hbm := rfl
@[simp] theorem setFdie_train (m : Mod) (k : Nat) (x : FlashDie) : (m.setFdie k x).train = m.train := rfl
@[simp] theorem setFdie_exch (m : Mod) (k : Nat) (x : FlashDie) : (m.setFdie k x).exch = m.exch := rfl
@[simp] theorem setFdie_clus (m : Mod) (k : Nat) (x : FlashDie) : (m.setFdie k x).clus = m.clus := rfl
@[simp] theorem setFdie_eth (m : Mod) (k : Nat) (x : FlashDie) : (m.setFdie k x).eth = m.eth := rfl
@[simp] theorem setFdie_dma (m : Mod) (k : Nat) (x : FlashDie) : (m.setFdie k x).dma = m.dma := rfl
@[simp] theorem setFdie_kop (m : Mod) (k : Nat) (x : FlashDie) : (m.setFdie k x).kop = m.kop := rfl
@[simp] theorem setFdie_sec (m : Mod) (k : Nat) (x : FlashDie) : (m.setFdie k x).sec = m.sec := rfl
@[simp] theorem setFdie_tst (m : Mod) (k : Nat) (x : FlashDie) : (m.setFdie k x).tst = m.tst := rfl
@[simp] theorem setFdie_free (m : Mod) (k : Nat) (x : FlashDie) : (m.setFdie k x).free = m.free := rfl
@[simp] theorem setFdie_fdie_same (m : Mod) (k : Nat) (x : FlashDie) : (m.setFdie k x).fdie k = x := tGet_tSet_same _ _ _ _
theorem setFdie_fdie (m : Mod) (k j : Nat) (x : FlashDie) : (m.setFdie k x).fdie j = if j = k then x else m.fdie j := tGet_tSet _ _ _ _ _
@[simp] theorem setFdie_pslot (m : Mod) (k j : Nat) (x : FlashDie) : (m.setFdie k x).pslot j = m.pslot j := rfl

/-! ### setRemOut -/

@[simp] theorem setRemOut_grid (m : Mod) (k : Nat) (x : RemOut) : (m.setRemOut k x).grid = m.grid := rfl
@[simp] theorem setRemOut_cord (m : Mod) (k : Nat) (x : RemOut) : (m.setRemOut k x).cord = m.cord := rfl
@[simp] theorem setRemOut_tick (m : Mod) (k : Nat) (x : RemOut) : (m.setRemOut k x).tick = m.tick := rfl
@[simp] theorem setRemOut_pow (m : Mod) (k : Nat) (x : RemOut) : (m.setRemOut k x).pow = m.pow := rfl
@[simp] theorem setRemOut_flt (m : Mod) (k : Nat) (x : RemOut) : (m.setRemOut k x).flt = m.flt := rfl
@[simp] theorem setRemOut_dieN (m : Mod) (k : Nat) (x : RemOut) : (m.setRemOut k x).dieN = m.dieN := rfl
@[simp] theorem setRemOut_dieS (m : Mod) (k : Nat) (x : RemOut) : (m.setRemOut k x).dieS = m.dieS := rfl
@[simp] theorem setRemOut_cross (m : Mod) (k : Nat) (x : RemOut) : (m.setRemOut k x).cross = m.cross := rfl
@[simp] theorem setRemOut_log (m : Mod) (k : Nat) (x : RemOut) : (m.setRemOut k x).log = m.log := rfl
@[simp] theorem setRemOut_hbm (m : Mod) (k : Nat) (x : RemOut) : (m.setRemOut k x).hbm = m.hbm := rfl
@[simp] theorem setRemOut_peat (m : Mod) (k : Nat) (x : RemOut) : (m.setRemOut k x).peat = m.peat := rfl
@[simp] theorem setRemOut_train (m : Mod) (k : Nat) (x : RemOut) : (m.setRemOut k x).train = m.train := rfl
@[simp] theorem setRemOut_exch (m : Mod) (k : Nat) (x : RemOut) : (m.setRemOut k x).exch = m.exch := rfl
@[simp] theorem setRemOut_clus (m : Mod) (k : Nat) (x : RemOut) : (m.setRemOut k x).clus = m.clus := rfl
@[simp] theorem setRemOut_eth (m : Mod) (k : Nat) (x : RemOut) : (m.setRemOut k x).eth = m.eth := rfl
@[simp] theorem setRemOut_dma (m : Mod) (k : Nat) (x : RemOut) : (m.setRemOut k x).dma = m.dma := rfl
@[simp] theorem setRemOut_kop (m : Mod) (k : Nat) (x : RemOut) : (m.setRemOut k x).kop = m.kop := rfl
@[simp] theorem setRemOut_sec (m : Mod) (k : Nat) (x : RemOut) : (m.setRemOut k x).sec = m.sec := rfl
@[simp] theorem setRemOut_tst (m : Mod) (k : Nat) (x : RemOut) : (m.setRemOut k x).tst = m.tst := rfl
@[simp] theorem setRemOut_free (m : Mod) (k : Nat) (x : RemOut) : (m.setRemOut k x).free = m.free := rfl
@[simp] theorem setRemOut_remOut_same (m : Mod) (k : Nat) (x : RemOut) : (m.setRemOut k x).remOut k = x := tGet_tSet_same _ _ _ _
theorem setRemOut_remOut (m : Mod) (k j : Nat) (x : RemOut) : (m.setRemOut k x).remOut j = if j = k then x else m.remOut j := tGet_tSet _ _ _ _ _
@[simp] theorem setRemOut_remIn (m : Mod) (k j : Nat) (x : RemOut) : (m.setRemOut k x).remIn j = m.remIn j := rfl

/-! ### setRemIn -/

@[simp] theorem setRemIn_grid (m : Mod) (k : Nat) (x : RemIn) : (m.setRemIn k x).grid = m.grid := rfl
@[simp] theorem setRemIn_cord (m : Mod) (k : Nat) (x : RemIn) : (m.setRemIn k x).cord = m.cord := rfl
@[simp] theorem setRemIn_tick (m : Mod) (k : Nat) (x : RemIn) : (m.setRemIn k x).tick = m.tick := rfl
@[simp] theorem setRemIn_pow (m : Mod) (k : Nat) (x : RemIn) : (m.setRemIn k x).pow = m.pow := rfl
@[simp] theorem setRemIn_flt (m : Mod) (k : Nat) (x : RemIn) : (m.setRemIn k x).flt = m.flt := rfl
@[simp] theorem setRemIn_dieN (m : Mod) (k : Nat) (x : RemIn) : (m.setRemIn k x).dieN = m.dieN := rfl
@[simp] theorem setRemIn_dieS (m : Mod) (k : Nat) (x : RemIn) : (m.setRemIn k x).dieS = m.dieS := rfl
@[simp] theorem setRemIn_cross (m : Mod) (k : Nat) (x : RemIn) : (m.setRemIn k x).cross = m.cross := rfl
@[simp] theorem setRemIn_log (m : Mod) (k : Nat) (x : RemIn) : (m.setRemIn k x).log = m.log := rfl
@[simp] theorem setRemIn_hbm (m : Mod) (k : Nat) (x : RemIn) : (m.setRemIn k x).hbm = m.hbm := rfl
@[simp] theorem setRemIn_peat (m : Mod) (k : Nat) (x : RemIn) : (m.setRemIn k x).peat = m.peat := rfl
@[simp] theorem setRemIn_train (m : Mod) (k : Nat) (x : RemIn) : (m.setRemIn k x).train = m.train := rfl
@[simp] theorem setRemIn_exch (m : Mod) (k : Nat) (x : RemIn) : (m.setRemIn k x).exch = m.exch := rfl
@[simp] theorem setRemIn_clus (m : Mod) (k : Nat) (x : RemIn) : (m.setRemIn k x).clus = m.clus := rfl
@[simp] theorem setRemIn_eth (m : Mod) (k : Nat) (x : RemIn) : (m.setRemIn k x).eth = m.eth := rfl
@[simp] theorem setRemIn_dma (m : Mod) (k : Nat) (x : RemIn) : (m.setRemIn k x).dma = m.dma := rfl
@[simp] theorem setRemIn_kop (m : Mod) (k : Nat) (x : RemIn) : (m.setRemIn k x).kop = m.kop := rfl
@[simp] theorem setRemIn_sec (m : Mod) (k : Nat) (x : RemIn) : (m.setRemIn k x).sec = m.sec := rfl
@[simp] theorem setRemIn_tst (m : Mod) (k : Nat) (x : RemIn) : (m.setRemIn k x).tst = m.tst := rfl
@[simp] theorem setRemIn_free (m : Mod) (k : Nat) (x : RemIn) : (m.setRemIn k x).free = m.free := rfl
@[simp] theorem setRemIn_remIn_same (m : Mod) (k : Nat) (x : RemIn) : (m.setRemIn k x).remIn k = x := tGet_tSet_same _ _ _ _
theorem setRemIn_remIn (m : Mod) (k j : Nat) (x : RemIn) : (m.setRemIn k x).remIn j = if j = k then x else m.remIn j := tGet_tSet _ _ _ _ _
@[simp] theorem setRemIn_remOut (m : Mod) (k j : Nat) (x : RemIn) : (m.setRemIn k x).remOut j = m.remOut j := rfl

/-! ### setTensor -/

@[simp] theorem setTensor_grid (m : Mod) (k : Nat) (x : TensorSt) : (m.setTensor k x).grid = m.grid := rfl
@[simp] theorem setTensor_cord (m : Mod) (k : Nat) (x : TensorSt) : (m.setTensor k x).cord = m.cord := rfl
@[simp] theorem setTensor_tick (m : Mod) (k : Nat) (x : TensorSt) : (m.setTensor k x).tick = m.tick := rfl
@[simp] theorem setTensor_pow (m : Mod) (k : Nat) (x : TensorSt) : (m.setTensor k x).pow = m.pow := rfl
@[simp] theorem setTensor_flt (m : Mod) (k : Nat) (x : TensorSt) : (m.setTensor k x).flt = m.flt := rfl
@[simp] theorem setTensor_rem (m : Mod) (k : Nat) (x : TensorSt) : (m.setTensor k x).rem = m.rem := rfl
@[simp] theorem setTensor_dieN (m : Mod) (k : Nat) (x : TensorSt) : (m.setTensor k x).dieN = m.dieN := rfl
@[simp] theorem setTensor_dieS (m : Mod) (k : Nat) (x : TensorSt) : (m.setTensor k x).dieS = m.dieS := rfl
@[simp] theorem setTensor_cross (m : Mod) (k : Nat) (x : TensorSt) : (m.setTensor k x).cross = m.cross := rfl
@[simp] theorem setTensor_log (m : Mod) (k : Nat) (x : TensorSt) : (m.setTensor k x).log = m.log := rfl
@[simp] theorem setTensor_hbm (m : Mod) (k : Nat) (x : TensorSt) : (m.setTensor k x).hbm = m.hbm := rfl
@[simp] theorem setTensor_peat (m : Mod) (k : Nat) (x : TensorSt) : (m.setTensor k x).peat = m.peat := rfl
@[simp] theorem setTensor_exch (m : Mod) (k : Nat) (x : TensorSt) : (m.setTensor k x).exch = m.exch := rfl
@[simp] theorem setTensor_clus (m : Mod) (k : Nat) (x : TensorSt) : (m.setTensor k x).clus = m.clus := rfl
@[simp] theorem setTensor_eth (m : Mod) (k : Nat) (x : TensorSt) : (m.setTensor k x).eth = m.eth := rfl
@[simp] theorem setTensor_dma (m : Mod) (k : Nat) (x : TensorSt) : (m.setTensor k x).dma = m.dma := rfl
@[simp] theorem setTensor_kop (m : Mod) (k : Nat) (x : TensorSt) : (m.setTensor k x).kop = m.kop := rfl
@[simp] theorem setTensor_sec (m : Mod) (k : Nat) (x : TensorSt) : (m.setTensor k x).sec = m.sec := rfl
@[simp] theorem setTensor_tst (m : Mod) (k : Nat) (x : TensorSt) : (m.setTensor k x).tst = m.tst := rfl
@[simp] theorem setTensor_free (m : Mod) (k : Nat) (x : TensorSt) : (m.setTensor k x).free = m.free := rfl
@[simp] theorem setTensor_tensor_same (m : Mod) (k : Nat) (x : TensorSt) : (m.setTensor k x).tensor k = x := tGet_tSet_same _ _ _ _
theorem setTensor_tensor (m : Mod) (k j : Nat) (x : TensorSt) : (m.setTensor k x).tensor j = if j = k then x else m.tensor j := tGet_tSet _ _ _ _ _

/-! ### Dies, slots, banks -/

@[simp] theorem setDie_grid (m : Mod) (k : Nat) (x : DieSt) : (m.setDie k x).grid = m.grid := by unfold Mod.setDie; split <;> rfl
@[simp] theorem setDie_cord (m : Mod) (k : Nat) (x : DieSt) : (m.setDie k x).cord = m.cord := by unfold Mod.setDie; split <;> rfl
@[simp] theorem setDie_tick (m : Mod) (k : Nat) (x : DieSt) : (m.setDie k x).tick = m.tick := by unfold Mod.setDie; split <;> rfl
@[simp] theorem setDie_pow (m : Mod) (k : Nat) (x : DieSt) : (m.setDie k x).pow = m.pow := by unfold Mod.setDie; split <;> rfl
@[simp] theorem setDie_flt (m : Mod) (k : Nat) (x : DieSt) : (m.setDie k x).flt = m.flt := by unfold Mod.setDie; split <;> rfl
@[simp] theorem setDie_rem (m : Mod) (k : Nat) (x : DieSt) : (m.setDie k x).rem = m.rem := by unfold Mod.setDie; split <;> rfl
@[simp] theorem setDie_cross (m : Mod) (k : Nat) (x : DieSt) : (m.setDie k x).cross = m.cross := by unfold Mod.setDie; split <;> rfl
@[simp] theorem setDie_log (m : Mod) (k : Nat) (x : DieSt) : (m.setDie k x).log = m.log := by unfold Mod.setDie; split <;> rfl
@[simp] theorem setDie_hbm (m : Mod) (k : Nat) (x : DieSt) : (m.setDie k x).hbm = m.hbm := by unfold Mod.setDie; split <;> rfl
@[simp] theorem setDie_peat (m : Mod) (k : Nat) (x : DieSt) : (m.setDie k x).peat = m.peat := by unfold Mod.setDie; split <;> rfl
@[simp] theorem setDie_train (m : Mod) (k : Nat) (x : DieSt) : (m.setDie k x).train = m.train := by unfold Mod.setDie; split <;> rfl
@[simp] theorem setDie_exch (m : Mod) (k : Nat) (x : DieSt) : (m.setDie k x).exch = m.exch := by unfold Mod.setDie; split <;> rfl
@[simp] theorem setDie_clus (m : Mod) (k : Nat) (x : DieSt) : (m.setDie k x).clus = m.clus := by unfold Mod.setDie; split <;> rfl
@[simp] theorem setDie_eth (m : Mod) (k : Nat) (x : DieSt) : (m.setDie k x).eth = m.eth := by unfold Mod.setDie; split <;> rfl
@[simp] theorem setDie_dma (m : Mod) (k : Nat) (x : DieSt) : (m.setDie k x).dma = m.dma := by unfold Mod.setDie; split <;> rfl
@[simp] theorem setDie_kop (m : Mod) (k : Nat) (x : DieSt) : (m.setDie k x).kop = m.kop := by unfold Mod.setDie; split <;> rfl
@[simp] theorem setDie_sec (m : Mod) (k : Nat) (x : DieSt) : (m.setDie k x).sec = m.sec := by unfold Mod.setDie; split <;> rfl
@[simp] theorem setDie_tst (m : Mod) (k : Nat) (x : DieSt) : (m.setDie k x).tst = m.tst := by unfold Mod.setDie; split <;> rfl
@[simp] theorem setDie_free (m : Mod) (k : Nat) (x : DieSt) : (m.setDie k x).free = m.free := by unfold Mod.setDie; split <;> rfl
@[simp] theorem setDie_die_same (m : Mod) (k : Nat) (x : DieSt) : (m.setDie k x).die k = x := by
  unfold Mod.setDie Mod.die; split <;> rfl
@[simp] theorem setSlot_grid (m : Mod) (k : Nat) (x : CSlot) : (m.setSlot k x).grid = m.grid := rfl
@[simp] theorem setSlot_tick (m : Mod) (k : Nat) (x : CSlot) : (m.setSlot k x).tick = m.tick := rfl
@[simp] theorem setSlot_pow (m : Mod) (k : Nat) (x : CSlot) : (m.setSlot k x).pow = m.pow := rfl
@[simp] theorem setSlot_flt (m : Mod) (k : Nat) (x : CSlot) : (m.setSlot k x).flt = m.flt := rfl
@[simp] theorem setSlot_rem (m : Mod) (k : Nat) (x : CSlot) : (m.setSlot k x).rem = m.rem := rfl
@[simp] theorem setSlot_dieN (m : Mod) (k : Nat) (x : CSlot) : (m.setSlot k x).dieN = m.dieN := rfl
@[simp] theorem setSlot_dieS (m : Mod) (k : Nat) (x : CSlot) : (m.setSlot k x).dieS = m.dieS := rfl
@[simp] theorem setSlot_cross (m : Mod) (k : Nat) (x : CSlot) : (m.setSlot k x).cross = m.cross := rfl
@[simp] theorem setSlot_log (m : Mod) (k : Nat) (x : CSlot) : (m.setSlot k x).log = m.log := rfl
@[simp] theorem setSlot_hbm (m : Mod) (k : Nat) (x : CSlot) : (m.setSlot k x).hbm = m.hbm := rfl
@[simp] theorem setSlot_peat (m : Mod) (k : Nat) (x : CSlot) : (m.setSlot k x).peat = m.peat := rfl
@[simp] theorem setSlot_train (m : Mod) (k : Nat) (x : CSlot) : (m.setSlot k x).train = m.train := rfl
@[simp] theorem setSlot_exch (m : Mod) (k : Nat) (x : CSlot) : (m.setSlot k x).exch = m.exch := rfl
@[simp] theorem setSlot_clus (m : Mod) (k : Nat) (x : CSlot) : (m.setSlot k x).clus = m.clus := rfl
@[simp] theorem setSlot_eth (m : Mod) (k : Nat) (x : CSlot) : (m.setSlot k x).eth = m.eth := rfl
@[simp] theorem setSlot_dma (m : Mod) (k : Nat) (x : CSlot) : (m.setSlot k x).dma = m.dma := rfl
@[simp] theorem setSlot_kop (m : Mod) (k : Nat) (x : CSlot) : (m.setSlot k x).kop = m.kop := rfl
@[simp] theorem setSlot_sec (m : Mod) (k : Nat) (x : CSlot) : (m.setSlot k x).sec = m.sec := rfl
@[simp] theorem setSlot_tst (m : Mod) (k : Nat) (x : CSlot) : (m.setSlot k x).tst = m.tst := rfl
@[simp] theorem setSlot_free (m : Mod) (k : Nat) (x : CSlot) : (m.setSlot k x).free = m.free := rfl
@[simp] theorem setSlot_slot_same (m : Mod) (k : Nat) (x : CSlot) : (m.setSlot k x).slot k = x := by
  unfold Mod.setSlot Mod.slot; split <;> rfl
@[simp] theorem setSlot_inst (m : Mod) (k : Nat) (x : CSlot) : (m.setSlot k x).cord.inst = m.cord.inst := by
  unfold Mod.setSlot; split <;> rfl
@[simp] theorem setBank_grid (m : Mod) (k : Nat) (x : BankSt) : (m.setBank k x).grid = m.grid := rfl
@[simp] theorem setBank_cord (m : Mod) (k : Nat) (x : BankSt) : (m.setBank k x).cord = m.cord := rfl
@[simp] theorem setBank_tick (m : Mod) (k : Nat) (x : BankSt) : (m.setBank k x).tick = m.tick := rfl
@[simp] theorem setBank_pow (m : Mod) (k : Nat) (x : BankSt) : (m.setBank k x).pow = m.pow := rfl
@[simp] theorem setBank_flt (m : Mod) (k : Nat) (x : BankSt) : (m.setBank k x).flt = m.flt := rfl
@[simp] theorem setBank_rem (m : Mod) (k : Nat) (x : BankSt) : (m.setBank k x).rem = m.rem := rfl
@[simp] theorem setBank_dieN (m : Mod) (k : Nat) (x : BankSt) : (m.setBank k x).dieN = m.dieN := rfl
@[simp] theorem setBank_dieS (m : Mod) (k : Nat) (x : BankSt) : (m.setBank k x).dieS = m.dieS := rfl
@[simp] theorem setBank_cross (m : Mod) (k : Nat) (x : BankSt) : (m.setBank k x).cross = m.cross := rfl
@[simp] theorem setBank_log (m : Mod) (k : Nat) (x : BankSt) : (m.setBank k x).log = m.log := rfl
@[simp] theorem setBank_hbm (m : Mod) (k : Nat) (x : BankSt) : (m.setBank k x).hbm = m.hbm := rfl
@[simp] theorem setBank_peat (m : Mod) (k : Nat) (x : BankSt) : (m.setBank k x).peat = m.peat := rfl
@[simp] theorem setBank_train (m : Mod) (k : Nat) (x : BankSt) : (m.setBank k x).train = m.train := rfl
@[simp] theorem setBank_exch (m : Mod) (k : Nat) (x : BankSt) : (m.setBank k x).exch = m.exch := rfl
@[simp] theorem setBank_clus (m : Mod) (k : Nat) (x : BankSt) : (m.setBank k x).clus = m.clus := rfl
@[simp] theorem setBank_eth (m : Mod) (k : Nat) (x : BankSt) : (m.setBank k x).eth = m.eth := rfl
@[simp] theorem setBank_dma (m : Mod) (k : Nat) (x : BankSt) : (m.setBank k x).dma = m.dma := rfl
@[simp] theorem setBank_kop (m : Mod) (k : Nat) (x : BankSt) : (m.setBank k x).kop = m.kop := rfl
@[simp] theorem setBank_tst (m : Mod) (k : Nat) (x : BankSt) : (m.setBank k x).tst = m.tst := rfl
@[simp] theorem setBank_free (m : Mod) (k : Nat) (x : BankSt) : (m.setBank k x).free = m.free := rfl
@[simp] theorem setBank_bank_same (m : Mod) (k : Nat) (x : BankSt) : (m.setBank k x).bank k = x := by
  unfold Mod.setBank Mod.bank; split <;> rfl

/-! ### Entropy, the wire, the journal, the port -/

@[simp] theorem put_grid (m : Mod) (t : Tx) : (m.put t).grid = m.grid := rfl
@[simp] theorem put_cord (m : Mod) (t : Tx) : (m.put t).cord = m.cord := rfl
@[simp] theorem put_tick (m : Mod) (t : Tx) : (m.put t).tick = m.tick := rfl
@[simp] theorem put_pow (m : Mod) (t : Tx) : (m.put t).pow = m.pow := rfl
@[simp] theorem put_flt (m : Mod) (t : Tx) : (m.put t).flt = m.flt := rfl
@[simp] theorem put_rem (m : Mod) (t : Tx) : (m.put t).rem = m.rem := rfl
@[simp] theorem put_dieN (m : Mod) (t : Tx) : (m.put t).dieN = m.dieN := rfl
@[simp] theorem put_dieS (m : Mod) (t : Tx) : (m.put t).dieS = m.dieS := rfl
@[simp] theorem put_cross (m : Mod) (t : Tx) : (m.put t).cross = m.cross := rfl
@[simp] theorem put_log (m : Mod) (t : Tx) : (m.put t).log = m.log := rfl
@[simp] theorem put_hbm (m : Mod) (t : Tx) : (m.put t).hbm = m.hbm := rfl
@[simp] theorem put_peat (m : Mod) (t : Tx) : (m.put t).peat = m.peat := rfl
@[simp] theorem put_train (m : Mod) (t : Tx) : (m.put t).train = m.train := rfl
@[simp] theorem put_exch (m : Mod) (t : Tx) : (m.put t).exch = m.exch := rfl
@[simp] theorem put_clus (m : Mod) (t : Tx) : (m.put t).clus = m.clus := rfl
@[simp] theorem put_dma (m : Mod) (t : Tx) : (m.put t).dma = m.dma := rfl
@[simp] theorem put_kop (m : Mod) (t : Tx) : (m.put t).kop = m.kop := rfl
@[simp] theorem put_sec (m : Mod) (t : Tx) : (m.put t).sec = m.sec := rfl
@[simp] theorem put_tst (m : Mod) (t : Tx) : (m.put t).tst = m.tst := rfl
@[simp] theorem put_free (m : Mod) (t : Tx) : (m.put t).free = m.free := rfl
@[simp] theorem journal_grid (m : Mod) (k : Nat) (b : List Byte) : (m.journal k b).grid = m.grid := rfl
@[simp] theorem journal_cord (m : Mod) (k : Nat) (b : List Byte) : (m.journal k b).cord = m.cord := rfl
@[simp] theorem journal_tick (m : Mod) (k : Nat) (b : List Byte) : (m.journal k b).tick = m.tick := rfl
@[simp] theorem journal_flt (m : Mod) (k : Nat) (b : List Byte) : (m.journal k b).flt = m.flt := rfl
@[simp] theorem journal_rem (m : Mod) (k : Nat) (b : List Byte) : (m.journal k b).rem = m.rem := rfl
@[simp] theorem journal_dieN (m : Mod) (k : Nat) (b : List Byte) : (m.journal k b).dieN = m.dieN := rfl
@[simp] theorem journal_dieS (m : Mod) (k : Nat) (b : List Byte) : (m.journal k b).dieS = m.dieS := rfl
@[simp] theorem journal_cross (m : Mod) (k : Nat) (b : List Byte) : (m.journal k b).cross = m.cross := rfl
@[simp] theorem journal_log (m : Mod) (k : Nat) (b : List Byte) : (m.journal k b).log = m.log := rfl
@[simp] theorem journal_hbm (m : Mod) (k : Nat) (b : List Byte) : (m.journal k b).hbm = m.hbm := rfl
@[simp] theorem journal_peat (m : Mod) (k : Nat) (b : List Byte) : (m.journal k b).peat = m.peat := rfl
@[simp] theorem journal_train (m : Mod) (k : Nat) (b : List Byte) : (m.journal k b).train = m.train := rfl
@[simp] theorem journal_exch (m : Mod) (k : Nat) (b : List Byte) : (m.journal k b).exch = m.exch := rfl
@[simp] theorem journal_clus (m : Mod) (k : Nat) (b : List Byte) : (m.journal k b).clus = m.clus := rfl
@[simp] theorem journal_eth (m : Mod) (k : Nat) (b : List Byte) : (m.journal k b).eth = m.eth := rfl
@[simp] theorem journal_dma (m : Mod) (k : Nat) (b : List Byte) : (m.journal k b).dma = m.dma := rfl
@[simp] theorem journal_kop (m : Mod) (k : Nat) (b : List Byte) : (m.journal k b).kop = m.kop := rfl
@[simp] theorem journal_sec (m : Mod) (k : Nat) (b : List Byte) : (m.journal k b).sec = m.sec := rfl
@[simp] theorem journal_tst (m : Mod) (k : Nat) (b : List Byte) : (m.journal k b).tst = m.tst := rfl
@[simp] theorem journal_free (m : Mod) (k : Nat) (b : List Byte) : (m.journal k b).free = m.free := rfl
@[simp] theorem tap_grid (m : Mod) (o : BitVec 8) (b : Bool) : (m.tap o b).grid = m.grid := rfl
@[simp] theorem tap_cord (m : Mod) (o : BitVec 8) (b : Bool) : (m.tap o b).cord = m.cord := rfl
@[simp] theorem tap_tick (m : Mod) (o : BitVec 8) (b : Bool) : (m.tap o b).tick = m.tick := rfl
@[simp] theorem tap_pow (m : Mod) (o : BitVec 8) (b : Bool) : (m.tap o b).pow = m.pow := rfl
@[simp] theorem tap_flt (m : Mod) (o : BitVec 8) (b : Bool) : (m.tap o b).flt = m.flt := rfl
@[simp] theorem tap_rem (m : Mod) (o : BitVec 8) (b : Bool) : (m.tap o b).rem = m.rem := rfl
@[simp] theorem tap_dieN (m : Mod) (o : BitVec 8) (b : Bool) : (m.tap o b).dieN = m.dieN := rfl
@[simp] theorem tap_dieS (m : Mod) (o : BitVec 8) (b : Bool) : (m.tap o b).dieS = m.dieS := rfl
@[simp] theorem tap_cross (m : Mod) (o : BitVec 8) (b : Bool) : (m.tap o b).cross = m.cross := rfl
@[simp] theorem tap_log (m : Mod) (o : BitVec 8) (b : Bool) : (m.tap o b).log = m.log := rfl
@[simp] theorem tap_hbm (m : Mod) (o : BitVec 8) (b : Bool) : (m.tap o b).hbm = m.hbm := rfl
@[simp] theorem tap_peat (m : Mod) (o : BitVec 8) (b : Bool) : (m.tap o b).peat = m.peat := rfl
@[simp] theorem tap_train (m : Mod) (o : BitVec 8) (b : Bool) : (m.tap o b).train = m.train := rfl
@[simp] theorem tap_exch (m : Mod) (o : BitVec 8) (b : Bool) : (m.tap o b).exch = m.exch := rfl
@[simp] theorem tap_clus (m : Mod) (o : BitVec 8) (b : Bool) : (m.tap o b).clus = m.clus := rfl
@[simp] theorem tap_eth (m : Mod) (o : BitVec 8) (b : Bool) : (m.tap o b).eth = m.eth := rfl
@[simp] theorem tap_dma (m : Mod) (o : BitVec 8) (b : Bool) : (m.tap o b).dma = m.dma := rfl
@[simp] theorem tap_kop (m : Mod) (o : BitVec 8) (b : Bool) : (m.tap o b).kop = m.kop := rfl
@[simp] theorem tap_sec (m : Mod) (o : BitVec 8) (b : Bool) : (m.tap o b).sec = m.sec := rfl
@[simp] theorem tap_free (m : Mod) (o : BitVec 8) (b : Bool) : (m.tap o b).free = m.free := rfl
@[simp] theorem hbmPut_grid (m : Mod) (a : Nat) (b : List Byte) : (m.hbmPut a b).grid = m.grid := rfl
@[simp] theorem hbmPut_cord (m : Mod) (a : Nat) (b : List Byte) : (m.hbmPut a b).cord = m.cord := rfl
@[simp] theorem hbmPut_tick (m : Mod) (a : Nat) (b : List Byte) : (m.hbmPut a b).tick = m.tick := rfl
@[simp] theorem hbmPut_pow (m : Mod) (a : Nat) (b : List Byte) : (m.hbmPut a b).pow = m.pow := rfl
@[simp] theorem hbmPut_flt (m : Mod) (a : Nat) (b : List Byte) : (m.hbmPut a b).flt = m.flt := rfl
@[simp] theorem hbmPut_rem (m : Mod) (a : Nat) (b : List Byte) : (m.hbmPut a b).rem = m.rem := rfl
@[simp] theorem hbmPut_dieN (m : Mod) (a : Nat) (b : List Byte) : (m.hbmPut a b).dieN = m.dieN := rfl
@[simp] theorem hbmPut_dieS (m : Mod) (a : Nat) (b : List Byte) : (m.hbmPut a b).dieS = m.dieS := rfl
@[simp] theorem hbmPut_cross (m : Mod) (a : Nat) (b : List Byte) : (m.hbmPut a b).cross = m.cross := rfl
@[simp] theorem hbmPut_log (m : Mod) (a : Nat) (b : List Byte) : (m.hbmPut a b).log = m.log := rfl
@[simp] theorem hbmPut_peat (m : Mod) (a : Nat) (b : List Byte) : (m.hbmPut a b).peat = m.peat := rfl
@[simp] theorem hbmPut_train (m : Mod) (a : Nat) (b : List Byte) : (m.hbmPut a b).train = m.train := rfl
@[simp] theorem hbmPut_exch (m : Mod) (a : Nat) (b : List Byte) : (m.hbmPut a b).exch = m.exch := rfl
@[simp] theorem hbmPut_clus (m : Mod) (a : Nat) (b : List Byte) : (m.hbmPut a b).clus = m.clus := rfl
@[simp] theorem hbmPut_eth (m : Mod) (a : Nat) (b : List Byte) : (m.hbmPut a b).eth = m.eth := rfl
@[simp] theorem hbmPut_dma (m : Mod) (a : Nat) (b : List Byte) : (m.hbmPut a b).dma = m.dma := rfl
@[simp] theorem hbmPut_kop (m : Mod) (a : Nat) (b : List Byte) : (m.hbmPut a b).kop = m.kop := rfl
@[simp] theorem hbmPut_sec (m : Mod) (a : Nat) (b : List Byte) : (m.hbmPut a b).sec = m.sec := rfl
@[simp] theorem hbmPut_tst (m : Mod) (a : Nat) (b : List Byte) : (m.hbmPut a b).tst = m.tst := rfl
@[simp] theorem hbmPut_free (m : Mod) (a : Nat) (b : List Byte) : (m.hbmPut a b).free = m.free := rfl
@[simp] theorem draw_grid (m : Mod) (n : Nat) : (m.draw n).2.grid = m.grid := rfl
@[simp] theorem draw_cord (m : Mod) (n : Nat) : (m.draw n).2.cord = m.cord := rfl
@[simp] theorem draw_tick (m : Mod) (n : Nat) : (m.draw n).2.tick = m.tick := rfl
@[simp] theorem draw_pow (m : Mod) (n : Nat) : (m.draw n).2.pow = m.pow := rfl
@[simp] theorem draw_flt (m : Mod) (n : Nat) : (m.draw n).2.flt = m.flt := rfl
@[simp] theorem draw_rem (m : Mod) (n : Nat) : (m.draw n).2.rem = m.rem := rfl
@[simp] theorem draw_dieN (m : Mod) (n : Nat) : (m.draw n).2.dieN = m.dieN := rfl
@[simp] theorem draw_dieS (m : Mod) (n : Nat) : (m.draw n).2.dieS = m.dieS := rfl
@[simp] theorem draw_cross (m : Mod) (n : Nat) : (m.draw n).2.cross = m.cross := rfl
@[simp] theorem draw_log (m : Mod) (n : Nat) : (m.draw n).2.log = m.log := rfl
@[simp] theorem draw_hbm (m : Mod) (n : Nat) : (m.draw n).2.hbm = m.hbm := rfl
@[simp] theorem draw_peat (m : Mod) (n : Nat) : (m.draw n).2.peat = m.peat := rfl
@[simp] theorem draw_train (m : Mod) (n : Nat) : (m.draw n).2.train = m.train := rfl
@[simp] theorem draw_exch (m : Mod) (n : Nat) : (m.draw n).2.exch = m.exch := rfl
@[simp] theorem draw_clus (m : Mod) (n : Nat) : (m.draw n).2.clus = m.clus := rfl
@[simp] theorem draw_eth (m : Mod) (n : Nat) : (m.draw n).2.eth = m.eth := rfl
@[simp] theorem draw_dma (m : Mod) (n : Nat) : (m.draw n).2.dma = m.dma := rfl
@[simp] theorem draw_kop (m : Mod) (n : Nat) : (m.draw n).2.kop = m.kop := rfl
@[simp] theorem draw_sec (m : Mod) (n : Nat) : (m.draw n).2.sec = m.sec := rfl
@[simp] theorem draw_tst (m : Mod) (n : Nat) : (m.draw n).2.tst = m.tst := rfl
@[simp] theorem openVal_grid (m : Mod) : (m.openVal).2.grid = m.grid := rfl
@[simp] theorem openVal_cord (m : Mod) : (m.openVal).2.cord = m.cord := rfl
@[simp] theorem openVal_tick (m : Mod) : (m.openVal).2.tick = m.tick := rfl
@[simp] theorem openVal_pow (m : Mod) : (m.openVal).2.pow = m.pow := rfl
@[simp] theorem openVal_flt (m : Mod) : (m.openVal).2.flt = m.flt := rfl
@[simp] theorem openVal_rem (m : Mod) : (m.openVal).2.rem = m.rem := rfl
@[simp] theorem openVal_dieN (m : Mod) : (m.openVal).2.dieN = m.dieN := rfl
@[simp] theorem openVal_dieS (m : Mod) : (m.openVal).2.dieS = m.dieS := rfl
@[simp] theorem openVal_cross (m : Mod) : (m.openVal).2.cross = m.cross := rfl
@[simp] theorem openVal_log (m : Mod) : (m.openVal).2.log = m.log := rfl
@[simp] theorem openVal_hbm (m : Mod) : (m.openVal).2.hbm = m.hbm := rfl
@[simp] theorem openVal_peat (m : Mod) : (m.openVal).2.peat = m.peat := rfl
@[simp] theorem openVal_train (m : Mod) : (m.openVal).2.train = m.train := rfl
@[simp] theorem openVal_exch (m : Mod) : (m.openVal).2.exch = m.exch := rfl
@[simp] theorem openVal_clus (m : Mod) : (m.openVal).2.clus = m.clus := rfl
@[simp] theorem openVal_eth (m : Mod) : (m.openVal).2.eth = m.eth := rfl
@[simp] theorem openVal_dma (m : Mod) : (m.openVal).2.dma = m.dma := rfl
@[simp] theorem openVal_kop (m : Mod) : (m.openVal).2.kop = m.kop := rfl
@[simp] theorem openVal_sec (m : Mod) : (m.openVal).2.sec = m.sec := rfl
@[simp] theorem openVal_tst (m : Mod) : (m.openVal).2.tst = m.tst := rfl
theorem draw_lt (m : Mod) (n : Nat) : (m.draw n).1 < 2 ^ n := Nat.mod_lt _ (Nat.two_pow_pos n)

/-- A packet that leaves or waits changes those two lists alone. -/
theorem ethOut_only (e : EthSt) (p : Pkt) : ∃ l h, e.out p = { e with link := l, held := h } := by
  unfold EthSt.out
  split
  · exact ⟨_, _, rfl⟩
  · exact ⟨_, _, rfl⟩

/-- A packet to an address changes what has left, what waits and what was asked for alone. -/
theorem ethSendIp_only (e : EthSt) (a : BitVec 128) (p : Pkt) :
    ∃ l h q, e.sendIp a p = { e with link := l, held := h, asked := q } := by
  unfold EthSt.sendIp
  split
  · exact ⟨_, _, _, rfl⟩
  · rename_i n _
    obtain ⟨l, h, q, hr⟩ : ∃ l h q, e.resolve p.iface n = { e with link := l, held := h, asked := q } := by
      unfold EthSt.resolve
      split
      · exact ⟨_, _, _, rfl⟩
      · obtain ⟨l, h, ho⟩ := ethOut_only { e with asked := e.asked ++ [(p.iface, n)] } (e.pkt p.iface 3 (.frame p.iface (e.askFrame p.iface n)))
        exact ⟨l, h, _, ho⟩
    obtain ⟨l', h', ho⟩ := ethOut_only (e.resolve p.iface n) { p with dst := a, next := n }
    exact ⟨l', h', q, by rw [ho, hr]⟩

/-- A packet of a context does the same. -/
theorem ethOnPath_only (e : EthSt) (c cls part path : Nat) (t : Tx) :
    ∃ l h q, e.onPath c cls part path t = { e with link := l, held := h, asked := q } := by
  unfold EthSt.onPath
  dsimp only
  split
  · exact ⟨_, _, _, rfl⟩
  · exact ethSendIp_only _ _ _

/-- What the module hands out joins the wire; else only what has left, what waits and what was asked for change. -/
theorem ethPut_only (e : EthSt) (k : Nat × BitVec 128 × Nat) (t : Tx) :
    ∃ l h q, e.put k t = { e with wire := e.wire ++ [t], link := l, held := h, asked := q } := by
  unfold EthSt.put
  cases t <;> dsimp only
  all_goals first
    | exact ⟨_, _, _, rfl⟩
    | exact ethSendIp_only _ _ _
    | exact ethOnPath_only _ _ _ _ _ _
    | (obtain ⟨l, h, ho⟩ := ethOut_only { e with wire := e.wire ++ [t] } _
       exact ⟨l, h, _, ho⟩)
    | skip
  all_goals first
    | (split
       · obtain ⟨l, h, ho⟩ := ethOut_only { e with wire := e.wire ++ [_] } _
         exact ⟨l, h, _, ho⟩
       · exact ⟨_, _, _, rfl⟩)
    | (obtain ⟨l, h, ho⟩ := ethOut_only { e with wire := e.wire ++ [_] } _
       exact ⟨l, h, _, ho⟩)

@[simp] theorem put_wire (m : Mod) (t : Tx) : (m.put t).eth.wire = m.eth.wire ++ [t] := by
  obtain ⟨l, h, q, e⟩ := ethPut_only m.eth (m.kopTo t) t
  simp [Mod.put, e]
@[simp] theorem put_qps (m : Mod) (t : Tx) : (m.put t).eth.qps = m.eth.qps := by
  obtain ⟨l, h, q, e⟩ := ethPut_only m.eth (m.kopTo t) t
  simp [Mod.put, e]
@[simp] theorem put_ports (m : Mod) (t : Tx) : (m.put t).eth.ports = m.eth.ports := by
  obtain ⟨l, h, q, e⟩ := ethPut_only m.eth (m.kopTo t) t
  simp [Mod.put, e]
@[simp] theorem put_ifs (m : Mod) (t : Tx) : (m.put t).eth.ifs = m.eth.ifs := by
  obtain ⟨l, h, q, e⟩ := ethPut_only m.eth (m.kopTo t) t
  simp [Mod.put, e]

end Sys2Proof.Machine
end

