-- ==== Sys2Proof/Laws/Hub.lean ====
section
/-! SUPPORT. Laws of the Hub's shared operations: what an originated PDU, an event, a response and a command's outcome leave alone. -/

namespace Sys2Proof.Machine

/-- What every step of a fold keeps, the fold keeps. -/
theorem foldl_keeps {α β γ : Type} (g : β → γ) (f : β → α → β) (h : ∀ b a, g (f b a) = g b) (l : List α) :
    ∀ b, g (l.foldl f b) = g b := by
  induction l with
  | nil => intro b; rfl
  | cons a l ih => intro b; rw [List.foldl_cons, ih, h]

/-- A property that every step of a fold keeps holds at its end. -/
theorem foldl_holds {α β : Type} (P : β → Prop) (f : β → α → β) (h : ∀ b a, P b → P (f b a)) (l : List α) :
    ∀ b, P b → P (l.foldl f b) := by
  induction l with
  | nil => intro b hb; exact hb
  | cons a l ih => intro b hb; exact ih _ (h b a hb)

@[simp] theorem originate_grid (m : Mod) (s op st dt : Nat) (sub : Option Nat) (v : List Byte) (i : Nat) :
    (m.originate s op st dt sub v i).grid = m.grid := rfl
@[simp] theorem originate_cord (m : Mod) (s op st dt : Nat) (sub : Option Nat) (v : List Byte) (i : Nat) :
    (m.originate s op st dt sub v i).cord = m.cord := rfl
@[simp] theorem originate_tick (m : Mod) (s op st dt : Nat) (sub : Option Nat) (v : List Byte) (i : Nat) :
    (m.originate s op st dt sub v i).tick = m.tick := rfl
@[simp] theorem originate_pow (m : Mod) (s op st dt : Nat) (sub : Option Nat) (v : List Byte) (i : Nat) :
    (m.originate s op st dt sub v i).pow = m.pow := rfl
@[simp] theorem originate_flt (m : Mod) (s op st dt : Nat) (sub : Option Nat) (v : List Byte) (i : Nat) :
    (m.originate s op st dt sub v i).flt = m.flt := rfl
@[simp] theorem originate_rem (m : Mod) (s op st dt : Nat) (sub : Option Nat) (v : List Byte) (i : Nat) :
    (m.originate s op st dt sub v i).rem = m.rem := rfl
@[simp] theorem originate_dieN (m : Mod) (s op st dt : Nat) (sub : Option Nat) (v : List Byte) (i : Nat) :
    (m.originate s op st dt sub v i).dieN = m.dieN := rfl
@[simp] theorem originate_dieS (m : Mod) (s op st dt : Nat) (sub : Option Nat) (v : List Byte) (i : Nat) :
    (m.originate s op st dt sub v i).dieS = m.dieS := rfl
@[simp] theorem originate_cross (m : Mod) (s op st dt : Nat) (sub : Option Nat) (v : List Byte) (i : Nat) :
    (m.originate s op st dt sub v i).cross = m.cross := rfl
@[simp] theorem originate_log (m : Mod) (s op st dt : Nat) (sub : Option Nat) (v : List Byte) (i : Nat) :
    (m.originate s op st dt sub v i).log = m.log := rfl
@[simp] theorem originate_hbm (m : Mod) (s op st dt : Nat) (sub : Option Nat) (v : List Byte) (i : Nat) :
    (m.originate s op st dt sub v i).hbm = m.hbm := rfl
@[simp] theorem originate_peat (m : Mod) (s op st dt : Nat) (sub : Option Nat) (v : List Byte) (i : Nat) :
    (m.originate s op st dt sub v i).peat = m.peat := rfl
@[simp] theorem originate_train (m : Mod) (s op st dt : Nat) (sub : Option Nat) (v : List Byte) (i : Nat) :
    (m.originate s op st dt sub v i).train = m.train := rfl
@[simp] theorem originate_exch (m : Mod) (s op st dt : Nat) (sub : Option Nat) (v : List Byte) (i : Nat) :
    (m.originate s op st dt sub v i).exch = m.exch := rfl
@[simp] theorem originate_clus (m : Mod) (s op st dt : Nat) (sub : Option Nat) (v : List Byte) (i : Nat) :
    (m.originate s op st dt sub v i).clus = m.clus := rfl
@[simp] theorem originate_dma (m : Mod) (s op st dt : Nat) (sub : Option Nat) (v : List Byte) (i : Nat) :
    (m.originate s op st dt sub v i).dma = m.dma := rfl
@[simp] theorem originate_sec (m : Mod) (s op st dt : Nat) (sub : Option Nat) (v : List Byte) (i : Nat) :
    (m.originate s op st dt sub v i).sec = m.sec := rfl
@[simp] theorem originate_tst (m : Mod) (s op st dt : Nat) (sub : Option Nat) (v : List Byte) (i : Nat) :
    (m.originate s op st dt sub v i).tst = m.tst := rfl
@[simp] theorem originate_free (m : Mod) (s op st dt : Nat) (sub : Option Nat) (v : List Byte) (i : Nat) :
    (m.originate s op st dt sub v i).free = m.free := rfl

@[simp] theorem notifyEvent_grid (m : Mod) (s : Nat) (e : EvRec) : (m.notifyEvent s e).grid = m.grid := by
  unfold Mod.notifyEvent
  refine foldl_keeps (fun x : Mod => x.grid) _ (fun b u => ?_) _ _
  dsimp only; split <;> rfl
@[simp] theorem notifyEvent_cord (m : Mod) (s : Nat) (e : EvRec) : (m.notifyEvent s e).cord = m.cord := by
  unfold Mod.notifyEvent
  refine foldl_keeps (fun x : Mod => x.cord) _ (fun b u => ?_) _ _
  dsimp only; split <;> rfl
@[simp] theorem notifyEvent_tick (m : Mod) (s : Nat) (e : EvRec) : (m.notifyEvent s e).tick = m.tick := by
  unfold Mod.notifyEvent
  refine foldl_keeps (fun x : Mod => x.tick) _ (fun b u => ?_) _ _
  dsimp only; split <;> rfl
@[simp] theorem notifyEvent_pow (m : Mod) (s : Nat) (e : EvRec) : (m.notifyEvent s e).pow = m.pow := by
  unfold Mod.notifyEvent
  refine foldl_keeps (fun x : Mod => x.pow) _ (fun b u => ?_) _ _
  dsimp only; split <;> rfl
@[simp] theorem notifyEvent_flt (m : Mod) (s : Nat) (e : EvRec) : (m.notifyEvent s e).flt = m.flt := by
  unfold Mod.notifyEvent
  refine foldl_keeps (fun x : Mod => x.flt) _ (fun b u => ?_) _ _
  dsimp only; split <;> rfl
@[simp] theorem notifyEvent_rem (m : Mod) (s : Nat) (e : EvRec) : (m.notifyEvent s e).rem = m.rem := by
  unfold Mod.notifyEvent
  refine foldl_keeps (fun x : Mod => x.rem) _ (fun b u => ?_) _ _
  dsimp only; split <;> rfl
@[simp] theorem notifyEvent_dieN (m : Mod) (s : Nat) (e : EvRec) : (m.notifyEvent s e).dieN = m.dieN := by
  unfold Mod.notifyEvent
  refine foldl_keeps (fun x : Mod => x.dieN) _ (fun b u => ?_) _ _
  dsimp only; split <;> rfl
@[simp] theorem notifyEvent_dieS (m : Mod) (s : Nat) (e : EvRec) : (m.notifyEvent s e).dieS = m.dieS := by
  unfold Mod.notifyEvent
  refine foldl_keeps (fun x : Mod => x.dieS) _ (fun b u => ?_) _ _
  dsimp only; split <;> rfl
@[simp] theorem notifyEvent_cross (m : Mod) (s : Nat) (e : EvRec) : (m.notifyEvent s e).cross = m.cross := by
  unfold Mod.notifyEvent
  refine foldl_keeps (fun x : Mod => x.cross) _ (fun b u => ?_) _ _
  dsimp only; split <;> rfl
@[simp] theorem notifyEvent_log (m : Mod) (s : Nat) (e : EvRec) : (m.notifyEvent s e).log = m.log := by
  unfold Mod.notifyEvent
  refine foldl_keeps (fun x : Mod => x.log) _ (fun b u => ?_) _ _
  dsimp only; split <;> rfl
@[simp] theorem notifyEvent_hbm (m : Mod) (s : Nat) (e : EvRec) : (m.notifyEvent s e).hbm = m.hbm := by
  unfold Mod.notifyEvent
  refine foldl_keeps (fun x : Mod => x.hbm) _ (fun b u => ?_) _ _
  dsimp only; split <;> rfl
@[simp] theorem notifyEvent_peat (m : Mod) (s : Nat) (e : EvRec) : (m.notifyEvent s e).peat = m.peat := by
  unfold Mod.notifyEvent
  refine foldl_keeps (fun x : Mod => x.peat) _ (fun b u => ?_) _ _
  dsimp only; split <;> rfl
@[simp] theorem notifyEvent_train (m : Mod) (s : Nat) (e : EvRec) : (m.notifyEvent s e).train = m.train := by
  unfold Mod.notifyEvent
  refine foldl_keeps (fun x : Mod => x.train) _ (fun b u => ?_) _ _
  dsimp only; split <;> rfl
@[simp] theorem notifyEvent_exch (m : Mod) (s : Nat) (e : EvRec) : (m.notifyEvent s e).exch = m.exch := by
  unfold Mod.notifyEvent
  refine foldl_keeps (fun x : Mod => x.exch) _ (fun b u => ?_) _ _
  dsimp only; split <;> rfl
@[simp] theorem notifyEvent_clus (m : Mod) (s : Nat) (e : EvRec) : (m.notifyEvent s e).clus = m.clus := by
  unfold Mod.notifyEvent
  refine foldl_keeps (fun x : Mod => x.clus) _ (fun b u => ?_) _ _
  dsimp only; split <;> rfl
@[simp] theorem notifyEvent_dma (m : Mod) (s : Nat) (e : EvRec) : (m.notifyEvent s e).dma = m.dma := by
  unfold Mod.notifyEvent
  refine foldl_keeps (fun x : Mod => x.dma) _ (fun b u => ?_) _ _
  dsimp only; split <;> rfl
@[simp] theorem notifyEvent_sec (m : Mod) (s : Nat) (e : EvRec) : (m.notifyEvent s e).sec = m.sec := by
  unfold Mod.notifyEvent
  refine foldl_keeps (fun x : Mod => x.sec) _ (fun b u => ?_) _ _
  dsimp only; split <;> rfl
@[simp] theorem notifyEvent_tst (m : Mod) (s : Nat) (e : EvRec) : (m.notifyEvent s e).tst = m.tst := by
  unfold Mod.notifyEvent
  refine foldl_keeps (fun x : Mod => x.tst) _ (fun b u => ?_) _ _
  dsimp only; split <;> rfl
@[simp] theorem notifyEvent_free (m : Mod) (s : Nat) (e : EvRec) : (m.notifyEvent s e).free = m.free := by
  unfold Mod.notifyEvent
  refine foldl_keeps (fun x : Mod => x.free) _ (fun b u => ?_) _ _
  dsimp only; split <;> rfl

/-- The notices of an event. -/
def Mod.notifyAll (m : Mod) (e : EvRec) (l : Tbl KSess) : Mod := l.foldl (fun m p => m.notifyEvent p.1 e) m

@[simp] theorem notifyAll_grid (m : Mod) (e : EvRec) (l : Tbl KSess) : (m.notifyAll e l).grid = m.grid := by
  unfold Mod.notifyAll
  induction l generalizing m with
  | nil => rfl
  | cons p l ih => rw [List.foldl_cons, ih, notifyEvent_grid]
@[simp] theorem notifyAll_cord (m : Mod) (e : EvRec) (l : Tbl KSess) : (m.notifyAll e l).cord = m.cord := by
  unfold Mod.notifyAll
  induction l generalizing m with
  | nil => rfl
  | cons p l ih => rw [List.foldl_cons, ih, notifyEvent_cord]
@[simp] theorem notifyAll_tick (m : Mod) (e : EvRec) (l : Tbl KSess) : (m.notifyAll e l).tick = m.tick := by
  unfold Mod.notifyAll
  induction l generalizing m with
  | nil => rfl
  | cons p l ih => rw [List.foldl_cons, ih, notifyEvent_tick]
@[simp] theorem notifyAll_pow (m : Mod) (e : EvRec) (l : Tbl KSess) : (m.notifyAll e l).pow = m.pow := by
  unfold Mod.notifyAll
  induction l generalizing m with
  | nil => rfl
  | cons p l ih => rw [List.foldl_cons, ih, notifyEvent_pow]
@[simp] theorem notifyAll_flt (m : Mod) (e : EvRec) (l : Tbl KSess) : (m.notifyAll e l).flt = m.flt := by
  unfold Mod.notifyAll
  induction l generalizing m with
  | nil => rfl
  | cons p l ih => rw [List.foldl_cons, ih, notifyEvent_flt]
@[simp] theorem notifyAll_rem (m : Mod) (e : EvRec) (l : Tbl KSess) : (m.notifyAll e l).rem = m.rem := by
  unfold Mod.notifyAll
  induction l generalizing m with
  | nil => rfl
  | cons p l ih => rw [List.foldl_cons, ih, notifyEvent_rem]
@[simp] theorem notifyAll_dieN (m : Mod) (e : EvRec) (l : Tbl KSess) : (m.notifyAll e l).dieN = m.dieN := by
  unfold Mod.notifyAll
  induction l generalizing m with
  | nil => rfl
  | cons p l ih => rw [List.foldl_cons, ih, notifyEvent_dieN]
@[simp] theorem notifyAll_dieS (m : Mod) (e : EvRec) (l : Tbl KSess) : (m.notifyAll e l).dieS = m.dieS := by
  unfold Mod.notifyAll
  induction l generalizing m with
  | nil => rfl
  | cons p l ih => rw [List.foldl_cons, ih, notifyEvent_dieS]
@[simp] theorem notifyAll_cross (m : Mod) (e : EvRec) (l : Tbl KSess) : (m.notifyAll e l).cross = m.cross := by
  unfold Mod.notifyAll
  induction l generalizing m with
  | nil => rfl
  | cons p l ih => rw [List.foldl_cons, ih, notifyEvent_cross]
@[simp] theorem notifyAll_log (m : Mod) (e : EvRec) (l : Tbl KSess) : (m.notifyAll e l).log = m.log := by
  unfold Mod.notifyAll
  induction l generalizing m with
  | nil => rfl
  | cons p l ih => rw [List.foldl_cons, ih, notifyEvent_log]
@[simp] theorem notifyAll_hbm (m : Mod) (e : EvRec) (l : Tbl KSess) : (m.notifyAll e l).hbm = m.hbm := by
  unfold Mod.notifyAll
  induction l generalizing m with
  | nil => rfl
  | cons p l ih => rw [List.foldl_cons, ih, notifyEvent_hbm]
@[simp] theorem notifyAll_peat (m : Mod) (e : EvRec) (l : Tbl KSess) : (m.notifyAll e l).peat = m.peat := by
  unfold Mod.notifyAll
  induction l generalizing m with
  | nil => rfl
  | cons p l ih => rw [List.foldl_cons, ih, notifyEvent_peat]
@[simp] theorem notifyAll_train (m : Mod) (e : EvRec) (l : Tbl KSess) : (m.notifyAll e l).train = m.train := by
  unfold Mod.notifyAll
  induction l generalizing m with
  | nil => rfl
  | cons p l ih => rw [List.foldl_cons, ih, notifyEvent_train]
@[simp] theorem notifyAll_exch (m : Mod) (e : EvRec) (l : Tbl KSess) : (m.notifyAll e l).exch = m.exch := by
  unfold Mod.notifyAll
  induction l generalizing m with
  | nil => rfl
  | cons p l ih => rw [List.foldl_cons, ih, notifyEvent_exch]
@[simp] theorem notifyAll_clus (m : Mod) (e : EvRec) (l : Tbl KSess) : (m.notifyAll e l).clus = m.clus := by
  unfold Mod.notifyAll
  induction l generalizing m with
  | nil => rfl
  | cons p l ih => rw [List.foldl_cons, ih, notifyEvent_clus]
@[simp] theorem notifyAll_dma (m : Mod) (e : EvRec) (l : Tbl KSess) : (m.notifyAll e l).dma = m.dma := by
  unfold Mod.notifyAll
  induction l generalizing m with
  | nil => rfl
  | cons p l ih => rw [List.foldl_cons, ih, notifyEvent_dma]
@[simp] theorem notifyAll_sec (m : Mod) (e : EvRec) (l : Tbl KSess) : (m.notifyAll e l).sec = m.sec := by
  unfold Mod.notifyAll
  induction l generalizing m with
  | nil => rfl
  | cons p l ih => rw [List.foldl_cons, ih, notifyEvent_sec]
@[simp] theorem notifyAll_tst (m : Mod) (e : EvRec) (l : Tbl KSess) : (m.notifyAll e l).tst = m.tst := by
  unfold Mod.notifyAll
  induction l generalizing m with
  | nil => rfl
  | cons p l ih => rw [List.foldl_cons, ih, notifyEvent_tst]
@[simp] theorem notifyAll_free (m : Mod) (e : EvRec) (l : Tbl KSess) : (m.notifyAll e l).free = m.free := by
  unfold Mod.notifyAll
  induction l generalizing m with
  | nil => rfl
  | cons p l ih => rw [List.foldl_cons, ih, notifyEvent_free]

/-- An event is its log entry, its journal record and its notices. -/
theorem event_eq (m : Mod) (c a b : Nat) : ∃ (n : LogSt) (r : PowSt) (e : EvRec),
    m.event c a b = Mod.notifyAll { m with log := n, pow := r } e m.kop.sess ∧ n.next = m.log.next + 1 ∧
      r.state = m.pow.state ∧ r.collier = m.pow.collier := by
  unfold Mod.event
  dsimp only
  split
  · exact ⟨_, _, _, rfl, rfl, rfl, rfl⟩
  · exact ⟨_, m.pow, _, rfl, rfl, rfl, rfl⟩

@[simp] theorem event_grid (m : Mod) (c a b : Nat) : (m.event c a b).grid = m.grid := by
  obtain ⟨n, r, e, h, -⟩ := event_eq m c a b; rw [h, notifyAll_grid]
@[simp] theorem event_cord (m : Mod) (c a b : Nat) : (m.event c a b).cord = m.cord := by
  obtain ⟨n, r, e, h, -⟩ := event_eq m c a b; rw [h, notifyAll_cord]
@[simp] theorem event_tick (m : Mod) (c a b : Nat) : (m.event c a b).tick = m.tick := by
  obtain ⟨n, r, e, h, -⟩ := event_eq m c a b; rw [h, notifyAll_tick]
@[simp] theorem event_flt (m : Mod) (c a b : Nat) : (m.event c a b).flt = m.flt := by
  obtain ⟨n, r, e, h, -⟩ := event_eq m c a b; rw [h, notifyAll_flt]
@[simp] theorem event_rem (m : Mod) (c a b : Nat) : (m.event c a b).rem = m.rem := by
  obtain ⟨n, r, e, h, -⟩ := event_eq m c a b; rw [h, notifyAll_rem]
@[simp] theorem event_dieN (m : Mod) (c a b : Nat) : (m.event c a b).dieN = m.dieN := by
  obtain ⟨n, r, e, h, -⟩ := event_eq m c a b; rw [h, notifyAll_dieN]
@[simp] theorem event_dieS (m : Mod) (c a b : Nat) : (m.event c a b).dieS = m.dieS := by
  obtain ⟨n, r, e, h, -⟩ := event_eq m c a b; rw [h, notifyAll_dieS]
@[simp] theorem event_cross (m : Mod) (c a b : Nat) : (m.event c a b).cross = m.cross := by
  obtain ⟨n, r, e, h, -⟩ := event_eq m c a b; rw [h, notifyAll_cross]
@[simp] theorem event_hbm (m : Mod) (c a b : Nat) : (m.event c a b).hbm = m.hbm := by
  obtain ⟨n, r, e, h, -⟩ := event_eq m c a b; rw [h, notifyAll_hbm]
@[simp] theorem event_peat (m : Mod) (c a b : Nat) : (m.event c a b).peat = m.peat := by
  obtain ⟨n, r, e, h, -⟩ := event_eq m c a b; rw [h, notifyAll_peat]
@[simp] theorem event_train (m : Mod) (c a b : Nat) : (m.event c a b).train = m.train := by
  obtain ⟨n, r, e, h, -⟩ := event_eq m c a b; rw [h, notifyAll_train]
@[simp] theorem event_exch (m : Mod) (c a b : Nat) : (m.event c a b).exch = m.exch := by
  obtain ⟨n, r, e, h, -⟩ := event_eq m c a b; rw [h, notifyAll_exch]
@[simp] theorem event_clus (m : Mod) (c a b : Nat) : (m.event c a b).clus = m.clus := by
  obtain ⟨n, r, e, h, -⟩ := event_eq m c a b; rw [h, notifyAll_clus]
@[simp] theorem event_dma (m : Mod) (c a b : Nat) : (m.event c a b).dma = m.dma := by
  obtain ⟨n, r, e, h, -⟩ := event_eq m c a b; rw [h, notifyAll_dma]
@[simp] theorem event_sec (m : Mod) (c a b : Nat) : (m.event c a b).sec = m.sec := by
  obtain ⟨n, r, e, h, -⟩ := event_eq m c a b; rw [h, notifyAll_sec]
@[simp] theorem event_tst (m : Mod) (c a b : Nat) : (m.event c a b).tst = m.tst := by
  obtain ⟨n, r, e, h, -⟩ := event_eq m c a b; rw [h, notifyAll_tst]
@[simp] theorem event_free (m : Mod) (c a b : Nat) : (m.event c a b).free = m.free := by
  obtain ⟨n, r, e, h, -⟩ := event_eq m c a b; rw [h, notifyAll_free]
@[simp] theorem event_next (m : Mod) (c a b : Nat) : (m.event c a b).log.next = m.log.next + 1 := by
  obtain ⟨n, r, e, h, hn, -⟩ := event_eq m c a b; rw [h, notifyAll_log, hn]
@[simp] theorem event_state (m : Mod) (c a b : Nat) : (m.event c a b).pow.state = m.pow.state := by
  obtain ⟨n, r, e, h, -, hs, -⟩ := event_eq m c a b; rw [h, notifyAll_pow, hs]
@[simp] theorem event_collier (m : Mod) (c a b : Nat) : (m.event c a b).pow.collier = m.pow.collier := by
  obtain ⟨n, r, e, h, -, -, hc⟩ := event_eq m c a b; rw [h, notifyAll_pow, hc]

@[simp] theorem respond_grid (m : Mod) (s : Nat) (p : Pdu) (st dt : Nat) (v : List Byte) : (m.respond s p st dt v).grid = m.grid := by
  unfold Mod.respond; dsimp only; split <;> rfl
@[simp] theorem respond_cord (m : Mod) (s : Nat) (p : Pdu) (st dt : Nat) (v : List Byte) : (m.respond s p st dt v).cord = m.cord := by
  unfold Mod.respond; dsimp only; split <;> rfl
@[simp] theorem respond_tick (m : Mod) (s : Nat) (p : Pdu) (st dt : Nat) (v : List Byte) : (m.respond s p st dt v).tick = m.tick := by
  unfold Mod.respond; dsimp only; split <;> rfl
@[simp] theorem respond_pow (m : Mod) (s : Nat) (p : Pdu) (st dt : Nat) (v : List Byte) : (m.respond s p st dt v).pow = m.pow := by
  unfold Mod.respond; dsimp only; split <;> rfl
@[simp] theorem respond_flt (m : Mod) (s : Nat) (p : Pdu) (st dt : Nat) (v : List Byte) : (m.respond s p st dt v).flt = m.flt := by
  unfold Mod.respond; dsimp only; split <;> rfl
@[simp] theorem respond_rem (m : Mod) (s : Nat) (p : Pdu) (st dt : Nat) (v : List Byte) : (m.respond s p st dt v).rem = m.rem := by
  unfold Mod.respond; dsimp only; split <;> rfl
@[simp] theorem respond_dieN (m : Mod) (s : Nat) (p : Pdu) (st dt : Nat) (v : List Byte) : (m.respond s p st dt v).dieN = m.dieN := by
  unfold Mod.respond; dsimp only; split <;> rfl
@[simp] theorem respond_dieS (m : Mod) (s : Nat) (p : Pdu) (st dt : Nat) (v : List Byte) : (m.respond s p st dt v).dieS = m.dieS := by
  unfold Mod.respond; dsimp only; split <;> rfl
@[simp] theorem respond_cross (m : Mod) (s : Nat) (p : Pdu) (st dt : Nat) (v : List Byte) : (m.respond s p st dt v).cross = m.cross := by
  unfold Mod.respond; dsimp only; split <;> rfl
@[simp] theorem respond_log (m : Mod) (s : Nat) (p : Pdu) (st dt : Nat) (v : List Byte) : (m.respond s p st dt v).log = m.log := by
  unfold Mod.respond; dsimp only; split <;> rfl
@[simp] theorem respond_hbm (m : Mod) (s : Nat) (p : Pdu) (st dt : Nat) (v : List Byte) : (m.respond s p st dt v).hbm = m.hbm := by
  unfold Mod.respond; dsimp only; split <;> rfl
@[simp] theorem respond_peat (m : Mod) (s : Nat) (p : Pdu) (st dt : Nat) (v : List Byte) : (m.respond s p st dt v).peat = m.peat := by
  unfold Mod.respond; dsimp only; split <;> rfl
@[simp] theorem respond_train (m : Mod) (s : Nat) (p : Pdu) (st dt : Nat) (v : List Byte) : (m.respond s p st dt v).train = m.train := by
  unfold Mod.respond; dsimp only; split <;> rfl
@[simp] theorem respond_exch (m : Mod) (s : Nat) (p : Pdu) (st dt : Nat) (v : List Byte) : (m.respond s p st dt v).exch = m.exch := by
  unfold Mod.respond; dsimp only; split <;> rfl
@[simp] theorem respond_clus (m : Mod) (s : Nat) (p : Pdu) (st dt : Nat) (v : List Byte) : (m.respond s p st dt v).clus = m.clus := by
  unfold Mod.respond; dsimp only; split <;> rfl
@[simp] theorem respond_dma (m : Mod) (s : Nat) (p : Pdu) (st dt : Nat) (v : List Byte) : (m.respond s p st dt v).dma = m.dma := by
  unfold Mod.respond; dsimp only; split <;> rfl
@[simp] theorem respond_sec (m : Mod) (s : Nat) (p : Pdu) (st dt : Nat) (v : List Byte) : (m.respond s p st dt v).sec = m.sec := by
  unfold Mod.respond; dsimp only; split <;> rfl
@[simp] theorem respond_tst (m : Mod) (s : Nat) (p : Pdu) (st dt : Nat) (v : List Byte) : (m.respond s p st dt v).tst = m.tst := by
  unfold Mod.respond; dsimp only; split <;> rfl
@[simp] theorem respond_free (m : Mod) (s : Nat) (p : Pdu) (st dt : Nat) (v : List Byte) : (m.respond s p st dt v).free = m.free := by
  unfold Mod.respond; dsimp only; split <;> rfl
@[simp] theorem finish_grid (m : Mod) (i st dt : Nat) (v : List Byte) : (m.finish i st dt v).grid = m.grid := by
  unfold Mod.finish; dsimp only; split
  · rfl
  · split <;> rfl
@[simp] theorem finish_cord (m : Mod) (i st dt : Nat) (v : List Byte) : (m.finish i st dt v).cord = m.cord := by
  unfold Mod.finish; dsimp only; split
  · rfl
  · split <;> rfl
@[simp] theorem finish_tick (m : Mod) (i st dt : Nat) (v : List Byte) : (m.finish i st dt v).tick = m.tick := by
  unfold Mod.finish; dsimp only; split
  · rfl
  · split <;> rfl
@[simp] theorem finish_pow (m : Mod) (i st dt : Nat) (v : List Byte) : (m.finish i st dt v).pow = m.pow := by
  unfold Mod.finish; dsimp only; split
  · rfl
  · split <;> rfl
@[simp] theorem finish_flt (m : Mod) (i st dt : Nat) (v : List Byte) : (m.finish i st dt v).flt = m.flt := by
  unfold Mod.finish; dsimp only; split
  · rfl
  · split <;> rfl
@[simp] theorem finish_rem (m : Mod) (i st dt : Nat) (v : List Byte) : (m.finish i st dt v).rem = m.rem := by
  unfold Mod.finish; dsimp only; split
  · rfl
  · split <;> rfl
@[simp] theorem finish_dieN (m : Mod) (i st dt : Nat) (v : List Byte) : (m.finish i st dt v).dieN = m.dieN := by
  unfold Mod.finish; dsimp only; split
  · rfl
  · split <;> rfl
@[simp] theorem finish_dieS (m : Mod) (i st dt : Nat) (v : List Byte) : (m.finish i st dt v).dieS = m.dieS := by
  unfold Mod.finish; dsimp only; split
  · rfl
  · split <;> rfl
@[simp] theorem finish_cross (m : Mod) (i st dt : Nat) (v : List Byte) : (m.finish i st dt v).cross = m.cross := by
  unfold Mod.finish; dsimp only; split
  · rfl
  · split <;> rfl
@[simp] theorem finish_log (m : Mod) (i st dt : Nat) (v : List Byte) : (m.finish i st dt v).log = m.log := by
  unfold Mod.finish; dsimp only; split
  · rfl
  · split <;> rfl
@[simp] theorem finish_hbm (m : Mod) (i st dt : Nat) (v : List Byte) : (m.finish i st dt v).hbm = m.hbm := by
  unfold Mod.finish; dsimp only; split
  · rfl
  · split <;> rfl
@[simp] theorem finish_peat (m : Mod) (i st dt : Nat) (v : List Byte) : (m.finish i st dt v).peat = m.peat := by
  unfold Mod.finish; dsimp only; split
  · rfl
  · split <;> rfl
@[simp] theorem finish_train (m : Mod) (i st dt : Nat) (v : List Byte) : (m.finish i st dt v).train = m.train := by
  unfold Mod.finish; dsimp only; split
  · rfl
  · split <;> rfl
@[simp] theorem finish_exch (m : Mod) (i st dt : Nat) (v : List Byte) : (m.finish i st dt v).exch = m.exch := by
  unfold Mod.finish; dsimp only; split
  · rfl
  · split <;> rfl
@[simp] theorem finish_clus (m : Mod) (i st dt : Nat) (v : List Byte) : (m.finish i st dt v).clus = m.clus := by
  unfold Mod.finish; dsimp only; split
  · rfl
  · split <;> rfl
@[simp] theorem finish_dma (m : Mod) (i st dt : Nat) (v : List Byte) : (m.finish i st dt v).dma = m.dma := by
  unfold Mod.finish; dsimp only; split
  · rfl
  · split <;> rfl
@[simp] theorem finish_sec (m : Mod) (i st dt : Nat) (v : List Byte) : (m.finish i st dt v).sec = m.sec := by
  unfold Mod.finish; dsimp only; split
  · rfl
  · split <;> rfl
@[simp] theorem finish_tst (m : Mod) (i st dt : Nat) (v : List Byte) : (m.finish i st dt v).tst = m.tst := by
  unfold Mod.finish; dsimp only; split
  · rfl
  · split <;> rfl
@[simp] theorem finish_free (m : Mod) (i st dt : Nat) (v : List Byte) : (m.finish i st dt v).free = m.free := by
  unfold Mod.finish; dsimp only; split
  · rfl
  · split <;> rfl
@[simp] theorem answer_grid (m : Mod) (p : Pdu) (st : Nat) (v : List Byte) : (m.answer p st v).grid = m.grid := rfl
@[simp] theorem answer_cord (m : Mod) (p : Pdu) (st : Nat) (v : List Byte) : (m.answer p st v).cord = m.cord := rfl
@[simp] theorem answer_tick (m : Mod) (p : Pdu) (st : Nat) (v : List Byte) : (m.answer p st v).tick = m.tick := rfl
@[simp] theorem answer_pow (m : Mod) (p : Pdu) (st : Nat) (v : List Byte) : (m.answer p st v).pow = m.pow := rfl
@[simp] theorem answer_flt (m : Mod) (p : Pdu) (st : Nat) (v : List Byte) : (m.answer p st v).flt = m.flt := rfl
@[simp] theorem answer_rem (m : Mod) (p : Pdu) (st : Nat) (v : List Byte) : (m.answer p st v).rem = m.rem := rfl
@[simp] theorem answer_dieN (m : Mod) (p : Pdu) (st : Nat) (v : List Byte) : (m.answer p st v).dieN = m.dieN := rfl
@[simp] theorem answer_dieS (m : Mod) (p : Pdu) (st : Nat) (v : List Byte) : (m.answer p st v).dieS = m.dieS := rfl
@[simp] theorem answer_cross (m : Mod) (p : Pdu) (st : Nat) (v : List Byte) : (m.answer p st v).cross = m.cross := rfl
@[simp] theorem answer_log (m : Mod) (p : Pdu) (st : Nat) (v : List Byte) : (m.answer p st v).log = m.log := rfl
@[simp] theorem answer_hbm (m : Mod) (p : Pdu) (st : Nat) (v : List Byte) : (m.answer p st v).hbm = m.hbm := rfl
@[simp] theorem answer_peat (m : Mod) (p : Pdu) (st : Nat) (v : List Byte) : (m.answer p st v).peat = m.peat := rfl
@[simp] theorem answer_train (m : Mod) (p : Pdu) (st : Nat) (v : List Byte) : (m.answer p st v).train = m.train := rfl
@[simp] theorem answer_exch (m : Mod) (p : Pdu) (st : Nat) (v : List Byte) : (m.answer p st v).exch = m.exch := rfl
@[simp] theorem answer_clus (m : Mod) (p : Pdu) (st : Nat) (v : List Byte) : (m.answer p st v).clus = m.clus := rfl
@[simp] theorem answer_dma (m : Mod) (p : Pdu) (st : Nat) (v : List Byte) : (m.answer p st v).dma = m.dma := rfl
@[simp] theorem answer_sec (m : Mod) (p : Pdu) (st : Nat) (v : List Byte) : (m.answer p st v).sec = m.sec := rfl
@[simp] theorem answer_tst (m : Mod) (p : Pdu) (st : Nat) (v : List Byte) : (m.answer p st v).tst = m.tst := rfl
@[simp] theorem answer_free (m : Mod) (p : Pdu) (st : Nat) (v : List Byte) : (m.answer p st v).free = m.free := rfl

end Sys2Proof.Machine
end

