-- ==== Sys2Proof/Laws/Issue.lean ====
section
/-! SUPPORT. What the issue frame of a scalar core does, said once, and the fields of an instruction word. -/

namespace Sys2Proof.Machine

/-- What scalar core n sees when it issues word w. -/
def scEnv (m : Mod) (h : BitVec 13) (n : Fin 123) (w : Word) : Env :=
  { m := m, h := h.toNat, core := coreSc n.val, c := scAt h n, w := w.toNat }

/-- Where the core stands at w and the opcode is the command's, the first cause raises its fault, else the effect happens. -/
theorem scIssue_stands {m : Mod} {h : BitVec 13} {n : Fin 123} {w : Word} {op : Nat} (cause : Env → Option Nat)
    (eff : Env → Mod) (hs : m.scStands h n w = true) (hw : opOf w = op) (ho : op < 0x36) :
    scIssue op cause eff h.toNat n.val m =
      match cause (scEnv m h n w) with
      | some k => m.raise h.toNat (coreSc n.val) 1 k
      | none => eff (scEnv m h n w) := by
  simp only [Mod.scStands, Bool.and_eq_true, decide_eq_true_eq, beq_iff_eq] at hs
  obtain ⟨⟨hi, hp⟩, hx⟩ := hs
  simp only [scAt] at hp hx
  unfold scIssue
  simp only [hi, hx, hw]
  have h1 : ¬ 128 ≤ (m.ctl (cid h.toNat (coreSc n.val))).pc := by omega
  have h2 : ¬ 0x36 ≤ op := by omega
  simp only [h1, h2, scEnv, scAt, Bool.not_true, Bool.false_eq_true, if_false, ne_eq, not_true_eq_false]
  try rfl

/-- A core that does not issue is left as it is. -/
theorem scIssue_silent {m : Mod} {h n op : Nat} (cause : Env → Option Nat) (eff : Env → Mod)
    (hs : m.issues h (coreSc n) = false) : scIssue op cause eff h n m = m := by
  unfold scIssue; simp [hs]

@[simp] theorem scEnv_m (m : Mod) (h : BitVec 13) (n : Fin 123) (w : Word) : (scEnv m h n w).m = m := rfl
@[simp] theorem scEnv_h (m : Mod) (h : BitVec 13) (n : Fin 123) (w : Word) : (scEnv m h n w).h = h.toNat := rfl
@[simp] theorem scEnv_core (m : Mod) (h : BitVec 13) (n : Fin 123) (w : Word) :
    (scEnv m h n w).core = coreSc n.val := rfl
@[simp] theorem scEnv_c (m : Mod) (h : BitVec 13) (n : Fin 123) (w : Word) : (scEnv m h n w).c = scAt h n := rfl
@[simp] theorem scEnv_w (m : Mod) (h : BitVec 13) (n : Fin 123) (w : Word) : (scEnv m h n w).w = w.toNat := rfl

/-- A field of a number. -/
theorem slice_eq (x hi lo : Nat) : slice x hi lo = x / 2 ^ lo % 2 ^ (hi + 1 - lo) := by
  simp [slice, Nat.shiftRight_eq_div_pow]

/-- Bits put one after another, as a number. -/
theorem toNat_app {p q : Nat} (a : BitVec p) (b : BitVec q) : (a ++ b).toNat = a.toNat * 2 ^ q + b.toNat := by
  rw [BitVec.toNat_append, Nat.shiftLeft_eq, ← Nat.shiftLeft_eq, Nat.shiftLeft_add_eq_or_of_lt b.isLt]

theorem fmtA_fields (op : BitVec 6) (d a b : BitVec 4) (z : BitVec 14) :
    opOf (fmtA op d a b z) = op.toNat ∧ slice (fmtA op d a b z).toNat 25 22 = d.toNat ∧
      slice (fmtA op d a b z).toNat 21 18 = a.toNat ∧ slice (fmtA op d a b z).toNat 17 14 = b.toNat ∧
      slice (fmtA op d a b z).toNat 13 0 = z.toNat := by
  simp only [opOf, slice_eq, fmtA, toNat_app]
  omega

theorem fmtI_fields (op : BitVec 6) (d a : BitVec 4) (i : BitVec 18) :
    opOf (fmtI op d a i) = op.toNat ∧ slice (fmtI op d a i).toNat 25 22 = d.toNat ∧
      slice (fmtI op d a i).toNat 21 18 = a.toNat ∧ slice (fmtI op d a i).toNat 17 0 = i.toNat := by
  simp only [opOf, slice_eq, fmtI, toNat_app]
  omega

theorem fmtQ_fields (op : BitVec 6) (d a : BitVec 4) (q : BitVec 1) (len : BitVec 5) (tag : BitVec 6)
    (mask eot : BitVec 1) (z : BitVec 4) :
    let w := (fmtQ op d a q len tag mask eot z)
    opOf w = op.toNat ∧ slice w.toNat 25 22 = d.toNat ∧ slice w.toNat 21 18 = a.toNat ∧ slice w.toNat 17 17 = q.toNat ∧
      slice w.toNat 16 12 = len.toNat ∧ slice w.toNat 11 6 = tag.toNat ∧ slice w.toNat 5 5 = mask.toNat ∧
      slice w.toNat 4 4 = eot.toNat ∧ slice w.toNat 3 0 = z.toNat := by
  simp only [opOf, slice_eq, fmtQ, toNat_app]
  omega

theorem fmtM_fields (op : BitVec 6) (d a b k : BitVec 4) (q : BitVec 2) (core : BitVec 7) (z : BitVec 1) :
    let w := (fmtM op d a b k q core z)
    opOf w = op.toNat ∧ slice w.toNat 25 22 = d.toNat ∧ slice w.toNat 21 18 = a.toNat ∧ slice w.toNat 17 14 = b.toNat ∧
      slice w.toNat 13 10 = k.toNat ∧ slice w.toNat 9 8 = q.toNat ∧ slice w.toNat 7 1 = core.toNat ∧
      slice w.toNat 0 0 = z.toNat := by
  simp only [opOf, slice_eq, fmtM, toNat_app]
  omega

end Sys2Proof.Machine
end

