-- ==== Sys2Proof/Laws/Memory.lean ====
section
/-! SUPPORT. The canonical form of memories: every operation on the memory of HBM, of a hearth store and of a core keeps it, and the state after reset has it. -/

namespace Sys2Proof.Machine

theorem reset_memory_wf : Memory.wf State.reset.m.hbm.mem = true := rfl

theorem mSet_wf (m : List Host.Cell) (a : Nat) (b : Byte) (h : Memory.wf m = true) : Memory.wf (mSet m a b) = true :=
  tWf_tSet 0 m a b h

theorem foldl_mSet_wf (l : List (Nat × Byte)) : ∀ m : List Host.Cell, Memory.wf m = true →
    Memory.wf (l.foldl (fun t c => mSet t c.1 c.2) m) = true := by
  induction l with
  | nil => intro m h; exact h
  | cons c l ih => intro m h; exact ih _ (mSet_wf m c.1 c.2 h)

theorem hbmPut_wf (m : Mod) (a : Nat) (b : List Byte) (h : Memory.wf m.hbm.mem = true) :
    Memory.wf (m.hbmPut a b).hbm.mem = true := mWrite_wf b m.hbm.mem a h

theorem hbmWrite_wf (m : Mod) (a : Nat) (b : List Byte) (h : Memory.wf m.hbm.mem = true) :
    Memory.wf (m.hbmWrite a b).hbm.mem = true := hbmPut_wf m (m.view a) b h

theorem zeroJob_wf (m : Mod) (h : Memory.wf m.hbm.mem = true) : Memory.wf m.zeroJob.hbm.mem = true :=
  tWf_filter 0 _ _ h

theorem swapMem_wf (m : Mod) (l f : Nat) (h : Memory.wf m.hbm.mem = true) : Memory.wf (m.swapMem l f) = true :=
  foldl_mSet_wf _ _ (tWf_filter 0 _ _ h)

theorem clear_wf (m : Mod) : Memory.wf m.clear.hbm.mem = true := rfl

theorem payWrite_wf (c : Copy) (i n off : Nat) (b : List Byte) (m : Mod) (h : Memory.wf m.hbm.mem = true) :
    Memory.wf (m.payWrite c i n off b).hbm.mem = true :=
  foldl_holds (fun x : Mod => Memory.wf x.hbm.mem = true) _ (fun x _ hx => hbmPut_wf x _ _ hx) _ m h

theorem hsPut_wf (m : Mod) (h a : Nat) (b : List Byte) (w : Memory.wf (m.hearth h).hs = true) :
    Memory.wf ((m.hsPut h a b).hearth h).hs = true := by
  unfold Mod.hsPut
  rw [setHearth_hearth_same]
  exact mWrite_wf b _ a w

/-- A write to one hearth store leaves the others. -/
theorem hsPut_other (m : Mod) (h k a : Nat) (b : List Byte) (hk : k ≠ h) : (m.hsPut h a b).hearth k = m.hearth k := by
  unfold Mod.hsPut
  rw [setHearth_hearth, if_neg hk]

end Sys2Proof.Machine
end

