-- ==== Sys2Proof/WellFormed.lean ====
section
/-! DEFINITION. Well-formed commands: those whose operands the outside world can present. A command that is not well-formed still has a meaning; only claims use this check. -/

namespace Sys2Proof

/-- What a command must hold beside its operands' types: a datagram fits UDP, a packet the path MTU of R438, a staged cord its slot (R215), a
firmware pair its bank (R498); the sensors are those of R544; a port has four lanes, the module 32 (R432). -/
def Instr.wellFormed : Instr → Bool
  | .kopDatagramReceive _ pdu _ _ => decide (pdu.length ≤ 65507)
  | .openCmd _ pdu _ => decide (pdu.length ≤ 65507)
  | .rocePacketReceive _ _ _ _ _ _ _ _ _ _ _ body => decide (body.length ≤ 4096)
  | .cordFetchDone (some b) => decide (b.length ≤ 268435456)
  | .fwLoad words => decide (words.length ≤ 8388608)
  | .thermalSample n s hub hn hs => n.length = 16 && s.length = 16 && hub.length = 4 && hn.length = 6 && hs.length = 6
  | .laneTestDone errs => decide (errs.length ≤ 4)
  | .journalSnapshot lanes => decide (lanes.length ≤ 32)
  | _ => true

end Sys2Proof
end

