-- ==== Sys2Proof/Tests/Slice0.lean ====
section
/-! SUPPORT. Tests of the model and witnesses of the statements: for every statement with hypotheses a small state that meets them, at the boundary values of the ranges its clauses name; the checks of well-formed commands refuse an ill-formed term. Expected values come from the rules of spec/ or are worked out by hand from them. -/

namespace Sys2Proof.Tests

open Sys2Proof.Machine

set_option Elab.async false

/-! ### Small states -/

/-- The module that an outcome leaves. -/
def out : Host.Outcome State Fault Refusal → Mod
  | .next s => s.m
  | _ => {}

/-- The module after a command. -/
def run (c : Instr) (s : State) : Mod := out (exec c s)

/-- A module in Running whose attempt runs. -/
def base (g : Grid := {}) : Mod :=
  { grid := g, pow := { state := .running, collier := true }, train := { running := true } }

/-- A core inside block 0 of its program. -/
def ctl0 (pc : Nat := 0) (ph : Phase := .inside 0) : Ctl := { placed := true, phase := ph, pc := pc }

/-- Scalar core 0 of hearth 0 stands at a word. -/
def scS (w : Word) (st : ScSt := {}) (ct : Ctl := ctl0) (g : Grid := {}) : State :=
  { m := base { g with ctls := [(5, ct)], scs := [(5, { st with prog := List.replicate ct.pc 0 ++ [w] })] } }

/-- Vector core 0 of hearth 0 stands at a word. -/
def vcS (w : Word) (st : VcSt := {}) (ct : Ctl := ctl0) (g : Grid := {}) : State :=
  { m := base { g with ctls := [(1, ct)], vcs := [(1, { st with prog := List.replicate ct.pc 0 ++ [w] })] } }

/-- A hearth all of whose store is declared. -/
def hearthAll : Hearth := { regions := [{ kind := 1, base := 0, len := 131072 }] }

/-- The sequencer of hearth 0 stands at a descriptor. -/
def mcS (d : Nat) (mc : McSt := { ndesc := 1 }) (ct : Ctl := ctl0) (g : Grid := {}) : State :=
  { m := base { g with ctls := [(0, ct)], mcs := [(0, mc)],
                       hearths := [(0, { hearthAll with hs := mWrite [] (16 * ct.pc) (leBytes 16 d) })] } }

/-- A token of generation 0. -/
def tok (ws : List Word) (tag : BitVec 6 := 0) : QTok := { tok := { words := ws, tag := tag } }

/-- A cord of the given mode bits and sections (type, count, bytes). -/
def cordOf (modes : Nat) (secs : List (Nat × Nat × List Byte)) : List Byte :=
  let start := 128 + 96 * secs.length
  leBytes 128 (2 ^ 48 * secs.length + 2 ^ 256 * modes) ++
    (secs.foldl (fun (p : List Byte × Nat) e =>
      (p.1 ++ leBytes 96 (e.1 + 2 ^ 32 * e.2.1 + 2 ^ 64 * p.2 + 2 ^ 96 * e.2.2.length), p.2 + e.2.2.length)) ([], start)).1 ++
    secs.flatMap fun e => e.2.2

/-- The cord runs: installed from slot 0. -/
def withCord (m : Mod) (c : List Byte) : Mod := { m with cord := { m.cord with slot0 := { st := .staged, bytes := c }, inst := some 0 } }

/-! ### Ill-formed commands are refused -/

theorem test_illformed_datagram : (Instr.kopDatagramReceive ⟨0, 0, 0, 0⟩ (List.replicate 65508 0) false true).wellFormed = false := by
  simp only [Instr.wellFormed, List.length_replicate]; decide

theorem test_illformed_packet :
    (Instr.rocePacketReceive 0 0 0 0 0 true 0 0 0 0 0 (List.replicate 4097 0)).wellFormed = false := by
  simp only [Instr.wellFormed, List.length_replicate]; decide

theorem test_illformed_cord : (Instr.cordFetchDone (some (List.replicate 268435457 0))).wellFormed = false := by
  simp only [Instr.wellFormed, List.length_replicate]; decide

theorem test_illformed_firmware : (Instr.fwLoad (List.replicate 8388609 0)).wellFormed = false := by
  simp only [Instr.wellFormed, List.length_replicate]; decide

theorem test_illformed_sensors : (Instr.thermalSample [] [] [] [] []).wellFormed = false := by decide

theorem test_illformed_lanes : (Instr.laneTestDone (List.replicate 5 (0, 0))).wellFormed = false ∧
    (Instr.journalSnapshot (List.replicate 33 ((0 : Fin 32), 0, 0))).wellFormed = false := by decide

theorem test_wellformed : (Instr.laneTestDone (List.replicate 4 (0, 0))).wellFormed = true := by decide

/-! ### Scalar cores -/

/-- Core 0 stands at any word: the premise of every statement about one scalar instruction. -/
theorem witness_scalar_stands (w : Word) : (scS w).m.scStands 0 0 w = true := by
  simp [scS, base, ctl0, Mod.scStands, Mod.issues, Mod.live, Mod.coresRun, Mod.dieRuns, hDie, slice, scAt, cid, coreSc, Mod.ctl,
    Mod.sc, Mod.hearth, tGet, nth]

theorem test_step_front : step { (scS 0) with pending := [.scNop 0 0] } = exec (.scNop 0 0) (scS 0) := rfl

/-- R75: ADD wraps, SUB borrows, MULHU takes the high word. -/
theorem test_scalar_wrap :
    (run (.scAdd 0 0) (scS (fmtA 0x01 1 2 3) { regs := [(2, 0xFFFFFFFF#32), (3, 2#32)] })).scReg 0 0 1 = 1 ∧
    (run (.scSub 0 0) (scS (fmtA 0x02 1 2 3) { regs := [(3, 1#32)] })).scReg 0 0 1 = 0xFFFFFFFF#32 ∧
    (run (.scMulhu 0 0) (scS (fmtA 0x0A 1 2 3) { regs := [(2, 0xFFFFFFFF#32), (3, 0xFFFFFFFF#32)] })).scReg 0 0 1 = 0xFFFFFFFE#32 := by
  decide +kernel

theorem witness_immediates : (31#18).extractLsb' 5 13 = 0#13 ∧ (32#18).extractLsb' 5 13 ≠ 0#13 ∧ (1023#18).extractLsb' 10 8 = 0#8 ∧
    (1024#18).extractLsb' 10 8 ≠ 0#8 := by decide

/-- R81: the whole product at IMM 32, its top bit at IMM 1, ILLEGAL_OP at 0 and 33. -/
theorem test_hash :
    (run (.scHash 0 0) (scS (fmtI 0x1B 1 2 32) { regs := [(2, 1#32)] })).scReg 0 0 1 = 0x2C1B3C6D#32 ∧
    (run (.scHash 0 0) (scS (fmtI 0x1B 1 2 1) { regs := [(2, 4#32)] })).scReg 0 0 1 = 1#32 ∧
    ((run (.scHash 0 0) (scS (fmtI 0x1B 1 2 0))).flt.recs.map (·.code)) = [1] ∧
    ((run (.scHash 0 0) (scS (fmtI 0x1B 1 2 33))).flt.recs.map (·.code)) = [1] := by decide +kernel

/-- R82: stage 2 from s12 on orders the middle pair; stage 3 and s5 are refused. -/
theorem test_sort :
    (run (.scSort 0 0) (scS (fmtI 0x1C 12 0 2) { regs := [(13, 9#32), (14, 4#32)] })).grid.scs.map (fun p => p.2.regs) =
      [[(13, 4#32), (14, 9#32)]] ∧
    ((run (.scSort 0 0) (scS (fmtI 0x1C 12 0 3))).flt.recs.map (·.code)) = [1] ∧
    ((run (.scSort 0 0) (scS (fmtI 0x1C 5 0 0))).flt.recs.map (·.code)) = [1] := by decide +kernel

/-- R75: the last word and the last byte of data memory; past them MEM_ADDR. -/
theorem test_scalar_memory :
    (run (.scLd 0 0) (scS (fmtI 0x1D 1 0 508) { dmem := mWrite [] 508 [1, 2, 3, 4] })).scReg 0 0 1 = 0x04030201#32 ∧
    ((run (.scLd 0 0) (scS (fmtI 0x1D 1 0 512))).flt.recs.map (·.code)) = [3] ∧
    ((run (.scLd 0 0) (scS (fmtI 0x1D 1 0 2))).flt.recs.map (·.code)) = [3] ∧
    ((run (.scStb 0 0) (scS (fmtI 0x20 1 0 511) { regs := [(1, 0xAB#32)] })).grid.scs.map fun p => mGet p.2.dmem 511) = [0xAB#8] ∧
    ((run (.scStb 0 0) (scS (fmtI 0x20 1 0 512))).flt.recs.map (·.code)) = [3] := by decide +kernel

/-- A block from word 0 to word 1: targets 0 and 1 lie in it, 2 does not (R66). -/
theorem witness_branch_target :
    let blocks := scBlocks [fmtF 0x33 0 0 0 0, fmtB 0x21 0 0 0]
    inBlock blocks 128 (.inside 0) 0 = true ∧ inBlock blocks 128 (.inside 0) 1 = true ∧
    inBlock blocks 128 (.inside 0) 3 = false ∧ inBlock blocks 128 (.inside 0) (-1) = false := by decide

/-- A TAKE that the queue, the destination and the count allow; the destination's last place is 448 (R77). -/
theorem witness_take :
    let g : Grid := { inqs := [(20, { router := [tok [7]], credit := 15 })] }
    let s := scS (fmtQ 0x2B 1 2 0 0 0 0 0) { regs := [(2, 448#32)] } { ctl0 with takes := [1] } g
    (s.m.inq (qid (scAt 0 0) 0)).router = [] ++ tok [7] :: [] ∧ (tok [7]).takeable (s.m.hearth 0).gen = true ∧
    nth 0 (s.m.ctl (scAt 0 0)).takes 0 = 1 ∧ (run (.scTake 0 0) s).grid.scs.map (fun p => mWord p.2.dmem 448) = [7#32] := by
  decide +kernel

/-- A PUT against reserved room on a bound queue (R78); 512 - 4 * 16 is the last place of a full payload. -/
theorem witness_put :
    let g : Grid := { outqs := [(20, { bind := .unicast 24 false, room := 1 })] }
    let s := scS (fmtQ 0x2C 0 2 0 16 3 0 0) { regs := [(2, 448#32)] } ctl0 g
    (s.m.outq (qid (scAt 0 0) 0)).bind = .unicast 24 false ∧ (s.m.outq (qid (scAt 0 0) 0)).room ≠ 0 ∧
    (run (.scPut 0 0) s).grid.flights.map (fun f => (f.target, f.tok.tok.tag, f.tok.tok.words.length)) = [(24, 3#6, 16)] ∧
    ((run (.scPut 0 0) (scS (fmtQ 0x2C 0 2 0 16 3 0 0) { regs := [(2, 452#32)] } ctl0 g)).flt.recs.map (·.code)) = [3] := by
  decide +kernel

/-- R79: a masked and a stale token are no different to QCNT but for the generation: one of two is counted. -/
theorem test_qcnt :
    (run (.scQcnt 0 0) (scS (fmtQ 0x2E 1 0 0 0 0 0 0) {} ctl0
      { inqs := [(20, { router := [{ tok := { gen := 1 } }, { tok := { mask := true } }] })] })).scReg 0 0 1 = 1#32 := by decide +kernel

/-- A window of engine 0 with one element of 4 bytes that a gather, a scatter and an atomic may name; its second element is
past LIMIT (R68 to R70). -/
theorem witness_requests :
    let x : Hearth := { hearthAll with windows := [(1, 0 + 4 * 2 + 32 + 64 + 128 + BitVec.ofNat 128 (2 ^ 64 * 1))] }
    winCause x (x.win 1) ((x.win 1).rd && (x.win 1).wr && (x.win 1).at') 0 0 = none ∧
    winCause x (x.win 1) (x.win 1).rd 1 0 = some 7 ∧ x.slotFree 0 = true ∧ (x.inRegion 131068 4 = true) ∧
    x.inRegion 131072 4 = false := by decide +kernel

/-- SYNC SUM of 64 words from the last place that holds them, and one word further (R83). -/
theorem test_sync :
    ((run (.scSync 0 0) (scS (fmtI 0x35 0 1 (0#8 ++ 63#6 ++ 0#2 ++ 2#2)) { regs := [(1, 256#32)] })).hearth 0).sync.length = 1 ∧
    ((run (.scSync 0 0) (scS (fmtI 0x35 0 1 (0#8 ++ 63#6 ++ 0#2 ++ 2#2)) { regs := [(1, 260#32)] })).flt.recs.map (·.code)) = [3] ∧
    ((run (.scSync 0 0) (scS (fmtI 0x35 0 1 (0#8 ++ 0#6 ++ 3#2 ++ 1#2)))).hearth 0).sync.length = 1 ∧
    ((run (.scSync 0 0) (scS (fmtI 0x35 0 1 (0#8 ++ 0#6 ++ 0#2 ++ 3#2)))).flt.recs.map (·.code)) = [1] := by decide +kernel


/-- A tree to two targets, as its cord describes it. -/
def treeTo (ts : List (Nat × Bool)) : Tree :=
  { src := 20, targets := ts, entered := List.replicate ts.length 0, nodes := splitNodes 0 ts }

/-- PUT on the other bindings (R78, R187): a tree that divides at the source, one that divides two hearths further, a remote window, no
binding; a TAKE that finds a stale token alone waits. -/
theorem witness_put_bindings :
    let here := treeTo [(512 * 1 + 20, false), (512 * 64 + 20, false)]
    let there := treeTo [(512 * 2 + 20, false), (512 * 66 + 20, false)]
    let g := fun (b : Bind) (t : Tree) => ({ outqs := [(20, { bind := b, room := 1 })], trees := [(3, t)] } : Grid)
    let m := fun b t => run (.scPut 0 0) (scS (fmtQ 0x2C 0 2 0 1 0 0 0) {} ctl0 (g b t))
    (here.nodeAt 0).isSome = true ∧ there.nodeAt 0 = none ∧
    ((m (.tree 3) here).tree 3).nodes.map (fun n => n.entries.length) = [0] ∧
    (m (.tree 3) here).grid.flights.map (fun f => f.tree) = [some (3, [0]), some (3, [1])] ∧
    (m (.tree 3) there).grid.flights.map (fun f => (f.tree.isSome, f.start)) = [(true, 0)] ∧
    (m (.remote 7) {}).grid.flights.map (fun f => f.target) = [prodRem 7] ∧
    (m .none {}).grid.flights.length = 0 ∧ ((m .none {}).outq 20).seq = 1 ∧
    (let s := scS (fmtQ 0x2B 1 2 0 0 0 0 0) {} { ctl0 with takes := [1] } { inqs := [(20, { router := [{ tok := { gen := 1 } }] })] }
     run (.scTake 0 0) s = s.m) := by decide +kernel

/-! ### Vector cores -/

/-- Core 0 stands at any word: the premise of every statement about one vector instruction. -/
theorem witness_vector_stands (w : Word) : (vcS w).m.vcStands 0 0 w = true := by
  simp [vcS, base, ctl0, Mod.vcStands, Mod.issues, Mod.live, Mod.coresRun, Mod.dieRuns, hDie, slice, vcAt, cid, coreVc, Mod.ctl,
    Mod.vc, Mod.hearth, tGet, nth]

/-- R84, R88: 1.0 + 1.0 in lane 0 and nothing in lane 1, which the mask disables. -/
theorem test_vadd :
    let s := vcS (fmtV 0x01 1 2 3 0 1 0 0 0) { v := [(2, 0x3F8000003F800000#256), (3, 0x3F8000003F800000#256)], k := [(1, 1#32)] }
    ((run (.vadd 0 0) s).vc 1).getv 1 = 0x40000000#256 := by decide +kernel

/-- R89: INT32 wraps, INT8 saturates at 127 and says so. -/
theorem test_integer_lanes :
    laneOut .int32 .rne ((Fmt.dec .int32 0x7FFFFFFF).add (Fmt.dec .int32 1)) = (0x80000000, {}) ∧
    laneOut .int8 .rne ((Fmt.dec .int8 127).add (Fmt.dec .int8 1)) = (127, { sat := true }) := by decide +kernel

/-- A format that the instruction does not accept and rounding mode 2 are refused (R87, R88). -/
theorem test_vector_refusals :
    ((run (.vmul 0 0) (vcS (fmtV 0x03 1 2 3 0 0 0 8 0))).flt.recs.map (·.code)) = [1] ∧
    ((run (.vadd 0 0) (vcS (fmtV 0x01 1 2 3 0 0 2 0 0))).flt.recs.map (·.code)) = [1] ∧
    ((run (.vcmp 0 0) (vcS (fmtV 0x07 0 2 3 0 0 0 0 0))).flt.recs.map (·.code)) = [1] ∧
    ((run (.vcmp 0 0) (vcS (fmtV 0x07 4 2 3 0 0 0 0 0))).flt.recs.map (·.code)) = [1] := by decide +kernel

/-- FP32 to BF16 with aligned registers is a conversion of R156; FP6 needs a scale. -/
theorem witness_convert : Fmt.ofCode 0 = some .fp32 ∧ Fmt.ofCode 1 = some .bf16 ∧ cvtOk .fp32 .bf16 = true ∧
    Fmt.fp32.alwaysScaled = false ∧ Fmt.bf16.alwaysScaled = false ∧ Fmt.fp32 ≠ .bf16 ∧ Fmt.e3m2.alwaysScaled = true := by decide

/-- R88: the tree over eight FP32 lanes of 1.0 gives 8.0, a masked lane gives the identity. -/
theorem test_vred :
    let ones : BitVec 256 := 0x3F8000003F8000003F8000003F8000003F8000003F8000003F8000003F800000#256
    ((run (.vred 0 0) (vcS (fmtV 0x0A 1 2 0 0 0 0 0 0) { v := [(2, ones)] })).vc 1).getv 1 = 0x41000000#256 ∧
    ((run (.vred 0 0) (vcS (fmtV 0x0A 1 2 0 0 1 0 0 0) { v := [(2, ones)], k := [(1, 3#32)] })).vc 1).getv 1 = 0x40000000#256 ∧
    ((run (.vred 0 0) (vcS (fmtV 0x0A 1 2 0 0 0 0 9 3))).flt.recs.map (·.code)) = [1] := by decide +kernel

/-- A segment of one row of 1.0 in element 0 waits in the queue, with room for the result (R94 to R97). -/
theorem witness_segment :
    let g : Grid := { inqs := [(4, { router := [tok [0x3F800000#32]] })], outqs := [(4, { bind := .unicast 24 false })] }
    let s := vcS (fmtS 0x0B 4 1 0 0 0 0 0 5 0) { a := [(1, 1#32)] } ctl0 g
    s.m.vcStands 0 0 (fmtS 0x0B 4 1 0 0 0 0 0 5 0) = true ∧
    (s.m.inq (qid (vcAt 0 0) 0)).router = [tok [0x3F800000#32]] ++ [] ∧ [tok [0x3F800000#32]].length = ((s.m.vc 1).geta 1).toNat ∧
    (∀ t ∈ [tok [0x3F800000#32]], t.takeable (s.m.hearth 0).gen = true) ∧
    (s.m.outq (qid (vcAt 0 0) 0)).bind = .unicast 24 false ∧ (s.m.outq (qid (vcAt 0 0) 0)).marker = false ∧
    1 ≤ (s.m.inq 24).credit ∧ (s.m.hearth (qHearth 24)).gen = (s.m.hearth 0).gen ∧
    nth 0 (s.m.ctl 1).inCnt 0 = 0 ∧ nth 0 (s.m.ctl 1).outCnt 0 = 0 ∧
    (run (.vsegr 0 0) s).grid.flights.map (fun f => (f.tok.tok.tag, f.tok.tok.words.take 2)) = [(5#6, [0x3F800000#32, 0#32])] := by
  decide +kernel

/-- R98: the ends of the ranges of the special cases. -/
theorem test_approximations : (apRcp 0).1 = 0x7F800000 ∧ (apRcp (2 ^ 23 - 1)).1 = 0x7F800000 ∧ (apRsq (2 ^ 31 + 2 ^ 23)).1 = 0x7FC00000 ∧
    (apTanh 0x41100000).1 = 0x3F800000 ∧ (apExp 0x7F800001).1 = 0x7FC00000 := by decide +kernel

/-- The last 32 bytes of local memory and of the declared store; one step further is refused (R88). -/
theorem test_vector_memory :
    let v : VcSt := { a := [(1, 8160#32), (2, 131040#32), (3, 8188#32)], v := [(2, 5#256)], mem := mWrite [] 8188 [1, 2, 3, 4] }
    let g : Grid := { hearths := [(0, hearthAll)] }
    (mGet ((run (.vst 0 0) (vcS (fmtL 0x12 2 1 0) v)).vc 1).mem 8160 = 5#8) ∧
    ((run (.vst 0 0) (vcS (fmtL 0x12 2 1 32) v)).flt.recs.map (·.code)) = [3] ∧
    (mGet ((run (.hst 0 0) (vcS (fmtL 0x14 2 2 0) v ctl0 g)).hearth 0).hs 131040 = 5#8) ∧
    ((run (.hst 0 0) (vcS (fmtL 0x14 2 2 32) v ctl0 g)).flt.recs.map (·.code)) = [9] ∧
    (((run (.ald 0 0) (vcS (fmtL 0x15 7 3 0) v)).vc 1).geta 7 = 0x04030201#32) ∧
    ((run (.ald 0 0) (vcS (fmtL 0x15 8 3 0) v)).flt.recs.map (·.code)) = [1] ∧
    ((run (.ald 0 0) (vcS (fmtL 0x15 7 3 4) v)).flt.recs.map (·.code)) = [3] := by decide +kernel

/-- R84: a0 discards the write of AADDI, a7 takes it; a register number of 8 is refused; AMOV takes lane 7. -/
theorem test_vector_moves :
    ((run (.aaddi 0 0) (vcS (fmtL 0x16 0 0 5))).vc 1).geta 0 = 0#32 ∧ ((run (.aaddi 0 0) (vcS (fmtL 0x16 7 0 5))).vc 1).geta 7 = 5#32 ∧
    ((run (.aaddi 0 0) (vcS (fmtL 0x16 8 0 5))).flt.recs.map (·.code)) = [1] ∧
    ((run (.amov 0 0) (vcS (fmtV 0x17 7 2 7 0 0 0 0 0) { v := [(2, BitVec.ofNat 256 (9 * 2 ^ 224))] })).vc 1).geta 7 = 9#32 := by
  decide +kernel

/-- A VTAKE and a VPUT that the queues and the counts allow (R92, R93). -/
theorem witness_vector_tokens :
    let g : Grid := { inqs := [(4, { router := [tok [7, 8]] })], outqs := [(4, { bind := .unicast 24 false, room := 1 })] }
    let s := vcS (fmtVQ 0x19 2 0 0 0 0 0 0) {} { ctl0 with takes := [1] } g
    let p := vcS (fmtVQ 0x1A 2 0 3 1 0 16 0) {} ctl0 g
    (s.m.inq (qid (vcAt 0 0) 0)).router = tok [7, 8] :: [] ∧ (tok [7, 8]).takeable (s.m.hearth 0).gen = true ∧
    nth 0 (s.m.ctl (vcAt 0 0)).takes 0 ≠ 0 ∧ ((run (.vtake 0 0) s).vc 1).getv 2 = 0x800000007#256 ∧
    (p.m.outq (qid (vcAt 0 0) 0)).bind = .unicast 24 false ∧ (p.m.outq (qid (vcAt 0 0) 0)).room ≠ 0 ∧
    (run (.vput 0 0) p).grid.flights.map (fun f => (f.tok.tok.mask, f.tok.tok.words.length)) = [(true, 16)] := by decide +kernel

/-- R71: an odd register pair is refused, an even one issues one request of the window's size. -/
theorem test_vscat :
    let g : Grid := { hearths := [(0, { hearthAll with windows := [(1, 0 + 4 * 6 + 64 + BitVec.ofNat 128 (2 ^ 64 * 1))] })] }
    ((run (.vscat 0 0) (vcS (fmtVM 0x1C 2 0 0 1 0 0 0) {} ctl0 g)).hearth 0).reqs.map (fun r => (r.eng, r.size)) = [(0, 64)] ∧
    ((run (.vscat 0 0) (vcS (fmtVM 0x1C 3 0 0 1 0 0 0) {} ctl0 g)).flt.recs.map (·.code)) = [1] := by decide +kernel

/-- R88: LOOP counts its register down and leaves at zero; a target outside the block is refused whatever the condition gives. -/
theorem test_vector_branches :
    let blk : Word := fmtV 0x24 0 0 0 0 0 0 0 0
    let prog := fun (w : Word) => ({ placed := true, phase := .inside 0, pc := 2 : Ctl }, [blk, 0#32, w])
    let s := fun (w : Word) (x : Word) =>
      ({ m := base { ctls := [(1, (prog w).1)], vcs := [(1, { prog := (prog w).2, a := tSet 0 [] 1 x })] } } : State)
    let go := fun (x : Word) => (run (.vcLoop 0 0) (s (fmtL 0x21 0 1 0) x)).ctl 1
    (go 2).pc = 2 ∧ (go 1).pc = 3 ∧
    ((run (.bnz 0 0) (s (fmtL 0x1F 0 1 5) 0)).flt.recs.map (·.code)) = [2] := by decide +kernel

/-- R100: STEP.M with its operands in place; an overlap by one granule and an end past local memory are refused. -/
theorem witness_step :
    (run (.stepM 0 0) (vcS (fmtP 0x23 1 2 0) { latch := BitVec.ofNat 512 (2 ^ 16), a := [(1, 128#32)], mem := [(128, 7#8)] })).flt.recs = [] ∧
    ((run (.stepM 0 0) (vcS (fmtP 0x23 1 2 0) { a := [(1, 64#32)] })).flt.recs.map (·.code)) = [10] ∧
    ((run (.stepM 0 0) (vcS (fmtP 0x23 1 2 0) { a := [(1, 7872#32)] })).flt.recs.map (·.code)) = [10] ∧
    mGet ((run (.stepM 0 0) (vcS (fmtP 0x23 1 2 0) { latch := BitVec.ofNat 512 (2 ^ 16), a := [(1, 128#32)], mem := [(128, 7#8)] })).vc 1).mem 0 = 7#8 := by
  decide +kernel

/-- R101: a declared entry whose VALID bit is 1 is latched; with VALID 0 the core stays. -/
theorem witness_parm :
    let g := fun (b : Byte) => ({ hearths := [(0, { hearthAll with hs := [(66, b)] })] } : Grid)
    ((run (.parm 0 0) (vcS (fmtL 0x22 0 0 64) {} ctl0 (g 8))).ctl 1).pc = 1 ∧
    ((run (.parm 0 0) (vcS (fmtL 0x22 0 0 64) {} ctl0 (g 7))).ctl 1).pc = 0 ∧
    ((run (.parm 0 0) (vcS (fmtL 0x22 0 0 32) {} ctl0 (g 8))).flt.recs.map (·.code)) = [9] := by decide +kernel

/-- The largest finite BF16 value is a value of the round trip (R136). -/
theorem witness_round_trip : Fmt.bf16.isFloat = true ∧ 0x7F7F < 2 ^ Fmt.bf16.width ∧ Fmt.bf16.dec 0x7F7F ≠ .nan ∧
    Fmt.bf16.enc .rne (Fmt.bf16.dec 0x7F7F) = (0x7F7F, {}) := by decide +kernel

/-! ### What holds for every core instruction -/

/-- R84: k0 and a0 cannot be written. -/
theorem test_zero_registers : (({} : VcSt).putk 0 5).getk 0 = BitVec.allOnes 32 ∧ (({} : VcSt).puta 0 5).geta 0 = 0 ∧
    (({} : VcSt).putk 3 5).getk 3 = 5 := by decide

/-- A core past its program memory, one at a reserved opcode and one at another instruction (R68, R74). -/
theorem witness_reserved :
    (scS 0 {} (ctl0 128)).m.issues 0 (coreSc 0) = true ∧ 128 ≤ ((scS 0 {} (ctl0 128)).m.ctl (scAt 0 0)).pc ∧
    ((run (.scNop 0 0) (scS 0 {} (ctl0 128))).flt.recs.map (·.code)) = [6] ∧
    ((run (.scAdd 0 0) (scS (fmtA 0x36 0 0 0))).flt.recs.map (·.code)) = [1] ∧
    run (.scAdd 0 0) (scS (fmtA 0x35 0 0 0)) = (scS (fmtA 0x35 0 0 0)).m ∧
    ((run (.vcNop 0 0) (vcS 0 {} (ctl0 512))).flt.recs.map (·.code)) = [6] ∧
    ((run (.vadd 0 0) (vcS (fmtV 0x27 0 0 0 0 0 0 0 0))).flt.recs.map (·.code)) = [1] ∧
    run (.vadd 0 0) (vcS (fmtV 0x26 0 0 0 0 0 0 0 0)) = (vcS (fmtV 0x26 0 0 0 0 0 0 0 0)).m := by decide +kernel

/-- R198: the 65th fault of a step keeps no record. -/
theorem test_fault_limit :
    let r : FaultRec := { cls := 1, code := 1, hearth := 0, core := 0, hlevel := false, rerun := false, pc := 0, tick := 0, mb := none }
    let m : Mod := { flt := { recs := List.replicate 64 r, count := 64, kept := 64 } }
    (m.raise 0 5 1 1).flt.recs.length = 64 ∧ (m.raise 0 5 1 1).flt.count = 65 := by decide +kernel

/-- An instruction of a scalar core and one of a vector core that answer a next state. -/
theorem witness_frame : Instr.scNop 0 0 ∈ scalarCommands 0 0 ∧ Instr.vcNop 0 0 ∈ vectorCommands 0 0 ∧
    exec (.scNop 0 0) (scS 0) = .next { m := run (.scNop 0 0) (scS 0) } ∧
    exec (.vcNop 0 0) (vcS 0) = .next { m := run (.vcNop 0 0) (vcS 0) } := by
  refine ⟨by decide, by decide, rfl, rfl⟩

/-- A block that begins and one that is met inside a block (R65, R66). -/
theorem witness_block_begins :
    ((run (.scBlk 0 0) (scS (fmtF 0x33 1 0 0 0) {} (ctl0 0 (.started 0)))).ctl 5) = ctl0 1 (.inside 0) ∧
    ((run (.scBlk 0 0) (scS (fmtF 0x33 1 0 0 0))).flt.recs.map (·.code)) = [6] ∧
    ((run (.vcBlk 0 0) (vcS (fmtF 0x24 1 0 0 0) {} (ctl0 0 (.started 0)))).ctl 1) = ctl0 2 (.inside 0) ∧
    ((run (.vcBlk 0 0) (vcS (fmtF 0x24 1 0 0 0 1) {} (ctl0 0 (.started 0)))).flt.recs.map (·.code)) = [1] := by decide +kernel

/-- A block that ends with one reserved place unused, and an END outside any block (R65, R66). -/
theorem witness_block_ends :
    let g : Grid := { outqs := [(20, { bind := .unicast 24 false, room := 1 })], inqs := [(24, { credit := 15 })] }
    let s := scS (fmtA 0x34 0 0 0) {} ctl0 g
    (s.m.ctl (scAt 0 0)).phase = .inside 0 ∧ s.m.scStands 0 0 (fmtA 0x34 0 0 0) = true ∧
    ((run (.scEnd 0 0) s).inq 24).credit = 16 ∧ ((run (.scEnd 0 0) s).ctl 5).phase = .idle ∧
    (scS (fmtA 0x34 0 0 0) {} (ctl0 0 .idle)).m.live 0 (coreSc 0) = true ∧
    ((run (.scEnd 0 0) (scS (fmtA 0x34 0 0 0) {} (ctl0 0 .idle))).flt.recs.map (·.code)) = [6] ∧
    ((run (.vcEnd 0 0) (vcS (fmtV 0x25 0 0 0 0 0 0 0 0) {} (ctl0 0 .idle))).flt.recs.map (·.code)) = [6] := by decide +kernel

/-! ### Matrix cores -/

/-- TILE of shape 2 (32 by 32), slot 0, INIT 1, FP32 operands. -/
def dTile : Nat := 1 + 2 * 2 ^ 8 + 2 ^ 11 + 2 ^ 19
/-- A tile of that TILE word in force; two operand halves of one row of 64 bytes. -/
def mcTile : McSt := { ndesc := 4, tile := BitVec.ofNat 128 dTile, slots := [(0, { owner := some 0 })],
                       halves := [(0, { rows := 1, rb := 64 }), (2, { rows := 1, rb := 64 })] }

/-- A reserved opcode and a descriptor that fails a check (R130): opcode 8, a shape of 5. -/
theorem witness_matrix_refusals :
    (mcS 8).m.issues 0 0 = true ∧ dOp ((mcS 8).m.mcSees 0).d = 8 ∧ (mcS 8).m.mc 0 = { ndesc := 1 } ∧
    ((run (.tile 0) (mcS 8)).mc 0).fault = 1 ∧ ((run (.tile 0) (mcS 0)).mc 0).fault = 1 ∧
    (let s := mcS (1 + 5 * 2 ^ 8 + 2 ^ 11 + 2 ^ 19) { ndesc := 1 } (ctl0 0 (.started 0))
     mcCheck (tileCause (s.m.mcSees 0)) 1 (s.m.mcSees 0) = some 2 ∧ ((run (.tile 0) s).mc 0).fault = 2 ∧
       run (.loadA 0) s = s.m) := by decide +kernel

/-- TILE at the start of its block. -/
theorem witness_tile :
    let s := mcS dTile { ndesc := 1 } (ctl0 0 (.started 0))
    s.m.mcReady 0 1 (.started 0) tileCause ∧ cCompact (s.m.imgOf 0) = false ∧ ((run (.tile 0) s).mc 0).tile = BitVec.ofNat 128 dTile := by
  unfold Mod.mcReady; decide +kernel

/-- LOAD.A from the store, LOAD.B transposed (16 rows of one FP32 column group), LOAD.A of one token from a queue. -/
theorem witness_load :
    let a := 3 + 2 ^ 32 * 64 + 2 ^ 87 * 64
    let b := 4 + 2 ^ 8 + 2 ^ 32 * 64 + 2 ^ 77 * 15 + 2 ^ 87 * 64
    let q := 3 + 2 ^ 9 + 2 ^ 87 * 64
    let ct := ctl0 0 (.inside 0)
    let g : Grid := { inqs := [(0, { router := [tok [5]] })] }
    (mcS a mcTile ct).m.mcReady 0 3 (.inside 0) (loadCause 0) ∧ (mcS b mcTile ct).m.mcReady 0 4 (.inside 0) (loadCause 1) ∧
    (mcS q mcTile ct g).m.mcReady 0 3 (.inside 0) (loadCause 0) ∧ mcTile.pend = [] ∧
    (loadF 0 a {}).src = 0 ∧ (loadF 1 b {}).src = 1 ∧ (loadF 0 q {}).src = 2 ∧
    ((mcS q mcTile ct g).m.inq (qid 0 0)).router = [tok [5]] ++ [] ∧ (loadF 0 q {}).rows * (loadF 0 q {}).rb / 64 = 1 ∧
    (tok [5]).takeable 0 = true ∧ (tok [5]).tok.words.length ≤ 16 := by
  unfold Mod.mcReady; decide +kernel

/-- MMA with KV of 1 on one element, and with KV of 0. -/
theorem witness_mma :
    (mcS (5 + 2 ^ 68) mcTile).m.mcReady 0 5 (.inside 0) mmaCause ∧ (mcS 5 mcTile).m.mcReady 0 5 (.inside 0) mmaCause ∧
    slice mcTile.tw 10 8 < 5 ∧ (mmaF (5 + 2 ^ 68) {}).kv ≠ 0 ∧ (mmaF 5 {}).kv = 0 ∧
    ((run (.mma 0) (mcS 5 mcTile)).mc 0).emptyRed = 1 := by
  unfold Mod.mcReady; decide +kernel

/-- R109: 1.0 times 2.0 added to a slot at zero. -/
theorem test_mma :
    let mc : McSt := { mcTile with halves := [(0, { rows := 1, rb := 64, data := mWrite [] 0 (leBytes 4 0x3F800000) }),
                                              (2, { rows := 1, rb := 64, data := mWrite [] 0 (leBytes 4 0x40000000) })] }
    ((run (.mma 0) (mcS (5 + 2 ^ 68) mc)).mc 0).elem 0 0 0 = 0x40000000#32 := by decide +kernel

/-- DRAIN of one row to the store and to a queue of room enough (32 FP32 values: two tokens). -/
theorem witness_drain :
    let hs := 6 + 2 ^ 40 * 1024
    let q := 6 + 2 ^ 11
    let g : Grid := { outqs := [(0, { bind := .unicast 24 false })] }
    (mcS hs mcTile).m.mcReady 0 6 (.inside 0) drainCause ∧ (mcS q mcTile ctl0 g).m.mcReady 0 6 (.inside 0) drainCause ∧
    (drainF hs {}).dst = 0 ∧ (drainF q {}).dst = 1 ∧ ((mcS q mcTile ctl0 g).m.outq 0).bind = .unicast 24 false ∧
    (1 * 32 * 4 + 63) / 64 ≤ ((mcS q mcTile ctl0 g).m.inq 24).credit ∧
    (run (.drain 0) (mcS q mcTile ctl0 g)).grid.flights.length = 2 := by
  unfold Mod.mcReady; decide +kernel

/-- SIGNAL with its room; LOOP over one descriptor; a block past its END. -/
theorem witness_signal_loop_end :
    let g : Grid := { outqs := [(0, { bind := .unicast 24 false, room := 1 })] }
    let p : McPend := { unit := 0, desc := 3, off := {}, done := 0 }
    let loop := mcS (2 + 2 ^ 8 + 2 ^ 16) mcTile (ctl0 2)
    (mcS (7 + 2 ^ 10 * 3) mcTile ctl0 g).m.mcReady 0 7 (.inside 0) signalCause ∧
    (mcS (7 + 2 ^ 17) { mcTile with pend := [p] } ctl0 g).m.mcReady 0 7 (.inside 0) signalCause ∧
    loop.m.mcReady 0 2 (.inside 0) mcLoopCause ∧ ((run (.mcLoop 0) loop).ctl 0).pc = 1 ∧
    ((mcS 0 mcTile (ctl0 0 (.ending 0))).m.ctl 0).phase = .ending 0 ∧ (mcS 0 mcTile (ctl0 0 (.ending 0))).m.live 0 0 = true ∧
    ((run (.mcBlockEnd 0) (mcS 0 mcTile (ctl0 0 (.ending 0)))).ctl 0).phase = .idle := by
  unfold Mod.mcReady; decide +kernel

/-- A TILE in compact mode of a slot that another set holds, of one whose record is kept, of one of the block's own set, of a fresh one
(R115, R231, R232). -/
theorem witness_compact_tile :
    let cm := fun (o : Option Nat) (dir : List SpillRec) (init : BitVec 64) =>
      ({ m := withCord (mcS (dTile - 2 ^ 19) { ndesc := 1, slots := [(0, { owner := o, init := init })], dir := dir } (ctl0 0 (.started 0))).m
          (cordOf 2 []) } : State)
    let rec0 : SpillRec := { set := 0, slot := 0, int32 := true }
    let t := fun s => (run (.tile 0) s).mc 0
    (cm (some 5) [] 0).m.mcReady 0 1 (.started 0) tileCause ∧ cCompact ((cm (some 5) [] 0).m.imgOf 0) = true ∧
    slice (dTile - 2 ^ 19) 18 11 = 2 ^ 0 ∧ slice (dTile - 2 ^ 19) 20 19 = 0 ∧ (t (cm (some 5) [] 0)).dir = [{ set := 5, slot := 0, int32 := false }] ∧
    ((t (cm none [rec0] 0)).slot 0).int32 = true ∧ recPos [rec0] 0 0 = some 0 ∧ ((t (cm (some 0) [] 9)).slot 0).init = 9 ∧
    ((t (cm none [] 0)).slot 0).init = BitVec.allOnes 64 := by
  unfold Mod.mcReady; decide +kernel

/-- Behind a LOAD that waits for its token a LOAD of the unit and an MMA of its half queue up, a fourth LOAD does not (R116, R129). -/
theorem witness_matrix_queues :
    let p : McPend := { unit := 0, desc := BitVec.ofNat 128 (3 + 2 ^ 9 + 2 ^ 87 * 64), off := {}, done := 0 }
    let la := 3 + 2 ^ 32 * 64 + 2 ^ 87 * 64
    let s := fun (d n : Nat) => mcS d { mcTile with pend := List.replicate n p }
    (s la 3).m.mcReady 0 3 (.inside 0) (loadCause 0) ∧ (s la 1).m.mcReady 0 3 (.inside 0) (loadCause 0) ∧
    (s (5 + 2 ^ 68) 1).m.mcReady 0 5 (.inside 0) mmaCause ∧ (loadF 0 p.desc.toNat p.off).src = 2 ∧
    p.done < (loadF 0 p.desc.toNat p.off).rows * (loadF 0 p.desc.toNat p.off).rb / 64 ∧
    (loadF 0 p.desc.toNat p.off).half = (mmaF (5 + 2 ^ 68) {}).ah ∧ run (.loadA 0) (s la 3) = (s la 3).m ∧
    ((run (.loadA 0) (s la 1)).mc 0).pend.length = 2 ∧ ((run (.mma 0) (s (5 + 2 ^ 68) 1)).mc 0).pend.length = 2 ∧
    ((run (.mma 0) (s (5 + 2 ^ 68) 1)).ctl 0).pc = 1 := by
  unfold Mod.mcReady; decide +kernel

/-- With KV = 0 an MMA completes behind two that wait; with three it stays. A DRAIN to a queue with no room waits in its unit (R126, R133). -/
theorem witness_empty_mma_and_waiting_drain :
    let p : McPend := { unit := 3, desc := BitVec.ofNat 128 (5 + 2 ^ 68), off := {}, done := 0 }
    let s := fun (n : Nat) => mcS 5 { mcTile with pend := List.replicate n p }
    let q := mcS (6 + 2 ^ 11) mcTile ctl0 { outqs := [(0, { bind := .unicast 24 false })], inqs := [(24, { credit := 0 })] }
    (s 2).m.mcReady 0 5 (.inside 0) mmaCause ∧ (s 3).m.mcReady 0 5 (.inside 0) mmaCause ∧
    ((run (.mma 0) (s 2)).mc 0).emptyRed = 1 ∧ ((run (.mma 0) (s 2)).mc 0).pend.length = 2 ∧ ((run (.mma 0) (s 2)).ctl 0).pc = 1 ∧
    run (.mma 0) (s 3) = (s 3).m ∧
    q.m.mcReady 0 6 (.inside 0) drainCause ∧ q.m.roomFor 0 1 = false ∧ cStatic (q.m.imgOf 0) = false ∧
    ((run (.drain 0) q).mc 0).pend.length = 1 ∧ ((run (.drain 0) q).ctl 0).pc = 1 := by
  unfold Mod.mcReady; decide +kernel

/-! ### Firing, queues, engines -/

/-- Scalar core 0 outside a block, with a program of two blocks: the first takes one token, the second none. -/
def fireS (qs : List QTok := []) : State :=
  { m := base { ctls := [(5, ctl0 0 .idle)], inqs := [(20, { router := qs })],
                scs := [(5, { prog := [fmtF 0x33 1 0 0 0, fmtA 0x34 0 0 0, fmtF 0x33 0 0 0 0, fmtA 0x34 0 0 0] })] } }

/-- A core whose first block is not ready and whose second is; one that has its token; one with no ready block (R177, R178). -/
theorem witness_block_start :
    let s := fireS
    s.m.live 0 5 = true ∧ (s.m.ctl 5).phase = .idle ∧ (s.m.ctl 5).wait = .none ∧ cStatic (s.m.imgOf 0) = false ∧
    ¬ isReady s.m 0 5 0 ∧ isReady s.m 0 5 1 ∧ isReady (fireS [tok []]).m 0 5 0 ∧
    ((run (.blockStart 0 5) s).ctl 5).phase = .started 1 ∧ ((run (.blockStart 0 5) (fireS [tok []])).ctl 5).phase = .started 0 ∧
    (let n : State := scS (fmtF 0x33 1 0 0 0) {} (ctl0 0 .idle)
     (n.m.blocks 0 5).length = 1 ∧ ¬ isReady n.m 0 5 0 ∧ run (.blockStart 0 5) n = n.m) := by
  unfold isReady roomFound; decide +kernel

/-- A static cord with one schedule entry of core 5 that names block 0, in three situations: the start, a missing token, a core
still inside its block (R183, R184). -/
theorem witness_schedule :
    let c := cordOf 1 [(8, 2, leBytes 32 0 ++ leBytes 32 (6 + 2 ^ 17 * 5 + 2 ^ 24 * 64 + 2 ^ 41))]
    let st := fun (w : Word) (ph : Phase) =>
      ({ m := withCord (scS w {} (ctl0 0 ph)).m c } : State)
    let s := st (fmtF 0x33 0 0 0 0) .idle
    s.m.live 0 5 = true ∧ cStatic (s.m.imgOf 0) = true ∧ s.m.schedEntry 0 5 (s.m.ctl 5).sched = some 0 ∧
    ((run (.schedEntryStart 0 5) s).ctl 5).phase = .started 0 ∧
    ((run (.schedEntryStart 0 5) (st (fmtF 0x33 1 0 0 0) .idle)).flt.recs.map (fun r => (r.cls, r.code))) = [(3, 1)] ∧
    ((run (.schedEntryStart 0 5) (st (fmtF 0x33 0 0 1 0) .idle)).flt.recs.map (fun r => (r.cls, r.code))) = [(3, 2)] ∧
    ((run (.schedEntryStart 0 5) (st (fmtF 0x33 0 0 0 0) (.inside 0))).flt.recs.map (fun r => (r.cls, r.code))) = [(3, 3)] := by
  decide +kernel

/-- A VSEGR and a LOAD that wait for one token, with it and without it (R97, R118, R180). -/
theorem witness_wait :
    let w := fmtS 0x0B 4 1 0 0 0 0 0 5 0
    let v := fun (qs : List QTok) => vcS w {} { ctl0 with wait := .segr 1 0 }
      { inqs := [(4, { router := qs })], outqs := [(4, { bind := .unicast 24 false })] }
    let p : McPend := { unit := 0, desc := BitVec.ofNat 128 (3 + 2 ^ 9 + 2 ^ 87 * 64), off := {}, done := 0 }
    let l := fun (qs : List QTok) => mcS 0 { mcTile with pend := [p] } ctl0 { inqs := [(0, { router := qs })] }
    (v []).m.live 0 (coreVc 0) = true ∧ ((v []).m.ctl 1).wait = .segr 1 0 ∧ nth 0 ((v []).m.vc 1).prog ((v []).m.vcPc 0 0) = w ∧
    ((run (.inblockWaitResume 0 1) (v [tok []])).ctl 1).wait = .none ∧ ((run (.inblockWaitResume 0 1) (v [])).ctl 1).wait = .segr 1 0 ∧
    (l []).m.live 0 0 = true ∧ ((l []).m.mc 0).pend = [p] ∧ p.unit < 2 ∧ (loadF 0 p.desc.toNat p.off).src = 2 ∧
    (loadF 0 p.desc.toNat p.off).scl = false ∧
    p.done + [tok [5]].length = (loadF 0 p.desc.toNat p.off).rows * (loadF 0 p.desc.toNat p.off).rb / 64 ∧
    ((run (.inblockWaitResume 0 0) (l [tok [5]])).mc 0).pend = [] ∧ ((run (.inblockWaitResume 0 0) (l [])).mc 0).pend = [p] := by
  decide +kernel

/-- R168: bit 31 belongs to the generation, bit 22 is end-of-tile. -/
theorem test_header : ({ seq := 1, eot := true, tag := 2, gen := 3 } : Token).hdr = 0xC2400001#32 := by decide

/-- A token for a queue, by its generation: entered (15 and 16 held), early, stale (R173, R237). -/
theorem witness_token_arrives :
    let f := fun (g : BitVec 2) => ({ target := 20, tok := { tok := { gen := g }, prod := 9 } } : Flight)
    let s := fun (g : BitVec 2) (n : Nat) => ({ m := base { flights := [f g], inqs := [(20, { depth := 8, router := List.replicate n (tok []) })] } } : State)
    (s 0 0).m.dieRuns (hDie (qHearth 20)) = true ∧ (s 0 0).m.grid.flights = [] ++ f 0 :: [] ∧
    ((run (.tokenArrival 9 20) (s 0 15)).inq 20).router.length = 16 ∧ ((run (.tokenArrival 9 20) (s 0 16)).inq 20).spill.length = 1 ∧
    ((run (.tokenArrival 9 20) (s 1 0)).inq 20).router.length = 1 ∧ ((run (.tokenArrival 9 20) (s 2 0)).inq 20).router = [] ∧
    ((run (.tokenArrival 9 20) (s 2 0)).hearth 0).stale.length = 1 ∧ ((run (.tokenArrival 9 20) (s 3 0)).inq 20).back = 1 := by
  decide +kernel

/-- R174, R175, R189, R236 on one queue and one tree. -/
theorem test_queue_upkeep :
    let q := fun (x : InQ) => ({ m := base { inqs := [(20, x)], trees := [(0, { credit := 7, entered := [2, 1] })] } } : State)
    let mk : QTok := { tok := { tag := 0x3F, eot := true }, prod := 9 }
    ((run (.spillRefill 20) (q { depth := 8, spillNo := 1, router := List.replicate 15 (tok []), spill := [tok []] })).inq 20).router.length = 16 ∧
    ((run (.creditReturn 20) (q { back := 1, credit := 3 })).inq 20).credit = 4 ∧
    ((run (.treeCreditReturn 0) (q {})).tree 0).credit = 8 ∧ ((run (.treeCreditReturn 0) { m := run (.treeCreditReturn 0) (q {}) }).tree 0).credit = 8 ∧
    ((run (.markerRemove 20) (q { router := [mk] })).inq 20).markers = [9] := by decide +kernel

/-- A split router that owes two tokens on a branch whose target has one credit (R188). -/
theorem witness_replication :
    let n : RepNode := { branches := [[0]], entries := [({ seq := 0 }, [(0, [0])]), ({ seq := 1 }, [(0, [0])])] }
    let s : State := { m := base { trees := [(0, { src := 7, targets := [(24, false)], nodes := [n] })], inqs := [(24, { credit := 1 })] } }
    n.entries = [({ seq := 0 } : Token), { seq := 1 }].map (fun t => (t, [(0, [0])])) ∧ nth [] n.branches 0 = [0] ∧
    (nth {} (s.m.tree 0).nodes 0).entries = n.entries ∧
    (run (.replicationForward 0 0) s).grid.flights.length = 1 ∧ (nth {} ((run (.replicationForward 0 0) s).tree 0).nodes 0).entries.length = 1 := by
  decide +kernel

/-- One request of each kind on the last declared word, and one past it (R35 to R44). -/
theorem witness_engine :
    let r := fun (a : Nat) (o : ReqOp) => ({ eng := 0, core := 5, idx := 3, addr := a, size := 4, th := 0, op := o } : Req)
    let s := fun (a : Nat) (o : ReqOp) => ({ m := base { hearths := [(0, { hearthAll with reqs := [r a o] })] } } : State)
    let go := fun (o : ReqOp) => run (.engineResponse 0 0 5) (s 131068 o)
    hearthAll.inRegion 131068 4 = true ∧ hearthAll.inRegion 131072 4 = false ∧ 0 < ((s 0 (.scatter [])).m.inq 20).credit ∧
    ((s 0 (.scatter [])).m.hearth 0).reqs = [] ++ r 0 (.scatter []) :: [] ∧ (s 0 (.scatter [])).m.coresRun = true ∧
    ((go (.gather 20 6)).inq 20).router.map (fun t => (t.tok.tag, t.tok.seq)) = [(6#6, 3#20)] ∧
    mGet ((go (.scatter [1, 2, 3, 4])).hearth 0).hs 131071 = 4#8 ∧ mGet ((go (.atomic false [1, 0, 0, 0])).hearth 0).hs 131068 = 1#8 ∧
    ((go (.cas 1 0 5)).sc 5).get 1 = 0 ∧ mGet ((go (.cas 1 0 5)).hearth 0).hs 131068 = 5#8 ∧
    ((run (.engineResponse 0 0 5) (s 131072 (.scatter []))).flt.recs.map (·.code)) = [9] := by decide +kernel

/-- Two unicast tokens of hearth 0 for hearth 1: one output, the older one granted, both there once the mesh has moved; the one behind, and
one on a stopped die, do not arrive yet (R251 to R253). -/
theorem witness_mesh :
    let f := fun (p : Nat) => ({ target := 532, tok := { tok := {}, prod := p } } : Flight)
    let m := base { flights := [f 20, f 24] }
    let o := (f 20).asks
    let z : Mod := { m with dieN := { run := .stopped } }
    (∀ g ∈ m.grid.flights, g.hop < g.hops.length) ∧ (f 24).asks = o ∧ o.2 < 1024 ∧ m.granted o = some 0 ∧
    (m.grantOut o 0 9).granted o = some 0 ∧ (∀ g ∈ m.meshOn.grid.flights, g.hop + 1 = g.hops.length) ∧ z.meshOn = z ∧
    ((run (.tokenArrival 20 532) { m := m }).inq 532).router.length = 1 ∧ run (.tokenArrival 20 532) { m := z } = z ∧
    ((run (.tokenArrival 24 532) { m := m }).inq 532).router.length = 0 := by decide +kernel

/-- An undrained queue is closed to its successor's tokens (R236). -/
theorem witness_forward_closed :
    let n : RepNode := { branches := [[0]], entries := [({ gen := 1 }, [(0, [0])])] }
    let s : State := { m := base { trees := [(0, { src := 7, targets := [(24, false)], nodes := [n] })], inqs := [(24, { credit := 1 })] } }
    s.m.opens 24 1 = false ∧ s.m.opens 24 0 = true ∧ (run (.replicationForward 0 0) s).grid.flights = [] := by decide +kernel

/-- A branch that divides again two hearths on: the token goes while the next buffer has a place, and waits where it is full (R188, R252). -/
theorem witness_forward_ahead :
    let ts := [(512 * 64 + 20, false), (512 * 2 + 20, false), (512 * 66 + 20, false)]
    let tr : Tree := { src := 20, targets := ts, entered := [0, 0, 0], nodes := (splitNodes 0 ts).map fun n =>
      if n.router = 0 then { n with entries := [({}, [(1, [1])])] } else n }
    let n := nth {} tr.nodes 0
    let f := tr.flight 3 {} 0 [1]
    let s := fun (k : Nat) => ({ m := base { trees := [(3, tr)], flights := List.replicate k f.next } } : State)
    let t := fun (k : Nat) => run (.replicationForward 3 0) (s k)
    n.router = 0 ∧ n.entries.length = 1 ∧ tr.splitsAhead f = true ∧ f.roomIn (s 0).m.grid.flights = true ∧
    (t 0).grid.flights.length = 1 ∧ (nth {} ((t 0).tree 3).nodes 0).entries = [] ∧
    f.roomIn (s 3).m.grid.flights = true ∧ f.roomIn (s 4).m.grid.flights = false ∧ (t 4).grid.flights.length = 4 ∧ (nth {} ((t 4).tree 3).nodes 0).entries = n.entries := by
  decide +kernel

/-- A token for a remote window joins those that wait for a batch at its gateway (R391). -/
theorem witness_gate :
    let f : Flight := { target := prodRem 7, tok := { tok := { tag := 9 }, prod := 20 } }
    let s : State := { m := base { flights := [f] } }
    let g := s.m.meshOn.grid.flights
    isGate (prodRem 7) = true ∧ isGate 20 = false ∧ g.map (fun f => f.hop + 1) = g.map (fun f => f.hops.length) ∧
    ((tGet {} (run (.tokenArrival 20 (prodRem 7)) s).rem.out 7).waiting.map (·.tag)) = [9#6] ∧
    (run (.tokenArrival 20 (prodRem 7)) s).grid.flights = [] := by decide +kernel

/-! ### Events, hearth faults, the dies -/

/-- R482: the first event of the module takes sequence number 1. -/
theorem test_event : (({} : Mod).event 0x8202 5 6).log = { ring := [{ seq := 1, time := ({} : Mod).time, code := 0x8202, d0 := 5, d1 := 6 }], next := 2 } := by
  decide +kernel

/-- The scrub pointer wraps after 2,048 granules and the pass counts, in a hearth and in the unused spare column (R48). -/
theorem witness_scrub :
    let s : State := { m := base { hearths := [(0, { scrub := 2047 })] } }
    let go := fun (h : BitVec 13) spare found => run (.patrolScrubGranule h spare found) s
    s.m.pow.state ≠ .off ∧ s.m.pow.state ≠ .kindling ∧ s.m.dieRuns (hDie 0) = true ∧
    ((go 0 false 1).hearth 0).scrub = 0 ∧ ((go 0 false 1).hearth 0).passes = 1 ∧
    ((go 0 false 1).hearth 0).ce = 1 ∧ ((go 0 false 2).die 0).f = 0 ∧
    (go 64 true 1).dieN.spares = [(1, { scrub := 1, ce := 1 })] ∧ (go 64 true 1).physWord 0 1 64 = 256 ∧
    (go 0 true 2).dieN.sound = false := by decide +kernel

/-- A column map that takes column 62: logical column 63 lies on the spare and has its counts, logical column 62 those of
physical column 63 (R53, R60). -/
theorem test_remap_moves :
    let g : Grid := { hearths := [(63, { ce := 5, stall := 9 })] }
    let m : Mod := { base g with dieN := { spares := [(0, { ce := 7 })] } }
    (m.remap 0 62 []).hearth 63 = { ce := 7 } ∧ (m.remap 0 62 []).hearth 62 = { ce := 5 } ∧
    ((m.remap 0 62 []).unmap 0).dieN.spares = [(0, { ce := 7 })] ∧ ((m.remap 0 62 []).unmap 0).hearth 63 = { ce := 5 } := by
  decide +kernel

/-- A first fault of a die with a sound spare takes the column, a second one does not (R53, R58, R59). -/
theorem witness_hearth_fault :
    (base).pow.state ≠ .off ∧ (base).dieRuns 0 = true ∧ ((base).die 0).f = 64 ∧ ((base).die 0).sound = true ∧
    ((run (.hearthFault [(3, 1)]) { m := base }).die 0).f = 3 ∧
    ({ base with dieN := { f := 9 } } : Mod).dieRuns 0 = true ∧ (({ base with dieN := { f := 9 } } : Mod).die 0).f ≠ 64 ∧
    ((run (.hearthFault [(3, 1)]) { m := { base with dieN := { f := 9 } } }).die 0).f = 9 ∧ hDie 4095 = 0 ∧ hDie 4096 = 1 := by decide +kernel

/-- Three hearths stall: the first reaches the limit, the second stands at it too and is dumped with it, the third keeps its own
count; with 64 records kept no other is, and while the counters are frozen no fault is raised (R192 to R194). -/
theorem witness_stall :
    let g : Grid := { inqs := [(20, { router := [tok []] }), (532, { router := [tok []] }), (1044, { router := [tok []] })], ctls := [(133, { placed := true })] }
    let c : Instr := .stallFault 0 [(1, 65536#17), (2, 5#17), (3, 65536#17)]
    let m := base g
    m.coresRun = true ∧ m.flt.frozen = false ∧ m.stalls 0 = true ∧ m.stalls 1 = true ∧ m.stalls 2 = true ∧ m.stalls 3 = false ∧
    (run c { m := m }).flt.recs.map (fun r => (r.cls, r.hearth, r.mbs.length)) = [(4, 0, 0)] ∧
    ((run c { m := m }).hearth 1).stall = 65536#17 ∧ ((run c { m := m }).hearth 2).stall = 5#17 ∧
    (run c { m := m }).cord.dumps = m.dumpHearth 0 ++ m.dumpHearth 1 ∧ (run c { m := m }).cord.dumps ≠ [] ∧
    (run c { m := { m with flt := { kept := 64 } } }).flt.recs = [] ∧
    run c { m := { m with flt := { frozen := true } } } = { m with flt := { frozen := true } } := by decide +kernel

/-- Recorded faults before the vote, after it, and in a rerun (R196 to R198). -/
theorem witness_core_fault :
    let m := fun (re v : Bool) => ({ base with train := { running := true, voted := v }, flt := { hit := re, recs := [{ cls := 1, code := 1, hearth := 0, core := 5, hlevel := false, rerun := re, pc := 0, tick := 0, mb := none }] } } : Mod)
    (m false false).flt.recs ≠ [] ∧ (run .coreFault { m := m false true }) = m false true ∧
    (run .coreFault { m := m true false }).pow.state = .fault ∧ (run .coreFault { m := m false false }).pow.state = .running ∧
    (run .coreFault { m := m false false }).train.rerun = true := by decide +kernel

/-- A ring stop with four stale events and the overrun; one on a stopped die (R237, R261). -/
theorem witness_ring :
    let e : StaleEv := { queue := 20, gen := 1, tag := 2 }
    let s : State := { m := { base { hearths := [(0, { urgent := true, stale := [e, e, e, e] })] } with cross := { ovrHearth := true } } }
    (s.m.hearth 0).urgent = true ∧ (s.m.die (hDie 0)).run ≠ .stopped ∧ (s.m.hearth 0).stale.length = 4 ∧ s.m.cross.ovrHearth = true ∧
    (run (.ringUrgent 0) s).log.next = 6 ∧ ((run (.ringUrgent 0) s).hearth 0).urgent = false ∧
    run (.ringUrgent 0) { m := { s.m with dieN := { run := .stopped } } } = { s.m with dieN := { run := .stopped } } := by decide +kernel

/-- R266: the last place of each FIFO, and a full one. -/
theorem test_crossing :
    let m := fun (n : Nat) => ({ base with cross := { power := List.replicate n 0, therm := List.replicate n 0, pps := List.replicate n 0 } } : Mod)
    (run (.crossingEvent 0 1 false) { m := m 63 }).cross.power.length = 64 ∧ (run (.crossingEvent 0 1 false) { m := m 64 }).cross.ovrPower = true ∧
    (run (.crossingEvent 1 1 false) { m := m 15 }).cross.therm.length = 16 ∧ (run (.crossingEvent 1 1 false) { m := m 16 }).cross.cntTherm = 1 ∧
    (run (.crossingEvent 2 1 false) { m := m 1 }).cross.pps.length = 2 ∧ (run (.crossingEvent 2 1 false) { m := m 2 }).cross.cntPps = 1 := by
  decide +kernel

/-- A die that drains, with and without a retirement in progress and a pending start; one that starts (R271 to R273). -/
theorem witness_die :
    let m := fun (r : DieRun) (p : Bool) => ({ base with dieN := { run := r, pend := p, want := 7 } } : Mod)
    let ret : RetRun := { l := 0, f := 1, pset := 0, chan := 0, why := 0 }
    ((run (.dieStopDone 0) { m := m .draining false }).die 0).run = .stopped ∧
    ((run (.dieStopDone 0) { m := m .draining true }).die 0).run = .starting ∧
    ((run (.dieStopDone 0) { m := { m .draining false with hbm := { ret := some ret } } }).die 0).run = .draining ∧
    ((run (.dieDrainTimeout 0 3) { m := m .draining false }).die 0).run = .running ∧
    ((run (.dieStartDone 0) { m := m .starting false }).die 0).k = 7 := by decide +kernel

/-! ### The tick -/

/-- A module whose local generator runs, before the boundary of a quiet tick; a stopped generator (R376). -/
theorem witness_quiet_boundary :
    let m : Mod := { base { hearths := [(0, { rep := [(0, 5)] })] } with tick := { gen := true, began := true }, dieN := { req := some 9 } }
    m.tick.gen = true ∧ m.tick.src = 0 ∧ m.tick.began = true ∧ m.tick.hold = false ∧ m.pow.state = .running ∧ m.train.running = true ∧
    m.train.stop = none ∧ m.train.flipDue = none ∧ m.train.andDue = false ∧ (∀ h ∈ m.placed, m.busy h = false) ∧
    m.tick.k + 1 ≠ cStepTicks m.img ∧ m.mbSlots (m.tick.k + 1) = [] ∧ m.tick.ppsEn = false ∧ m.train.departDue = false ∧
    m.clus.lossDue = [] ∧ m.rem.out = [] ∧ m.settleK = m ∧ m.hbm.ret = none ∧ m.exch.held = [] ∧ m.clus.held = [] ∧ m.clus.pairFail = none ∧
    m.rem.inb = [] ∧ tWf {} m.grid.hearths = true ∧ ((run (.tickBoundary [] 0 0) { m := m }).die 0).k = 9 ∧
    ((run (.tickBoundary [] 0 0) { m := m }).hearth 0).repPrev = [(0, 5)] ∧ (run (.tickBoundary [] 0 0) { m := m }).tick.now = 500000 ∧
    (base).tick.gen = false := by decide +kernel

/-- A tick-staged queue of a running die, one that is not staged, and one of a stopped die (R227). -/
theorem test_boundary_delivered :
    let x : InQ := { staged := true, router := [{ vis := false }] }
    let m : Mod := { base { inqs := [(20, x), (4096 * 512, x)], ctls := [(5, { sched := 3 })] } with dieS := { run := .stopped } }
    (m.deliverTick.inq 20).router = [{ vis := true }] ∧ m.deliverTick.inq (4096 * 512) = x ∧ (m.deliverTick.ctl 5).sched = 0 := by decide +kernel

/-- R264: a quiet hearth contributes 1, one with an outstanding request 0. -/
theorem test_commit_leaf : (base).commitLeaf 0 = true ∧
    (base { hearths := [(0, { reqs := [{ eng := 0, core := 5, idx := 0, addr := 0, size := 4, th := 0, op := .scatter [] }] })] }).commitLeaf 0 = false := by
  decide +kernel

/-- R243: a DIGESTS entry of tick 0 and one of tick 1 of a step of two ticks; past the step's ticks there is none. -/
theorem test_digest_entries :
    let sect := (List.range 256).flatMap fun i => leBytes 16 (i + 7)
    let m := withCord base (cordOf (2 ^ 33) [(0x13, 256, sect)])
    m.digestEnt 0 3 = 10 ∧ m.digestEnt 1 3 = 138 ∧ (m.digTick 1).ents.length = 128 ∧ (m.digTick 2).ents = [] := by decide +kernel

/-- A module that keeps tick 0, to compare with the digests `want`. -/
def digM (want : Nat → Nat) (act : Nat := 0) (compact : Bool := false) (t : TrainSt → TrainSt := id) : Mod :=
  let m := withCord base (cordOf (2 ^ 32) [])
  { m with train := t { m.train with prevK := some 0, prevDig := { ents := (List.range 128).map want, compact := compact, act := act } } }

theorem digM_ents (want : Nat → Nat) (act : Nat) (c : Bool) : (digM want act c).train.prevDig.ents = (List.range 128).map want := rfl
theorem digM_digest (want : Nat → Nat) (act : Nat) (c : Bool) (g : Nat) : (digM want act c).groupDigest g 0 = base.groupDigest g 0 := rfl

theorem nth_range_map (f : Nat → Nat) (n g : Nat) (h : g < n) : nth 0 ((List.range n).map f) g = f g := by
  simp [nth, h]

/-- The groups that differ, for any digests D and those that are d above them. -/
theorem digests_differ (D : Nat → BitVec 64) (d : Nat) (hd : d < 2) :
    let bad := ((List.range 128).map fun g => (g, (D g).toNat)).filter fun p =>
      p.2 ≠ slice (nth 0 ((List.range 128).map fun g => (D g + BitVec.ofNat 64 d).toNat) p.1) 63 0
    (d = 0 → bad = []) ∧ (d = 1 → bad ≠ []) := by
  have h2 : ∀ g < 128, slice (nth 0 ((List.range 128).map fun g => (D g + BitVec.ofNat 64 d).toNat) g) 63 0 =
      (D g + BitVec.ofNat 64 d).toNat := by
    intro g hg
    rw [nth_range_map _ _ _ hg]
    simp [slice]
  refine ⟨fun h => ?_, fun h => ?_⟩
  · subst h
    simp only [List.filter_eq_nil_iff, List.mem_map, List.mem_range]
    rintro _ ⟨g, hg, rfl⟩
    simp only [h2 g hg]
    simp
  · subst h
    have hm : (0, (D 0).toNat) ∈ (List.range 128).map fun g => (g, (D g).toNat) := List.mem_map.mpr ⟨0, by simp, rfl⟩
    intro hb
    have h := List.filter_eq_nil_iff.mp hb _ hm
    simp only [h2 0 (by omega)] at h
    have h : (D 0).toNat = (D 0 + 1#64).toNat := by simpa using h
    rw [BitVec.toNat_add] at h
    have := (D 0).isLt
    simp at h
    omega

/-- Every group agrees; every group differs (R245). -/
theorem witness_digests (d : Nat) (hd : d < 2) :
    let m := digM fun g => (base.groupDigest g 0 + BitVec.ofNat 64 d).toNat
    let bad := ((List.range 128).map fun g => (g, (m.groupDigest g 0).toNat)).filter fun p => p.2 ≠ slice (nth 0 m.train.prevDig.ents p.1) 63 0
    (d = 0 → bad = []) ∧ (d = 1 → bad ≠ []) := by
  simp only [digM_digest, digM_ents]
  exact digests_differ (fun g => base.groupDigest g 0) d hd

/-- The other cases: none kept, no cord, no entries, compact mode, a waived tick, a mismatch that voids the step, one in a rerun (R245, R246). -/
theorem witness_digest_cases :
    let w := fun (_ : Nat) => 0
    (base).train.prevK = none ∧ (digM w).cord.inst ≠ none ∧ (digM w).train.prevDig.ents ≠ [] ∧ (digM w).idleWaive = false ∧
    (digM w 0 true).train.prevDig.compact = true ∧ (digM w 0 false fun t => { t with prevWaive := true }).train.prevWaive = true ∧
    (run .digestCompare { m := digM w 0 false fun t => { t with prevDig := {} } }).train.prevK = none ∧
    (digM w 1).train.prevStep = (digM w 1).train.step ∧ (digM w 1).train.running = true ∧
    (digM w 1).mismatchAct.train.running = false ∧ (digM w 1).mismatchAct.train.rerun = true ∧
    (digM w 1 false fun t => { t with rerun := true }).mismatchAct.pow.state = .fault ∧
    ({ digM w 1 with flt := { hit := true } }).mismatchAct.pow.state = .fault := by
  decide +kernel

/-! ### HBM -/

/-- A region entry of HBMMAP: kind, base, length (R280). -/
def regEnt (kind base len : Nat) : List Byte := leBytes 32 (1 + 2 ^ 4 * kind + 2 ^ 16 * base + 2 ^ 64 * len)
/-- A cord with these HBMMAP entries. -/
def hbmCord (es : List (List Byte)) : List Byte := cordOf 0 [(0x11, es.length, es.flatten)]
/-- A LOAD of 64 bytes from HBM 0 to hearth 0's store, its token to queue 0 of core 5 (R287). -/
def mvEnt : Nat := 2 + 2 ^ 4 + 2 ^ 9 * 7 + 2 ^ 15 * 5 + 2 ^ 128 * 64

/-- A move in progress that may end, and one that waits for a place (R289, R291). -/
theorem witness_move :
    let m := fun (l : Bool) => ({ withCord base (hbmCord [leBytes 32 mvEnt]) with
      hbm := { mem := [(0, 9)], moves := [{ idx := 0, die := 0, live := l }] } } : Mod)
    let seg : SettleSeg := { src := 64, dst := 0, len := 64 }
    let w := fun (b : Bool) => ({ m true with hbm := { moves := [{ idx := 0, die := 0, live := true, waited := b }], settle := [seg] } } : Mod)
    let e := nth 0 (m true).hbmmap 0
    (m true).hbm.moves.find? (·.idx = 0) = some { idx := 0, die := 0, live := true } ∧ e = mvEnt ∧ (m true).moveWaits false e = false ∧
    (m true).dieClocks (hDie (mvHearth e)) = true ∧ (m true).dieClocks 0 = true ∧ 0 < ((m true).inq (mvQueue e)).credit ∧ mvRows e = 1 ∧ mvOp e = 1 ∧
    mGet ((run (.moveComplete 0) { m := m true }).hearth 0).hs 0 = 9#8 ∧
    (run (.moveComplete 0) { m := m true }).grid.flights.map (fun f => (f.target, f.tok.tok.tag)) = [(20, 7#6)] ∧
    run (.moveComplete 0) { m := m false } = m false ∧
    (w false).moveWaits false e = true ∧ (run (.moveComplete 0) { m := w false }).hbm.settleWait = 1 ∧
    (run (.moveComplete 0) { m := w true }).hbm.settleWait = 0 := by decide +kernel

/-- R288: two rows of two one-byte elements turn. -/
theorem test_transposition : column [[1, 2], [3, 4]] 1 0 = [1, 3] ∧ column [[1, 2], [3, 4]] 1 1 = [2, 4] := by decide +kernel

/-- R289: the 17th move of a die waits, the first of the other goes. -/
theorem test_move_places :
    let l := (List.range 17).map (fun i => ({ idx := i, die := 0, live := false } : MoveRun)) ++ [{ idx := 99, die := 1, live := false }]
    (goLive 0 16 l).map (·.live) = List.replicate 16 true ++ [false, false] ∧ ((goLive 1 16 l).map (·.live)).getLast? = some true := by
  decide +kernel

/-- A scrubbed burst, its four findings, the last burst of a channel (R294, R295). -/
theorem witness_hbm_scrub :
    let m : Mod := { base with hbm := { selfRef := false, scrub := [(0, 31249999)] } }
    m.hbm.selfRef = false ∧ m.dieClocks 0 = true ∧ tGet 0 (run (.hbmScrubBurst 0 0) { m := m }).hbm.scrub 0 = 0 ∧
    ((run (.hbmScrubBurst 0 1) { m := m }).chan 0).ce = 1 ∧ ((run (.hbmScrubBurst 0 2) { m := m }).chan 0).ue = 1 ∧
    (base).hbm.selfRef = true := by decide +kernel

/-- The last address of HBM and the first past it; a second error of a channel retires its set (R294, R297). -/
theorem witness_ue :
    (run (.hbmUe 767999999999 1) { m := base }).hbm.bad = [767999999999 / 64] ∧ run (.hbmUe 768000000000 1) { m := base } = base ∧
    ((run (.hbmUe 0 0) { m := base }).chan 0).ce = 1 ∧ hbmReserved 382999999999 = false ∧ hbmReserved 383000000000 = true ∧ (base).regionKind 0 = 0 ∧
    (run (.hbmUe 0 2) { m := base }).hbm.ret.isSome = true := by decide +kernel

/-- A burst in each kind of region, paired or not (R296). -/
theorem witness_ue_regions :
    let m := fun (k : Nat) (side pr : Bool) => ({ withCord base (hbmCord [regEnt k 0 4096]) with
      hbm := { side := side }, clus := { pair := if pr then .paired else .unpaired } } : Mod)
    let seg : SettleSeg := { src := 0, dst := 8192, len := 128 }
    let sg : Mod := { m 13 false true with hbm := { settle := [seg] } }
    let sl : PeatSlot := { turf := some 3, landed := true, addr := 0 }
    let pt : Mod := { m 10 false false with peat := { slots := [(0, sl)] } }
    (m 1 true false).regionKind 0 = 1 ∧ (m 2 false false).regionKind 0 = 2 ∧ (m 3 false true).paired = true ∧ (m 3 false false).paired = false ∧
    (m 5 false false).ueRegion 0 = ({ m 5 false false with train := { running := true, regen := true } } : Mod).voidStep true ∧
    (m 6 false false).ueRegion 0 ≠ m 6 false false ∧ (m 13 false true).unsettledSrc 0 64 = false ∧ sg.unsettledSrc 0 64 = true ∧
    (sg.ueRegion 0).hbm.restore = [{ src := 0, dst := 8192, len := 64 }] ∧ ((pt.ueRegion 4095).peat.slots.map fun p => p.2.landed) = [false] ∧
    (m 5 false false).regionKind 4095 = 5 ∧ (m 5 false false).regionKind 4096 = 0 ∧ (m 6 false false).unsettledSrc 0 64 = false ∧
    ((m 3 false false).ueRegion 0).pow.state = .fault ∧ ((m 1 false true).ueRegion 0).train.rerun = true := by decide +kernel

/-- A channel with a free set, without one, already retired, and while another is being retired (R297 to R299). -/
theorem witness_retirement :
    let none' : Mod := { withCord base (hbmCord ((List.range 32).map fun j => regEnt 3 (24000000000 * j) 64)) with hbm := {} }
    let r : RetRun := { l := 0, f := 1, pset := 9, chan := 9, why := 0 }
    (base).freeSet 0 = some 1 ∧ none'.freeSet (none'.lsetOf (psetOf 0)) = none ∧ (base).hbm.ret = none ∧
    ({ base with hbm := { retired := [psetOf 0] } } : Mod).retireChan 0 1 = { base with hbm := { retired := [psetOf 0] } } ∧
    (({ base with hbm := { ret := some r } } : Mod).retireChan 0 1).hbm.retQ.length = 1 ∧
    (none'.retireChan 0 2).clus.departed = true ∧ (none'.retireChan 0 0).log.next = 2 ∧
    ((base).retireChan 0 0).hbm.ret.isSome = true ∧
    ({ base with hbm := { ret := some r } } : Mod).retireBoundary.hbm.ret = some { r with begun := true } ∧
    (run .hbmRetireCopyDone { m := { base with hbm := { ret := some r } } }).hbm.ret = some r ∧
    (run .hbmRetireCopyDone { m := { base with hbm := { ret := some { r with begun := true } } } }).hbm.ret =
      some { r with begun := true, copied := true } := by decide +kernel

/-- Sets 0 and 1: a region of the cord in set 0 keeps its bytes when they swap (R297, R298). -/
theorem witness_swap :
    let m : Mod := { withCord base (hbmCord [regEnt 3 0 64]) with hbm := { mem := [(5, 9)] } }
    m.covered 5 = true ∧ m.covered 64 = false ∧ mGet (m.swapMem 0 1) 5 = 9#8 := by decide +kernel

/-- Requests of engine 2 with and without a settle that holds their bytes, and without a credit (R308, R331). -/
theorem witness_engine_hbm :
    let r := fun (o : ReqOp) => ({ eng := 2, core := 5, idx := 0, addr := 64, size := 32, th := 0, op := o } : Req)
    let m := fun (o : ReqOp) (st : List SettleSeg) (c : Nat) =>
      ({ base { hearths := [(0, { reqs := [r o] })], inqs := [(20, { credit := c })] } with hbm := { settle := st } } : Mod)
    let seg : SettleSeg := { src := 64, dst := 64, len := 1 }
    let b := List.replicate 32 (7 : Byte)
    ((m (.scatter b) [] 1).hearth 0).oldest 2 5 = some (r (.scatter b)) ∧ (m (.scatter b) [] 1).dieRuns (hbmDie 64) = true ∧
    (m (.scatter b) [] 1).unsettledSrc 64 32 = false ∧ (m (.scatter b) [seg] 1).unsettledSrc 64 32 = true ∧
    (m (.gather 20 1) [seg] 1).unsettledDst 64 32 = true ∧
    mGet (run (.engineResponse 0 2 5) { m := m (.scatter b) [] 1 }).hbm.mem 95 = 7#8 ∧
    (run (.engineResponse 0 2 5) { m := m (.scatter b) [seg] 1 }).hbm.settleWait = 1 ∧
    ((run (.engineResponse 0 2 5) { m := m (.gather 20 1) [] 1 }).inq 20).router.length = 1 ∧
    (run (.engineResponse 0 2 5) { m := m (.gather 20 1) [seg] 1 }).hbm.settleWait = 1 ∧
    overlap 64 32 64 1 = true ∧
    (let w : Mod := { m (.gather 20 1) [] 1 with clus := { rewrite := [(64, 1)] } }
     (run (.engineResponse 0 2 5) { m := w }).hbm = w.hbm ∧ ((run (.engineResponse 0 2 5) { m := w }).inq 20).router = []) ∧
    run (.engineResponse 0 2 5) { m := m (.gather 20 1) [] 0 } = m (.gather 20 1) [] 0 := by decide +kernel

/-! ### The peat tier -/

/-- A slot that stages turf 3: its read has not begun, has begun, has landed (R309). -/
theorem witness_turf_lands :
    let m := fun (b l : Bool) => ({ base with peat := { slots := [(0, { turf := some 3, landed := l, begun := b })] } } : Mod)
    (m true false).slotOf 3 = some 0 ∧ (m true false).peat.state ≠ .off ∧ (m true false).peat.waitQ = [] ∧ ((m true false).pslot 0).begun = true ∧
    (m true false).slotOf 4 = none ∧ ((m true false).pslot 0).landed = false ∧ run (.turfLanded 3) { m := m true true } = m true true ∧
    run (.turfLanded 3) { m := m false false } = m false false := by decide +kernel

/-- Of three reads that wait on a channel the one of the demand begins, of two prefetches the one asked for first (R311). -/
theorem witness_next_read :
    let x := fun (t u : Nat) (d : Bool) => ({ turf := some t, used := u, demand := d } : PeatSlot)
    let m := fun (l : List (Nat × PeatSlot)) => ({ base with peat := { slots := l } } : Mod)
    (m [(0, x 1 4 false), (1, x 2 3 false), (2, x 5 9 true)]).nextRead 16 = some 2 ∧
    (m [(0, x 1 4 false), (1, x 2 3 false)]).nextRead 16 = some 1 ∧ (m []).nextRead 16 = none ∧
    tWf {} (m [(0, x 1 4 false), (1, x 2 3 false)]).peat.slots = true := by decide +kernel

/-- A PEAT_STAGE region of two slots: one free, none free, all pinned (R314). -/
theorem witness_staging :
    let c := cordOf 8 [(0x11, 1, regEnt 10 0 (16384 * 3)), (0x12, 1, leBytes 32 1)]
    let m := fun (l : List (Nat × PeatSlot)) => ({ withCord base c with peat := { slots := l } } : Mod)
    let full : List (Nat × PeatSlot) := [(0, { turf := some 1, landed := true, used := 9 }), (1, { turf := some 2, landed := true, used := 4 })]
    let pin : List (Nat × PeatSlot) := [(0, { turf := some 1, landed := true, dirty := true }), (1, { turf := some 2 })]
    (m full).nslots = 2 ∧ (m []).takeSlot = some 0 ∧ (m full).takeSlot = some 1 ∧ (m pin).takeSlot = none ∧
    tWf {} (m full).peat.slots = true ∧ (m full).slotOf 3 = none ∧ ((m full).pslot 1).turf ≠ none ∧
    ((m pin).stage 3 true []).peat.waitQ = [(3, true, [])] ∧ ((m pin).stage 3 true []).peat.noslot = 1 ∧
    (let w : Mod := { m pin with peat := { (m pin).peat with waitQ := [(3, false, [5])] } }
     (w.stage 3 true [6]).peat.waitQ = [(3, true, [5, 6])] ∧ (w.stage 3 true [6]).peat.noslot = 0) ∧
    (((m pin).stage 2 true [6]).pslot 1).listed = [6] ∧ (((m pin).stage 2 true [6]).pslot 1).demand = true := by decide +kernel

/-- A dirty slot with one turf in the bucket, one byte short of it, and while draining (R317, R319). -/
theorem witness_writeback :
    let m := fun (g : Int) (d : ModState) => ({ base with pow := { state := d, collier := true }, peat := { gov := g, slots := [(0, { turf := some 3, landed := true, dirty := true })] } } : Mod)
    (m 16384 .running).slotOf 3 = some 0 ∧ ((m 16384 .running).pslot 0).dirty = true ∧
    (run (.turfWritebackDone 3 0) { m := m 16383 .running }).peat.governed = true ∧
    run (.turfWritebackDone 3 0) { m := { m 0 .running with peat := { (m 0 .running).peat with governed := true } } } =
      { m 0 .running with peat := { (m 0 .running).peat with governed := true } } ∧ (m 16384 .draining).peat.state ≠ .off ∧
    -5600000000000 + 16384 ≤ (m (-5599999983616) .draining).peat.gov ∧ ¬ -5600000000000 + 16384 ≤ (m (-5599999983617) .draining).peat.gov ∧
    (run (.turfWritebackDone 3 0) { m := m (-5599999983617) .draining }).peat.governed = true := by decide +kernel

/-- A turf already in flash, and a fresh stripe for another on the same die (R305). -/
theorem witness_flash_places :
    let m : Mod := { base with peat := { locs := [(18, some { die := 0, turf := some 9, wcnt := 0, nonce := 0, tag := 0 })], map := [(9, some 18)] } }
    m.pickDie 0 = 0 ∧ (2 < 16 * (m.peat.locs.length + 1) ∧ 2 % 16 ≠ 0 / 4 ∧ (m.parityDie 2).isSome = true ∧ ∀ c < 16, m.flashLoc (16 * 2 + c) = none) ∧
    (m.flashLoc (16 * 1 + 2)).isSome = true ∧ (List.replicate 16384 (0 : Byte)).length = 16384 ∧ m.turfLoc 9 = some 18 ∧ m.turfLoc 8 = none := by
  simp only [List.length_replicate]; decide +kernel

/-- R319: a full bucket stays full. -/
theorem test_governor : ((base).accrue 1000000).peat.gov = 5600000000000 ∧
    (({ base with peat := { gov := 0 } } : Mod).accrue 1000000).peat.gov = 64814815 := by decide +kernel

/-- A failed read on a fresh die, the third of a die, and turves of the three kinds of segment (R321, R322). -/
theorem witness_turf_read :
    let m := fun (fl : Nat) => withCord base (cordOf 8 [(0x12, 2, leBytes 32 1 ++ leBytes 32 (2 + 2 ^ 16 * fl + 2 ^ 64 * 3 + 2 ^ 96 * 1))])
    let f : Mod := { base with peat := { dies := [(0, { reads := [0, 0] })] } }
    (base).segOf 3 = none ∧ ((m 0).segOf 3).isSome = true ∧ (m 0).segOf 4 = none ∧ ((m 1).segOf 3).map (bitAt · 16) = some true ∧
    ((m 2).segOf 3).map (bitAt · 17) = some true ∧ (run (.turfReadFail 3 0 true) { m := f }).peat.rebuild = some 0 ∧
    (run (.turfReadFail 3 0 true) { m := base }).peat.rebuild = none ∧ (run (.turfReadFail 3 0 false) { m := m 0 }).peat.lost = [3] := by
  decide +kernel

/-- A first retirement, one while a rebuild runs, and one that leaves too little room; the 64th program failure (R322). -/
theorem witness_flash_die :
    let big := withCord base (cordOf 8 [(0x12, 2, leBytes 32 1 ++ leBytes 32 (2 + 2 ^ 96 * 1708984375))])
    (base).declTurves ≤ min 28000000000000 (29875000000000 - 468750000000 * 1) / 16384 ∧
    ((base).retireFlash 5 false).peat.rebuild = some 5 ∧
    ({ base with peat := { rebuild := some 4 } } : Mod).retireFlash 5 false = { base with peat := { rebuild := some 4, rebuildQ := [5] } } ∧
    ({ big with peat := { rebuild := some 1, rebuildQ := [2, 3, 4] } } : Mod).declTurves >
      min 28000000000000 (29875000000000 - 468750000000 * 5) / 16384 ∧
    (run (.flashProgramFail 5) { m := { base with peat := { dies := [(5, { progs := 63 })] } } }).peat.rebuild = some 5 ∧
    (run (.flashProgramFail 5) { m := { base with peat := { dies := [(5, { progs := 62 })] } } }).peat.rebuild = none ∧
    (run .flashRebuildDone { m := { base with peat := { rebuild := some 5, rebuildQ := [6] } } }).peat.rebuild = some 6 ∧
    ((run .flashRebuildDone { m := { base with peat := { rebuild := some 5 } } }).fdie 5).retired = true := by decide +kernel

/-- R316: a pending image takes the place of the committed one, dirty. -/
theorem witness_turves_commit :
    let m : Mod := { base with peat := { slots := [(0, { turf := some 3, listed := [7] }), (1, { turf := some 3, pending := true })] } }
    tWf {} m.peat.slots = true ∧ m.commitTurves.peat.slots = [(1, { turf := some 3, dirty := true, listed := [7] })] := by decide +kernel

/-- R323: the tier goes off with nothing left to do, and not with a dirty turf. -/
theorem witness_peat_off :
    (run .peatOffDone { m := { base with peat := { state := .shutting } } }).peat.state = .off ∧
    (run .peatOffDone { m := { base with peat := { state := .shutting, pendOn := true } } }).peat.state = .on ∧
    (run .peatOffDone { m := { base with peat := { state := .shutting, slots := [(0, { dirty := true })] } } }).peat.state = .shutting := by
  decide +kernel

/-! ### Commit, flip, the update -/

/-- SHARDS of a cord: header for this rank among n, and shard entries (R335). -/
def shSect (self n : Nat) (es : List Nat) : Nat × Nat × List Byte :=
  (0xC, es.length + 1, leBytes 64 (2 ^ 16 * n + 2 ^ 32 * self) ++ es.flatMap (leBytes 64))
/-- A module of rank `self` among n, paired with nobody, in a cord with further sections. -/
def rankM (self n : Nat) (more : List (Nat × Nat × List Byte) := []) (shards : List Nat := []) (modes : Nat := 0) : Mod :=
  withCord base (cordOf modes (shSect self n shards :: more))
/-- FALLBACK with one pair (R399). -/
def pairSect (a b : Nat) : Nat × Nat × List Byte := (0xD, 1, leBytes 64 (2 + 2 ^ 4 * a + 2 ^ 16 * b))

/-- A vote that waits for a child, one that goes up to the parent, one not yet possible (R410, R412). -/
theorem witness_commit_vote :
    let ok := fun (m : Mod) => ({ m with train := { m.train with andOk := true } } : Mod)
    let root := ok (rankM 0 2)
    let leaf := ok (rankM 1 2)
    root.updateDone = true ∧ root.clus.lossDue = [] ∧ root.train.running = true ∧ root.train.voted = false ∧ root.hbm.moves = [] ∧ root.train.abort = false ∧ root.clus.votes = [] ∧
    root.mate = none ∧ root.children = [1] ∧ leaf.children = [] ∧ leaf.parent? = some 0 ∧ leaf.clus.outcome = none ∧
    (base).train.andOk = false ∧ (run .commitVoteCast { m := root }).clus.voteSent = false ∧
    (run .commitVoteCast { m := leaf }).clus.voteSent = true ∧
    (let one := ok (rankM 0 1)
     one.children = [] ∧ one.parent? = none ∧ one.ranks.length = 1 ∧ ((run .commitVoteCast { m := one }).clus.outcome.map fun a => (a.vkind, a.cover)) = some (1, 1)) := by
  decide +kernel

/-- Runs of written bytes that meet are joined (R328). -/
theorem witness_update_covers : (∀ p ∈ [((1 : Nat), (2 : Nat))], p.1 < p.2) ∧ (2 : Nat) < 5 ∧ addRun [(1, 2)] 2 5 = [(1, 5)] := by decide

/-- R412: an abort among the children's votes, the latest tick, the sum of COVER. -/
theorem test_aggregate :
    let a := aggregate { vkind := 1, cover := 1, tick := 9 } [{ vkind := 1, cover := 3, tick := 11 }, { vkind := 2, cover := 2, last := 4 }]
    a.vkind = 2 ∧ a.cover = 6 ∧ a.tick = 11 ∧ a.last = 4 := by decide

/-- A flip due: the sides change, the step counts (R327). -/
theorem witness_flip :
    let m : Mod := { base with train := { running := false, step := 4, attempt := 3, flipDue := some 4, nfSkip := true } }
    m.train.flipDue = some 4 ∧ m.exch.held = [] ∧ m.clus.held = [] ∧ m.clus.stateDue = [] ∧ m.train.ckptDue = false ∧
    (run .sideFlip { m := m }).hbm.side = true ∧ (run .sideFlip { m := m }).train.step = 5 ∧ (run .sideFlip { m := m }).train.attempt = 0 := by
  decide +kernel

/-- A region of each side with side B committed (R326). -/
theorem witness_views :
    let m : Mod := { withCord base (cordOf 0 [(0xC, 1, leBytes 64 (2 ^ 64 * 8192)), (0x11, 2, regEnt 1 0 4096 ++ regEnt 2 8192 4096)]) with hbm := { side := true } }
    m.regionKind 5 = 1 ∧ m.view 5 = 8197 ∧ m.regionKind 8197 = 2 ∧ m.view 8197 = 5 ∧ m.view 20000 = 20000 := by decide +kernel

/-- One piece, one shard, one parameter entry of tensor 0, its summary held (R338, R366). -/
def trainM : Mod :=
  let m := rankM 0 1 [(0xB, 2, leBytes 32 0 ++ leBytes 32 (5 + 2 ^ 104 * 32)),
    (0xE, 2, leBytes 64 0 ++ leBytes 64 (4 + 2 ^ 17 * 64))] [3 + 2 ^ 104 * 32]
  { m with exch := { m.exch with sums := [{ bucket := 0, owner := 0, nonfin := false, recs := [{ piece := 0, tensor := 0, samples := 1, sumsq := 0 }] }] } }

theorem witness_step_parameters :
    let p := nth (0, 0, 0, 0) trainM.entryPlaces 0
    trainM.train.running = true ∧ trainM.entryPlaces = [p] ∧ trainM.entryValid p = false ∧ trainM.clus.holdV = [] ∧
    trainM.sumsOf trainM.exch.sums p.2.2.1 = true ∧ shOwner p.2.2.2 = trainM.self ∧ p.2.2.1 < 65536 ∧ p.2.1 = 64 ∧
    (run .stepParamWrite { m := trainM }).entryValid p = true ∧
    ({ trainM with exch := {} } : Mod).sumsOf [] p.2.2.1 = false := by decide +kernel

/-- A tensor not yet decided, and a decided one (R341). -/
theorem witness_decision :
    let n := rankM 0 1 [(0xB, 2, leBytes 32 0 ++ leBytes 32 (5 + 2 ^ 104 * 32)), (0xE, 2, leBytes 64 0 ++ leBytes 64 3)] [3 + 2 ^ 104 * 32]
    let m : Mod := { n with exch := trainM.exch }
    trainM.train.decided.find? (·.1 = 0) = none ∧ (trainM.decided trainM.exch.sums 0).1.skip = false ∧
    ((trainM.decided trainM.exch.sums 0).2.train.decided.find? (·.1 = 0)).isSome = true ∧
    (trainM.decideFrom 0 true 0 0).skip = true ∧
    (∃ e ∈ m.params, slice e 3 0 = 3 ∧ m.sumsOf m.exch.sums (slice e 31 16) = true) ∧ m.decideAll.train.decided.map (·.1) = [0] := by decide +kernel

/-- An audit of one block whose copy agrees, and of one that differs (R350). -/
theorem witness_audit :
    let m := fun (b : Nat) =>
      ({ rankM 0 1 [(0xE, 1, leBytes 64 (2 ^ 320 + 2 ^ 336))] [3 + 2 ^ 104 * 32 + 2 ^ 144 * 0 + 2 ^ 304 * 4096] with
          tick := { k := 1 }, hbm := { mem := if b = 0 then [] else [(4096, 1)] } } : Mod)
    slice (m 0).parHdr 335 320 = 1 ∧ (m 0).train.audited ≠ some (m 0).train.step ∧ (m 0).train.running = true ∧ (m 0).train.step % 1 = 0 ∧ slice (m 0).parHdr 367 352 < (m 0).tick.k ∧
    ((m 0).owned.map fun e => shCount e / 32).sum = 1 ∧ (run .driftAudit { m := m 0 }).train.audits = 1 ∧
    (run .driftAudit { m := m 0 }).train.auditBad = 0 ∧ (run .driftAudit { m := m 1 }).train.auditBad = 1 ∧
    run .driftAudit { m := base } = base := by decide +kernel

/-! ### The gradient exchange -/

/-- The module with an open session to rank 7. -/
def open7 (m : Mod) : Mod := { m with sec := { m.sec with sess := [(7, { open' := true })] } }

/-- A sealed exchange message that counts, one of a reserved kind, a replay (R362, R404, R512). -/
theorem witness_exchange_receipt :
    let m := open7 (rankM 0 8)
    let x : ExMsg := { kind := 1, sender := 7, step := 9, len := 128, body := List.replicate 128 0 }
    m.cord.inst ≠ none ∧ m.coresRun = true ∧ m.dieRuns (m.dieAt (m.rxArea + 69632 * m.rxSlot 7)) = true ∧ mayAccept m 7 1 ∧ exReserved (ExMsg.ofBytes x.bytes) = none ∧ (ExMsg.ofBytes x.bytes).kind = 1 ∧
    exReserved (ExMsg.ofBytes { x with kind := 5 }.bytes) = some 0 ∧ exReserved (ExMsg.ofBytes { x with kind := 2, npart := 17 }.bytes) = some 8 ∧
    exReserved (ExMsg.ofBytes { x with len := 65537 }.bytes) = some 160 ∧ (0 : Nat) ≤ tGet 0 (m.msess 7).rx 0 ∧
    (run (.contribReceive 7 1 1 (some x.bytes) 0 0 0) { m := m }).exch.held.length = 1 ∧
    (run (.contribReceive 7 1 0 (some x.bytes) 0 0 0) { m := m }).sec.replay = 1 := by
  unfold mayAccept; decide +kernel

/-- R368: of attempts modulo 16, the next eight are newer. -/
theorem test_exchange_judgement :
    let m := rankM 0 8
    (m.takeEx { kind := 1, attempt := 8 }).train.attempt = 1 ∧ (m.takeEx { kind := 1, attempt := 8 }).exch.held.length = 1 ∧
    (m.takeEx { kind := 1, attempt := 9 }).exch.stale = 1 ∧ (m.takeEx { kind := 1, step := 1 }).exch.held.length = 1 ∧
    (m.takeEx { kind := 4 }).train.running = false ∧
    (({ m with train := { m.train with step := 1 } } : Mod).takeEx { kind := 1 }).exch.stale = 1 := by decide +kernel

/-- A bucket of one piece of 32 elements owned here, in a group of ranks 0 and 7. -/
def bucketM (more : List Nat := [3 + 2 ^ 28 * 7]) : Mod :=
  rankM 0 8 [(0xB, 4 + more.length, leBytes 32 (2 ^ 44) ++ leBytes 32 3 ++ more.flatMap (leBytes 32) ++ leBytes 32 4 ++ leBytes 32 (5 + 2 ^ 104 * 32 + 2 ^ 160 * 4096))]

/-- A chunk that fits, before and after the exchange tick, repeated, and one that does not fit (R364, R370). -/
theorem witness_contrib :
    let m : Mod := { bucketM with exch := { open' := [0] } }
    let x : ExMsg := { kind := 1, sender := 7, len := 128, body := List.replicate 31 0 ++ [0x3F#8] ++ List.replicate 96 0 }
    let e := 5 + 2 ^ 104 * 32 + 2 ^ 160 * 4096
    m.piece? 0 0 = some e ∧ pcOwner e = m.self ∧ x.tensor = pcTensor e ∧ x.first = pcFirst e ∧ x.len = min 65536 (4 * pcCount e) ∧
    x.body.length = x.len ∧ m.locRuns e = true ∧ (m.takeContrib x).exch.rx = 1 ∧ mGet (m.takeContrib x).hbm.mem 4127 = 0x3F#8 ∧
    ((m.takeContrib x).takeContrib x).exch.dup = 1 ∧ (bucketM.takeContrib x).exch.held.length = 1 ∧
    (m.takeContrib { x with len := 64 }).log.next = 2 := by decide +kernel

/-- An owner that waits for a chunk, and one that has all (R365, R366). -/
theorem witness_summary :
    let m := fun (got : List (Nat × Nat × Nat × Nat)) => ({ bucketM with exch := { open' := [0], got := got } } : Mod)
    let all := m [(0, 0, 7, 0)]
    all.bucket? 0 = some 4 ∧ (m []).allGot 4 = false ∧ all.allGot 4 = true ∧ all.exch.made = [] ∧ all.mate = none ∧ (∀ p ∈ all.pieces, all.locRuns p = true) ∧ all.train.running = true ∧ (0 ∈ all.exch.open') ∧ all.members 0 = [0, 7] ∧
    (all.pieces.filter fun p => pcBucket p = 0 && pcOwner p = all.self).length = 1 ∧
    (run (.summaryMake 0) { m := all }).exch.made = [0] ∧ (run (.summaryMake 0) { m := all }).exch.sumsOut.length = 1 ∧
    run (.summaryMake 0) { m := m [] } = m [] := by decide +kernel

/-- A receiver with one slot: the first message leaves, the second waits (R361). -/
theorem witness_exchange_credit :
    let m := open7 bucketM
    m.exShare = 1 ∧ tGet 0 m.exch.used 7 < m.exShare ∧ (m.msess 7).open' = true ∧ (bucketM.msess 7).open' = false ∧
    tGet 0 (m.sendEx 7 { kind := 1 }).exch.used 7 = 1 ∧ ((m.sendEx 7 { kind := 1 }).sendEx 7 { kind := 1 }).exch.waiting.length = 1 ∧
    (bucketM.sendEx 7 { kind := 1 }).exch.waiting.length = 1 := by
  decide +kernel

/-- A chunk leaves, and one whose LOC lies on a stopped die stays with those of its bucket behind it (R360). -/
theorem witness_chunks :
    let e := 5 + 2 ^ 36 * 7 + 2 ^ 104 * 32 + 2 ^ 160 * 4096
    let m := open7 (rankM 0 8 [(0xB, 5, leBytes 32 (2 ^ 44) ++ leBytes 32 3 ++ leBytes 32 (3 + 2 ^ 28 * 7) ++ leBytes 32 4 ++ leBytes 32 e)])
    let z : Mod := { m with dieN := { run := .stopped } }
    m.piece? 0 0 = some e ∧ pcOwner e = 7 ∧ m.locRuns e = true ∧ z.locRuns e = false ∧ m.mayEx 7 = true ∧
    tGet 0 (sendChunks [(0, 0, 0)] [] m).exch.used 7 = 1 ∧ (sendChunks [(0, 0, 0)] [] m).exch.toSend = [] ∧
    (sendChunks [(0, 0, 0)] [] z).exch.toSend = [(0, 0, 0)] ∧ (sendChunks [(0, 0, 0)] [0] m).exch.toSend = [(0, 0, 0)] := by decide +kernel

/-- Messages that cannot land, and tags that fail: the first of a CONTRIB asks for it again, a VOID's does not, the fourth declares the
sender lost (R361, R404). -/
theorem witness_exchange_failures :
    let m := open7 (bucketM)
    let z : Mod := { m with dieN := { run := .stopped }, dieS := { run := .stopped } }
    let k : Nat × Nat × Nat := (3, 2, 1)
    let f : Mod := { m with exch := { m.exch with fails := List.replicate 3 (7, k) } }
    let go := fun (m : Mod) => run (.contribReceive 7 1 1 none 3 2 1) { m := m }
    m.mayLand 7 = true ∧ z.mayLand 7 = false ∧ z.mayLand 5 = true ∧ go z = z ∧ (go m).exch.sealFail = 1 ∧
    (go m).exch.fails = [(7, k)] ∧ (go m).exch.waiting.map (fun p => (p.1, p.2.kind, p.2.bucket, p.2.piece, p.2.chunk)) = [(7, 3, 3, 2, 1)] ∧ (run (.voidReceive 7 1 1 none) { m := m }).exch.waiting = [] ∧
    (go f).log.next = 3 ∧ (go f).clus.lost = [7] := by decide +kernel

/-- NXS of two: a second exchange slot starts, a third does not (R360, R381). -/
theorem witness_exchange_slot :
    let m := fun (n : Nat) => ({ rankM 0 8 [(8, 1, leBytes 32 (2 ^ 4))] with exch := { slot := n } } : Mod)
    let z : Mod := { bucketM with tick := { k := 1 } }
    let e := 5 + 2 ^ 104 * 32 + 2 ^ 160 * 4096
    (m 0).cord.inst ≠ none ∧ cNxs (m 0).img = 2 ∧ (m 0).exch.waiting = [] ∧ (run .exchangeSlotStart { m := m 0 }).exch.slot = 1 ∧
    run .exchangeSlotStart { m := m 1 } = m 1 ∧
    z.bucket? 0 = some 4 ∧ z.sumReady { kind := 2 } = true ∧ bucketM.sumReady { kind := 2 } = false ∧ z.piece? 0 0 = some e ∧ z.locRuns e = true ∧
    ({ z with dieN := { run := .stopped } } : Mod).locRuns e = false := by decide +kernel

/-! ### PTP and the pulse per second -/

/-- A module that follows the leader on interface 3, which is up. -/
def ptpM (src : Nat := 1) : Mod :=
  { base with eth := { ifs := [(3, { up := true })] }, tick := { src := src, iface := 3, ann := [(3, 5)], inLock := 15, epoch := some 1000 } }

/-- Messages heard by a follower, by a leader, and in another domain (R377). -/
theorem witness_ptp :
    (ptpM).pow.collier = true ∧ ((ptpM).iface 3).up = true ∧ (0#8).toNat = (ptpM).tick.domain ∧
    (run (.ptpMessageReceive 3 0 0xB 4 true 0 0) { m := ptpM }).tick.ann = [(3, 4)] ∧
    (run (.ptpMessageReceive 3 0 1 0 true 0 0) { m := ptpM 2 }).eth.wire.length = 1 ∧
    run (.ptpMessageReceive 3 1 0xB 4 true 0 0) { m := ptpM } = ptpM := by decide +kernel

/-- The 16th synchronisation within 40 ns locks; 41 ns do not (R378). -/
theorem witness_synchronisation :
    (ptpM).tick.src = 1 ∧ (ptpM).tick.iface = 3 ∧ (run (.ptpMessageReceive 3 0 8 0 true 40 7) { m := ptpM }).tick.locked = true ∧
    (run (.ptpMessageReceive 3 0 8 0 true 41 7) { m := ptpM }).tick.inLock = 0 ∧
    (run (.ptpMessageReceive 3 0 8 0 true 40 7) { m := ptpM }).tick.epoch = some 7 ∧
    (run (.ptpMessageReceive 3 0 8 0 true 40 7) { m := { ptpM with cord := { inst := some 0 } } }).tick.epoch = some 960 := by decide +kernel

theorem witness_best : bestIface [(3, 5), (9, 4)] = 9 ∧ (∀ p ∈ [((3 : Nat), (5#144)), (9, 4#144)], p.2 ≠ BitVec.allOnes 144) := by decide

/-- The last Announce is gone; ten seconds of holdover; a leader's messages (R378). -/
theorem witness_holdover :
    let h := fun (n : Nat) => ({ base with tick := { hold := true, holdNs := n, gen := true } } : Mod)
    let u : Mod := { withCord base (cordOf 0 [(8, 2, leBytes 32 0 ++ leBytes 32 4)]) with tick := { hold := true, holdNs := 10000000000 }, train := { tickK := some 0 } }
    tSet 0 (ptpM).tick.ann 3 0 ≠ (ptpM).tick.ann ∧ (run (.ptpAnnounceTimeout 3) { m := ptpM }).tick.hold = true ∧
    run (.ptpAnnounceTimeout 4) { m := ptpM } = ptpM ∧ (run .holdoverEnd { m := h 10000000000 }).tick.holdEnd = true ∧
    run .holdoverEnd { m := h 9999999999 } = h 9999999999 ∧
    (run .holdoverEnd { m := u }).train.departDue = true ∧ (run .ptpSyncSend { m := ptpM 2 }).eth.wire.length = 3 := by decide +kernel

/-- An enabled edge at a follower and at a leader; the pulse while locked (R377, R543). -/
theorem witness_pps :
    let m := fun (src : Nat) => ({ base with tick := { src := src, ppsEn := true, now := 600000000, locked := true }, pow := { pps := .low, collier := true } } : Mod)
    (run .ppsInEdge { m := m 1 }).tick.ppsEdge = some 600000000 ∧ (run .ppsInEdge { m := m 2 }).tick.epoch = some 400000000 ∧
    (run (.ppsOutPulse true) { m := m 1 }).pow.pps = .high ∧ (run (.ppsOutPulse true) { m := base }).pow.pps = .z := by decide +kernel

/-! ### Remote windows and gathers -/

/-- Rank 0 with window 3 to rank 7, outbound and inbound (R390). -/
def winM : Mod :=
  open7 (rankM 0 8 [(0x10, 2, leBytes 32 (1 + 2 ^ 5 * 3 + 2 ^ 21 * 7) ++ leBytes 32 (1 + 2 ^ 4 + 2 ^ 5 * 3 + 2 ^ 21 * 7 + 2 ^ 46 * 5))])

/-- 57 tokens wait: 56 leave; freed credits go back (R391, R392). -/
theorem witness_batches :
    let m : Mod := { winM with rem := { out := [(3, { waiting := List.replicate 57 {} })], inb := [(3, { freed := 2 })] }, exch := { freed := [(3, 4097)] } }
    (m.win? 3 false).isSome = true ∧ (m.win? 3 true).isSome = true ∧ (m.remOut 3).waiting ≠ [] ∧ (m.remIn 3).freed ≠ 0 ∧
    ((run (.batchSend 3) { m := m }).remOut 3).waiting.length = 1 ∧ ((run (.creditBatchSend 3 false) { m := m }).remIn 3).freed = 0 ∧
    tGet 0 (run (.creditBatchSend 3 true) { m := m }).exch.freed 3 = 1 ∧ m.coresRun = true ∧ run (.batchSend 4) { m := m } = m := by decide +kernel

/-- A batch of no tokens; NTOK of 57; CREDIT of 4,097 (R391, R404). -/
theorem witness_batch_receipt :
    let p := fun (ntok cr : Nat) => leBytes 14 (2 ^ 112 * 0) ++ leBytes 2 ntok ++ beBytes 2 cr ++ leBytes 14 0
    mayAccept winM 7 1 4 ∧ mayAccept winM 7 1 (4#16).toNat ∧ netGet (p 56 4096) 117 112 = 56 ∧ netGet (p 56 4096) 143 128 = 4096 ∧ netGet (p 57 0) 117 112 = 57 ∧
    netGet (p 0 4097) 143 128 = 4097 ∧ winM.cord.inst ≠ none ∧ winM.coresRun = true ∧
    (run (.batchReceive 7 4 1 1 (some (p 57 0))) { m := winM }).clus.msgRes = 1 := by
  unfold mayAccept; decide +kernel

/-- What a batch of window 3 may be: of a lost rank, of an unknown window, of another sender, a credit, old, of a later step, of a
later tick, out of sequence (R392, R393, R397). -/
theorem witness_batch_use :
    let e := (winM.win? 3 true).getD 0
    let cr : Batch := { window := 3, sender := 7, credit := 2, rank := 7, qp := 4 }
    let tk : Batch := { window := 3, sender := 7, toks := [{ seq := 5 }], rank := 7, qp := 4 }
    let old : Mod := { winM with train := { winM.train with attempt := 1 } }
    7 ∈ ({ winM with clus := { lost := [7] } } : Mod).clus.lost ∧ winM.win? 4 true = none ∧ winPeer e = 7 ∧
    winM.age 0 0 = .now ∧ ((winM.useBatch 7 4 cr).remOut 3).credit = 2 ∧ old.age 0 0 = .old ∧ (old.useBatch 7 4 tk).rem.stale = 1 ∧
    winM.age 1 0 = .newStep ∧ ((winM.judgeBatch { tk with step := 1 }).remIn 3).held.length = 1 ∧
    ((winM.takeBatch { tk with tick := 1 }).remIn 3).held.length = 1 ∧ seqOk (some 0) tk.toks = false ∧
    (({ winM with rem := { inb := [(3, { next := some 0 })] } } : Mod).takeBatch tk).log.next = 2 ∧ ((winM.takeBatch tk).remIn 3).next = some 6 ∧ (winM.useBatch 7 4 { cr with sender := 6 }).log.next = 2 ∧
    winM.endsOk tk true = true ∧ winM.endsOk tk false = true ∧ winM.endsOk { tk with qp := 5 } true = false ∧ winM.age 0 1 = .newAttempt ∧
    ((winM.judgeBatch { tk with attempt := 1 }).remIn 3).held.length = 1 ∧ (winM.judgeBatch { tk with attempt := 1 }).train.rerun = true ∧
    (winM.useBatch 7 5 { tk with window := 4 }).log.next = 2 ∧ (winM.ringBatch e tk).hbm.mem ≠ [] := by decide +kernel

/-- R393: SEQ follows modulo 2^20. -/
theorem test_sequence : seqOk (some 0xFFFFF) [{ seq := 0xFFFFF }, { seq := 0 }] = true ∧ seqOk (some 1) [{ seq := 1 }, { seq := 3 }] = false := by decide

/-- A token that waits at window 3, with and without a credit of its queue (R392). -/
theorem witness_injection :
    let m := fun (c : Nat) => ({ base { inqs := [(20, { credit := c })] } with rem := { inb := [(3, { inj := [{ tag := 1 }] })] } } : Mod)
    ((m 1).remIn 3).inj = { tag := 1 } :: [] ∧ (injectAux 3 20 1 (m 1)).grid.flights.map (fun f => (f.target, f.tok.tok.tag)) = [(20, 1#6)] ∧ (m 1).opens 20 0 = true ∧ (m 1).dieRuns (hDie (qHearth 20)) = true ∧ injectAux 3 20 1 (m 0) = m 0 := by
  decide +kernel

/-- The last shard of the only other owner lands, and one while the own shards are missing (R387). -/
theorem witness_gather :
    let g := fun (own : Bool) => ({ open7 (rankM 0 8 [(8, 2, leBytes 32 0 ++ leBytes 32 (5 + 2 ^ 64 * 8192 + 2 ^ 117 * 5)), (0xB, 2, leBytes 32 3 ++ leBytes 32 (3 + 2 ^ 28 * 7))] [3 + 2 ^ 32 * 7])
      with rem := { gathers := [{ ent := 1, own := own }] } } : Mod)
    mayAccept (g true) 7 1 ∧ (g true).rem.gathers.find? (·.ent = 1) = some { ent := 1, own := true } ∧
    (run (.gatherComplete 7 1 1 4 (some [9]) true) { m := g true }).rem.gathers = [] ∧
    mGet (run (.gatherComplete 7 1 1 4 (some [9]) true) { m := g true }).hbm.mem 8196 = 9#8 ∧
    (run (.gatherComplete 7 1 1 4 (some [9]) true) { m := g true }).grid.flights.map (fun f => f.target) = [20] ∧
    (let z : Mod := { g true with dieN := { run := .stopped } }
     z.onDies 8196 1 = false ∧ run (.gatherComplete 7 1 1 4 (some [9]) true) { m := z } = z) ∧
    0 < ((g true).inq 20).credit ∧
    (run (.gatherComplete 7 1 1 4 (some [9]) true) { m := g false }).rem.gathers.length = 1 := by
  unfold mayAccept; decide +kernel

/-! ### Pairs, votes, losses -/

/-- A sealed cluster message that counts, one of a reserved kind or length, a replay, a tag that fails (R402 to R404, R512). -/
theorem witness_cluster_receipt :
    let m := open7 (rankM 0 8)
    let x : ClMsg := { kind := 1, sender := 7, tick := 3 }
    let sd := rankM 1 8 [] [] 1024
    let s0 : Mod := { sd with sec := { sess := [(0, { open' := true })] } }
    m.cord.inst ≠ none ∧ m.pow.state ≠ .off ∧ m.pow.state ≠ .fault ∧ mayAccept m 7 1 ∧ clReserved (ClMsg.ofBytes x.bytes) = none ∧
    cSrSeed sd.img = true ∧ mayAccept (open7 sd) 7 1 ∧ mayAccept s0 0 1 ∧
    (run (.heartbeatReceive 0 1 1 (some [1, 2, 3, 4])) { m := s0 }).train.seed = some 0x01020304 ∧
    (ClMsg.ofBytes x.bytes).kind = 1 ∧ clReserved (ClMsg.ofBytes { x with kind := 14 }.bytes) = some 0 ∧
    clReserved (ClMsg.ofBytes { x with vkind := 1 }.bytes) = some 4 ∧ clReserved (ClMsg.ofBytes { x with len := 65537 }.bytes) = some 224 ∧
    clReserved (ClMsg.ofBytes { x with len := 65536 }.bytes) = none ∧
    tGet 0 (run (.heartbeatReceive 7 1 1 (some x.bytes)) { m := m }).clus.beats 7 = 4 ∧
    (run (.heartbeatReceive 7 1 0 (some x.bytes)) { m := m }).sec.replay = 1 := by
  unfold mayAccept; decide +kernel

/-- R403: what is held, taken and discarded. -/
theorem test_cluster_judgement :
    let m := rankM 0 8
    (m.judgeCl { kind := 7, step := 1 }).clus.held.length = 1 ∧ (m.judgeCl { kind := 9, attempt := 9 }).exch.stale = 1 ∧
    (m.judgeCl { kind := 9, attempt := 8 }).train.attempt = 1 ∧ (m.judgeCl { kind := 6, part := 1 }).clus.held = [] ∧
    ({ m with clus := { part := 1, lost := [1] } } : Mod).partOld 0 = true ∧
    (m.judgeCl { kind := 1, sender := 3 }).clus.beats = [(3, 1)] ∧ (m.judgeCl { kind := 1, part := 1, sender := 3 }).clus.beats = [] ∧
    (m.judgeCl { kind := 10, step := 1 }).clus.held.length = 1 ∧ (m.judgeCl { kind := 12, step := 1 }).clus.held.length = 1 ∧
    (m.judgeCl { kind := 11, step := 1 }).clus.held.length = 1 ∧ (m.judgeCl { kind := 2, vkind := 3, attempt := 1 }).train.rerun = true := by decide +kernel

/-- The partner's chunk lands where the mirror entry says, its acknowledgement counts (R408, R409). -/
theorem witness_mirror :
    let m := withCord base (cordOf 0 [shSect 0 8 [3 + 2 ^ 32 * 7], (0xD, 2, leBytes 64 (2 + 2 ^ 16 * 7) ++ leBytes 64 (3 + 2 ^ 16 * 1 + 2 ^ 208 * 4096))])
    m.gradArea 0 0 = some 4096 ∧ m.partner = some 7 ∧ mGet (m.takeCl { kind := 7, offset := 4, body := [9] }).hbm.mem 4100 = 9#8 ∧
    (m.takeCl { kind := 9, sender := 7 }).clus.mack = true ∧ (m.takeCl { kind := 9, sender := 6 }).clus.mack = false := by decide +kernel

/-- Votes of a child and outcomes of the three kinds (R412, R413). -/
theorem witness_votes :
    let m : Mod := { rankM 1 2 with train := { step := 4, last := 3, owed := some 4 }, tick := { cnt := 9 } }
    m.train.owed = some m.train.step ∧ m.tick.cnt.toNat < 10 ∧ (m.actOutcome { kind := 3, vkind := 1, tick := 10 }).train.flipDue = some 4 ∧
    (m.actOutcome { vkind := 2 }).train.stop.isSome = true ∧ (m.actOutcome { vkind := 3, last := 3, tick := 10 }).train.owed = none ∧
    (({ m with train := {} } : Mod).actOutcome { vkind := 3, tick := 10 }).train.startAt = some 10 ∧
    (m.takeCl { kind := 2, vkind := 1, sender := 5 }).clus.votes.length = 1 ∧ (m.takeCl { kind := 2, vkind := 2 }).clus.own.isSome = true := by
  decide +kernel

/-- HELLOs of a module that pairs: each of the four refusals, and agreement; no HELLO for ten seconds (R405, R407). -/
theorem witness_pairing :
    let m : Mod := { withCord base (cordOf 0 [shSect 0 8 [], pairSect 0 7]) with clus := { pair := .pairing, helloOut := true }, tick := { now := 10000000000 } }
    let h := fun (rank feed : Nat) (lay : List Byte) => ({ kind := 6, sender := 7, body := beBytes 8 0 ++ beBytes 2 rank ++ beBytes 1 feed ++ beBytes 1 0 ++ lay } : ClMsg)
    let good := sha512 (m.layoutBytes true)
    m.partner = some 7 ∧ m.clus.helloOut = true ∧ m.clus.pairFail = none ∧
    (m.takeCl { h 7 1 good with body := beBytes 8 1 }).clus.pairFail = some 0x0D01 ∧ (m.takeCl (h 6 1 good)).clus.pairFail = some 0x0D02 ∧
    (m.takeCl (h 7 0 good)).clus.pairFail = some 0x0D03 ∧ (m.takeCl (h 7 1 [])).clus.pairFail = some 0x0D04 ∧
    m.items = [] ∧ (m.takeCl (h 7 1 good)).clus.pair = .paired ∧ (rankM 0 8 [pairSect 0 7] [3]).items ≠ [] ∧
    (m.takeCl (h 7 1 good)).clus.pairFail = none ∧ (run .pairTimeout { m := m }).clus.pairFail = some 0x0D05 ∧
    run .pairTimeout { m := { m with tick := { now := 9999999999 } } } = { m with tick := { now := 9999999999 } } := by decide +kernel

/-- Records that agree and differ, of the own copy and of the mirror copy (R414, R415). -/
theorem witness_digest_decision :
    let d : DigRec := { tensor := 0, first := 0, dig := 5, ecc := false }
    let mine := [(0, d)]
    let m := rankM 0 8 [] [3]
    let m : Mod := { m with clus := { pair := .paired } }
    mine.find? (fun q => q.2.tensor = 0 && q.2.first = 0 && q.2.mirror != true) = some (0, d) ∧ m.clus.pair ≠ .pairing ∧
    (m.compareRec 7 mine { d with dig := 6, mirror := true }).clus.stateDue = [(0, 7)] ∧
    (m.compareRec 7 mine { d with mirror := true }).clus.shardDiff = 0 ∧ itKind 0 ≤ 1 ∧
    (({ m with clus := { stateIn := [(0, 7, 5), (6, 7, 5)] } } : Mod).holdAwaited).clus.holdV.length = 1 ∧
    (m.compareRec 7 [(0, { d with ecc := true })] { d with dig := 6, mirror := true }).clus.stateDue = [] := by decide +kernel

/-- A round due, with a partner (R414). -/
theorem witness_digest_round :
    let m : Mod := { withCord base (cordOf 0 [shSect 0 8 [], pairSect 0 7]) with clus := { pair := .paired, digDue := true } }
    let n : Mod := { withCord base (cordOf 0 [shSect 0 8 [3 + 2 ^ 104 * 32], pairSect 0 7]) with clus := { pair := .paired, digDue := true } }
    n.mate = some 7 ∧ n.replicas = [] ∧ n.clus.digPeer = [] ∧ n.nextWindows.items ≠ [] ∧ (run .digestRound { m := n }).clus.digOwn.length = 1 ∧
    m.clus.digDue = true ∧ m.hbm.settle = [] ∧ m.cord.inst ≠ none ∧ m.mate = some 7 ∧ (run .digestRound { m := m }).clus.digDue = false := by
  decide +kernel

/-- The last heartbeat three and four boundaries back (R417). -/
theorem witness_silence :
    let m := fun (n : BitVec 64) => ({ rankM 0 2 with clus := { beats := [(1, 6)] }, tick := { cnt := n } } : Mod)
    1 ∈ (m 0).watchers ∧ (run (.lossBySilence 1) { m := m 9 }).clus.lost = [1] ∧ run (.lossBySilence 1) { m := m 8 } = m 8 ∧
    run (.lossBySilence 0) { m := m 9 } = m 9 := by decide +kernel

/-- A loss learned with and without a quorum, of this module, twice; what survivors do (R418 to R425). -/
theorem witness_loss :
    let m := rankM 0 4
    let l := fun (modes : Nat) (more : List (Nat × Nat × List Byte)) (lost : List Nat) =>
      ({ withCord base (cordOf modes (shSect 0 8 [] :: more)) with clus := { lost := lost } } : Mod)
    let w := fun (x : List (Nat × Nat × Nat)) => ({ l 0 [] [] with clus := { lost := [1], stateIn := x } } : Mod).resendLost
    1 ≠ m.self ∧ 1 ∉ m.clus.lost ∧ m.cord.inst ≠ none ∧ 1 < m.nmod ∧ (m.learnLoss 1 false false).clus.lost = [1] ∧
    (m.learnLoss 0 false false).clus.departed = true ∧ m.learnLoss 4 false false = m ∧
    2 * ((rankM 0 2).noteLoss 1).ranks.length ≤ ((rankM 0 2).noteLoss 1).nmod ∧ (m.noteLoss 1).nmod < 2 * (m.noteLoss 1).ranks.length ∧
    (l 0 [pairSect 1 2] [1, 2]).lostPair = some (1, 2) ∧ (l 4 [] [1]).lostPair = none ∧ cSingle (l 4 [] [1]).img = true ∧
    cPhase (l 0 [] [1]).img ≠ 1 ∧ ((l 0 [] [1]).survive).clus.repair = true ∧ cPhase (l 16 [] [1]).img = 1 ∧ (l 16 [] [1]).partFor = none ∧
    (l 0 [] [1]).lostPair = none ∧ cSingle (l 0 [] [1]).img = false ∧ (l 0 [] [1]).resendLost = none ∧ w [(0, 1, 5)] = some 1 ∧ w [(6, 1, 5), (0, 2, 5)] = none ∧
    (l 16 [(0xD, 1, leBytes 64 (5 + 2 ^ 4 + 2 ^ 96))] [1]).partFor = some 1 ∧ m.train.abort = false := by decide +kernel

/-- CKDONE at the root: the last rank's, an earlier one's, and at another module (R427). -/
theorem witness_checkpoint :
    let m := fun (self n : Nat) => ({ rankM self n with clus := { ckpt := some 5, ckptFrom := [] }, tick := { now := 9 } } : Mod)
    (m 0 1).self = (m 0 1).root ∧ (m 0 1).clus.ckpt = some 5 ∧ ({ m 0 1 with clus := { (m 0 1).clus with ckptFrom := [0] } } : Mod).ckHas 0 = true ∧ (m 0 1).ranks = [0] ∧
    (m 0 2).ckHas 0 = false ∧
    ((m 0 2).takeCl { kind := 12, sender := 1 }).clus.ckptFrom = [1] ∧ (m 1 2).self ≠ (m 1 2).root ∧ (m 1 2).takeCl { kind := 12 } = m 1 2 := by
  decide +kernel

/-- A cluster message whose tag fails is asked for again, the fourth of its kind reports the sender; a gradient chunk for a stopped die
waits; every queue pair to a rank in error is a loss; the summary of a module with a partner (R268, R369, R403, R408, R418). -/
theorem witness_cluster_more :
    let m := open7 (rankM 0 8)
    let k : Nat × Nat × Nat := (0, 0, 0xFFFFFF01)
    let g := fun (m : Mod) => run (.heartbeatReceive 7 1 1 none) { m := m }
    let w := withCord base (cordOf 0 [shSect 0 8 [3 + 2 ^ 32 * 7], (0xD, 2, leBytes 64 (2 + 2 ^ 16 * 7) ++ leBytes 64 (3 + 2 ^ 16 * 1 + 2 ^ 208 * 4096))])
    let z : Mod := { w with dieN := { run := .stopped } }
    let q : Mod := { rankM 0 2 with clus := { badQps := [1] } }
    (g m).exch.waiting.map (fun p => (p.1, p.2.kind, p.2.chunk)) = [(7, 3, 0xFFFFFF01)] ∧
    (g { m with exch := { m.exch with fails := List.replicate 3 (7, k) } }).clus.lost = [7] ∧
    w.clLands { kind := 7 } = true ∧ z.clLands { kind := 7 } = false ∧ (z.judgeCl { kind := 7 }).clus.held.length = 1 ∧
    (run (.lossBySilence 1) { m := q }).clus.lost = [1] := by decide +kernel

/-- A restart after a commit that this module has not flipped to, and one after none; a fresh replacement follows (R413, R423). -/
theorem witness_restart :
    let m : Mod := { rankM 1 2 with train := { step := 4, last := 3, owed := some 4 }, tick := { cnt := 9 } }
    let x : ClMsg := { kind := 3, vkind := 3, tick := 10, last := 4 }
    (m.actOutcome x).train.last = 4 ∧ (m.actOutcome x).train.startAt = some 10 ∧ (m.actOutcome x).hbm.side = true ∧
    (m.actOutcome { x with last := 3 }).train.last = 3 ∧ (m.actOutcome { x with last := 3 }).hbm.side = false ∧
    (m.actOutcome { x with last := 3 }).train.owed = none := by decide +kernel

/-- Owned bytes whose readers wait are sent in a round that the partner began at once (R296, R415). -/
theorem witness_digest_now :
    let d : DigRec := { tensor := 0, first := 0, dig := 5, ecc := false }
    let n := rankM 0 8 [] [3]
    let m : Mod := { n with clus := { pair := .paired, digNow := true } }
    let x : DigRec := { d with dig := 6, mirror := true, ecc := true }
    let y : Mod := { m with clus := { m.clus with digNow := false } }
    (m.compareRec 7 [(0, { d with mirror := true })] { x with mirror := false }).clus.stateIn = [] ∧
    (m.compareRec 7 [(0, d)] x).clus.stateDue = [(0, 7)] ∧ (y.compareRec 7 [(0, { d with mirror := true })] { x with mirror := false }).clus.stateDue = [(0, 7)] := by
  decide +kernel

/-! ### Ethernet and RoCEv2 -/

/-- An up interface 0 with an IPv4 address; a transport context 2. -/
def ethM (x : QpSt := {}) : Mod :=
  { base with eth := { mac := 0x020000000000, ports := [(0, { run := .up, pfc := 2 })], ifs := [(0, { up := true, ip4 := 5 })], qps := [(2, x)] } }

/-- A link that comes up, one of a disabled port, the last link of a port that goes down (R437). -/
theorem witness_link :
    let off : Mod := { base with eth := { ports := [(0, { en := false })] } }
    let two : Mod := { base with eth := { ports := [(0, { run := .up, layout := 1 })], ifs := [(0, { up := true }), (2, { up := true })] } }
    (base).pow.collier = true ∧ (base).ifIs 0 = true ∧ (base).ifIs 1 = false ∧ ((base).port 0).en = true ∧
    ((run (.linkChange 0 true) { m := base }).iface 0).up = true ∧ ((run (.linkChange 0 true) { m := base }).port 0).run = .up ∧
    run (.linkChange 0 true) { m := off } = off ∧ ((run (.linkChange 0 false) { m := two }).port 0).run = .up ∧
    ((run (.linkChange 0 false) { m := { two with eth := { two.eth with ifs := [(0, { up := true })] } } }).port 0).run = .down := by decide +kernel

/-- The five things an arriving frame may do; the 1,000th and the 1,001st echo of a second (R433, R434, R446). -/
theorem witness_frames :
    let arp := beBytes 6 0xFFFFFFFFFFFF ++ beBytes 6 7 ++ beBytes 2 0x0806 ++ arpBody 1 7 9 0 5
    let pause := beBytes 6 0 ++ beBytes 6 7 ++ beBytes 2 0x8808 ++ beBytes 2 1
    let echo := beBytes 6 0x020000000000 ++ beBytes 6 7 ++ beBytes 2 0x0800 ++ beBytes 4 0x4500001C ++ beBytes 4 0 ++ beBytes 4 0x40010000 ++
      beBytes 4 9 ++ beBytes 4 5 ++ beBytes 4 0x08000000 ++ beBytes 4 1
    let n := fun (k : Nat) => ({ ethM with eth := { ethM.eth with ifs := [(0, { up := true, ip4 := 5, echoes := k })] } } : Mod)
    ethM.frameDo 0 [] = .drop ∧ ethM.frameDo 0 pause = .pause ∧ ethM.frameDo 0 (beBytes 6 0x020000000000 ++ beBytes 6 7 ++ beBytes 2 0x88F7) = .quiet ∧
    (∃ b, ethM.frameDo 0 arp = .reply b) ∧ (∃ b, ethM.frameDo 0 echo = .echo b) ∧
    (run (.frameReceive 0 echo) { m := n 999 }).eth.wire.length = 1 ∧ ((run (.frameReceive 0 echo) { m := n 1000 }).iface 0).drops = 1 ∧
    (run (.frameReceive 0 arp) { m := ethM }).eth.wire.length = 1 ∧ ((run (.frameReceive 0 pause) { m := ethM }).port 0).ignored = 1 := by
  refine ⟨by decide +kernel, by decide +kernel, by decide +kernel, ⟨_, rfl⟩, ⟨_, rfl⟩, by decide +kernel, by decide +kernel, by decide +kernel,
    by decide +kernel⟩

/-- R433: 14 bytes are judged by their type, 13 and 9,217 are not. -/
theorem test_frame_length : ethM.frameDo 0 (List.replicate 13 0) = .drop ∧ ethM.frameDo 0 (List.replicate 9217 0) = .drop := by decide +kernel

/-- A context unused, in error, ready for a peer's packet in sequence, and given an opcode outside the profile (R438 to R441). -/
theorem witness_packets :
    let m := fun (r : QpRun) => ethM { run := r, rank := some 7, epsn := 5, ahead := [6] }
    let p := fun (op : BitVec 8) (syn : BitVec 8) => Instr.rocePacketReceive 0 2 op 0xFFFF 5 false 0 0 0 0 syn []
    (run (p 7 0) { m := m .free }).eth.qpDrop = 1 ∧ run (p 7 0) { m := m .error } = m .error ∧ ((run (p 7 0) { m := m .ready }).qp 2).epsn = 7 ∧
    roceOp false 5 = false ∧ ((run (p 5 0) { m := m .ready }).qp 2).run = .error ∧ roceOp false 6 = true ∧ roceOp false 0x11 = true ∧
    roceOp false 0x12 = false ∧ ((run (p 0x11 31) { m := m .ready }).qp 2).run = .ready := by decide +kernel

/-- A packet marked CE; messages of 2^31 B and one more; one ahead of its sequence, that again, and an older one; immediates that wait for
a lower PSN; a CNP (R438, R441, R444). -/
theorem witness_packets_more :
    let m := fun (a : List Nat) => ethM { run := .ready, rank := some 7, epsn := 5, ahead := a }
    let go := fun (op : BitVec 8) (psn : BitVec 24) (ce : Bool) (len : BitVec 32) (t : Mod) =>
      run (.rocePacketReceive 0 2 op 0xFFFF psn ce 0 0 len 77 0 []) { m := t }
    (go 7 5 true 0 (m [])).eth.wire = [.roce 2 0x81 0 [], .roce 2 0x11 5 [0]] ∧ ((go 6 5 false 0x80000000 (m [])).qp 2).run = .ready ∧
    ((go 6 5 false 0x80000001 (m [])).qp 2).run = .error ∧ ((go 7 6 false 0 (m [])).qp 2).ahead = [6] ∧ ((go 7 6 false 0 (m [])).qp 2).gap = some 5 ∧
    (go 7 6 false 0 (m [6])).eth.wire.length = 1 ∧ ((go 7 6 false 0 (m [6])).qp 2).ahead = [6] ∧ psnLe 5 4 = false ∧
    ((go 7 4 false 0 (m [])).qp 2).epsn = 5 ∧ ((go 9 5 false 0 (m [])).qp 2).imms = [77] ∧ ((go 9 6 false 0 (m [])).qp 2).imms = [] ∧
    ((go 7 5 false 0 (go 9 6 false 0 (m []))).qp 2).imms = [77] ∧ (go 0x81 5 true 0 (m [])).eth.wire.length = 1 ∧
    ((go 0x81 5 true 0 (m [])).qp 2).epsn = 5 := by decide +kernel

/-- A host's access that ends at the region's last byte, and one that passes it (R451, R452). -/
theorem witness_host :
    let c := cordOf 0 [(0x11, 1, regEnt 12 4096 64), (0xF, 1, leBytes 16 (1 + 2 ^ 20 + 2 ^ 21))]
    let m : Mod := { withCord (ethM { run := .ready, epsn := 5 }) c with eth := { (ethM { run := .ready, epsn := 5 }).eth with rkeys := [(0, 9#32)] } }
    let p := fun (op : BitVec 8) (a : BitVec 64) => Instr.rocePacketReceive 0 2 op 0xFFFF 5 false 9 a 4 0 0 [1, 2, 3, 4]
    m.hvAccess 9 4156 4 true = true ∧ m.hvAccess 9 4157 4 true = false ∧ m.hvAccess 8 4156 4 true = false ∧
    m.dieRuns (m.dieAt (m.view 4156)) = true ∧ m.dieRuns (m.dieAt (m.view (4156 + 3))) = true ∧
    run (p 0xA 4156) { m := { m with dieN := { run := .stopped } } } = { m with dieN := { run := .stopped } } ∧
    m.hvAccess 9 4156 4 false = true ∧ m.hvAccess 9 4157 4 false = false ∧
    mGet (run (p 0xA 4156) { m := m }).hbm.mem 4159 = 4#8 ∧ ((run (p 0xA 4157) { m := m }).iface 0).hostErr = 1 ∧
    (run (p 0xC 4156) { m := m }).eth.wire.length = 1 ∧ ((run (p 0xC 4157) { m := m }).iface 0).hostErr = 1 := by decide +kernel

/-- A request of one packet that went out on the path of interfaces 0. -/
def sent1 : SentReq := { psn := 1, n := 1, item := .roce 2 7 1 [], left := [(1, 0, 255)] }

/-- The sixth and the seventh timeout of a host's queue pair; the third of a path (R440, R441). -/
theorem witness_timers :
    let h := fun (n : Nat) => ethM { run := .ready, sent := [sent1], tries := n, rnr := 1, gap := some 3 }
    let p := fun (n : Nat) => ethM { run := .ready, rank := some 7, sent := [sent1], paths := [{ loc := 0, rem := 255, fails := n }, { loc := 4 }] }
    ((run (.ackTimeout 2 0) { m := h 6 }).qp 2).tries = 7 ∧ ((run (.ackTimeout 2 0) { m := h 7 }).qp 2).run = .error ∧
    ((run (.ackTimeout 2 0) { m := p 2 }).qp 2).paths.length = 1 ∧ ((run (.ackTimeout 2 0) { m := p 1 }).qp 2).paths.length = 2 ∧
    (run (.rnrRetry 2) { m := h 0 }).eth.wire.length = 1 ∧ (run (.psnGapTimeout 2) { m := h 0 }).eth.wire.length = 1 := by decide +kernel

/-- The lowest rate; an enabled and a disabled priority; a threshold passed twice (R444, R445). -/
theorem witness_congestion :
    let m := ethM { paths := [{ loc := 0, rate := 1500 }] }
    ((run (.cnpReceive 2 0 true) { m := m }).qp 2).paths.map (·.rate) = [1000] ∧ (m.qp 2).paths[0]? = some { loc := 0, rate := 1500 } ∧
    (m.port 0).run = .up ∧ (m.port 0).pfc.getLsbD 1 = true ∧ (m.port 0).pfc.getLsbD 0 = false ∧
    ((run (.pfcReceive 0 1 true) { m := m }).port 0).paused = [1] ∧ ((run (.pfcReceive 0 0 true) { m := m }).port 0).ignored = 1 ∧
    (run (.pfcThreshold 0 1 true) { m := m }).eth.wire.length = 1 ∧
    (run (.pfcThreshold 0 1 true) { m := run (.pfcThreshold 0 1 true) { m := m } }).eth.wire.length = 1 := by decide +kernel

/-- A request that is sent again and one all of whose packets are acknowledged; what a paused priority holds, resumed and lost with the link
(R437, R440, R445). -/
theorem witness_held :
    let k : Pkt := { iface := 0, cls := 0, dscp := 0, prio := 1, vid := 0, item := .frame 0 [] }
    let m := ethM { run := .ready, sent := [sent1, { sent1 with psn := 2, left := [] }] }
    let h : Mod := { m with eth := { m.eth with held := [k, { k with prio := 2 }], ports := [(0, { run := .up, pfc := 2, paused := [1] })] } }
    let r := run (.pfcReceive 0 1 false) { m := h }
    (m.resend 2).eth.wire = [sent1.item] ∧ ((m.resend 2).qp 2).sent.map (·.psn) = [1, 2] ∧ r.eth.link = [k] ∧ r.eth.held = [{ k with prio := 2 }] ∧
    (r.port 0).paused = [] ∧ (run (.linkChange 0 false) { m := h }).eth.held = [] := by decide +kernel

/-- An address list of one entry, and one of 33 (R442). -/
theorem witness_addresses :
    let m := open7 (rankM 0 8)
    let x := fun (n : Nat) => ({ kind := 13, sender := 7, nrec := n, body := beBytes 1 3 ++ beBytes 16 9 } : ClMsg)
    mayAccept m 7 1 ∧ (ClMsg.ofBytes (x 1).bytes).kind = 13 ∧ (ClMsg.ofBytes (x 32).bytes).nrec = 32 ∧ m.eth.qps = [] ∧
    tGet [] (run (.addrsReceive 7 1 1 (some (x 1).bytes)) { m := m }).eth.addrs 7 = [(3, 9)] ∧
    (run (.addrsReceive 7 1 1 (some (x 33).bytes)) { m := m }).clus.msgRes = 1 := by
  unfold mayAccept; decide +kernel

/-- A port that shuts down, with and without an enable held (R436). -/
theorem witness_port :
    let m := fun (p : Bool) => ({ base with eth := { ports := [(0, { run := .shutting, pend := p })] } } : Mod)
    ((run (.portDownDone 0) { m := m true }).port 0).run = .starting ∧ ((run (.portDownDone 0) { m := m false }).port 0).run = .down ∧
    run (.portDownDone 1) { m := m true } = m true := by decide +kernel

/-! ### The DMA engine -/

/-- Ring 3 of channel 0 at HBM 4096 with the descriptor d at its HEAD, and one HOSTVIS region to copy within. -/
def dmaM (d : Nat) (x : ChanSt := {}) : Mod :=
  { withCord base (cordOf 0 [(0x11, 1, regEnt 12 8192 4096), (0xF, 1, leBytes 16 (1 + 2 ^ 20 + 2 ^ 21))]) with
      dma := { chans := [(0, x)], rings := [(3, { live := true, base := 4096, ctx := 2, tail := 1, rkey := 9 })] },
      hbm := { mem := mWrite [] 4096 (leBytes 64 d) ++ [(8192, 7)] }, eth := { qps := [(2, { run := .ready })] } }
/-- A copy of 64 bytes from HBM 8192 to HBM 8256. -/
def dCopy : Nat := 1 + 2 ^ 32 * 64 + 2 ^ 64 * 8192 + 2 ^ 128 * 8256

/-- A doorbell of all the ring's entries, of one more, and under another key (R455). -/
theorem witness_doorbell :
    (dmaM 0).bellOf 2 9 = some 3 ∧ ((dmaM 0).qp 2).run = .ready ∧ ((run (.dmaDoorbell 2 9 16) { m := dmaM 0 }).ring 3).tail = 16 ∧
    ((run (.dmaDoorbell 2 9 17) { m := dmaM 0 }).ring 3).bad = 1 ∧ run (.dmaDoorbell 2 8 16) { m := dmaM 0 } = dmaM 0 := by decide +kernel

/-- A descriptor that the channel takes, one not owned, a channel that is paused or has no work (R454, R458). -/
theorem witness_descriptor_start :
    let x := (dmaM dCopy).chanD 0
    let a : DmaAck := { ring := 4, n := 0, reqs := [(1, 64)] }
    let b := dmaM (dCopy + 2) { acks := [a] }
    let dFar := 1 + 2 ^ 32 * 64 + 2 ^ 64 * 8192 + 2 ^ 128 * 384000000000
    let far := dmaM dFar
    let st : Mod := { far with dieS := { run := .stopped }, cord := { far.cord with
      slot0 := { st := .staged, bytes := cordOf 0 [(0x11, 2, regEnt 12 8192 4096 ++ regEnt 12 384000000000 4096), (0xF, 2, leBytes 16 (1 + 2 ^ 20 + 2 ^ 21) ++ leBytes 16 (1 + 2 ^ 4 + 2 ^ 21))] } } }
    let again := dmaM 0 { acks := [{ a with ring := 3 }] }
    x.run = .idle ∧ x.en = true ∧ x.paused = false ∧ nextRing ((dmaM dCopy).ringsDue 0) x.rr = some 3 ∧
    (dmaM dCopy).descAt ((dmaM dCopy).ring 3) 0 = dCopy ∧ dOwn dCopy = true ∧ (dmaM dCopy).dmaCheck ((dmaM dCopy).ring 3) dCopy = 0 ∧ (dmaM dCopy).dmaDies (dmaM dCopy).dieRuns dCopy = true ∧ (dmaM dCopy).dieRuns ((dmaM dCopy).dieAt 4096) = true ∧
    b.dmaDies b.dieRuns dCopy = true ∧ dBarrier (dCopy + 2) = true ∧ ((run (.dmaDescriptorStart 0) { m := b }).chanD 0).wait = true ∧
    run (.dmaDescriptorStart 0) { m := st } = st ∧ st.dmaDies st.dieRuns dFar = false ∧ st.dmaCheck (st.ring 3) dFar = 0 ∧
    run (.dmaDescriptorStart 0) { m := again } = again ∧ ((again.chanD 0).due 3) ≠ [] ∧
    ((run (.dmaDescriptorStart 0) { m := dmaM dCopy }).chanD 0).cur = some (3, 0) ∧
    ((run (.dmaDescriptorStart 0) { m := dmaM 0 }).chanD 0).run = .halted ∧
    run (.dmaDescriptorStart 0) { m := dmaM dCopy { paused := true } } = dmaM dCopy { paused := true } ∧
    nextRing ((dmaM dCopy).ringsDue 1) 0 = none := by decide +kernel

/-- R454: after ring 3 comes ring 5, after ring 5 ring 3 again. -/
theorem witness_ring_order : ([3, 5] : List Nat).Pairwise (· < ·) ∧ nextRing [3, 5] 3 = some 5 ∧ nextRing [3, 5] 5 = some 3 := by decide

/-- A copy that ends, a failed check, a remote side that failed, an uncorrectable source (R459, R460). -/
theorem witness_descriptor_end :
    let x : ChanSt := { run := .running, cur := some (3, 0) }
    let t := run (.dmaDescriptorComplete 0 ⟨[], 0⟩) { m := dmaM dCopy x }
    let bad : Mod := { dmaM dCopy x with hbm := { (dmaM dCopy x).hbm with bad := [128] } }
    let rem := dmaM (dCopy + 2 ^ 5 + 2 ^ 256 * 2) x
    (dmaM dCopy x).dmaNext 0 = none ∧
    dSkind dCopy = 0 ∧ dDkind dCopy = 0 ∧ dMode dCopy = 0 ∧ (dmaM dCopy x).dmaBad dCopy = none ∧ mGet t.hbm.mem 8256 = 7#8 ∧
    (t.chanD 0).run = .idle ∧ slice (t.descAt (t.ring 3) 0) 391 384 = 0 ∧ dOwn (t.descAt (t.ring 3) 0) = false ∧
    dSkind (dCopy + 2 ^ 5) = 2 ∧ rem.dmaDies rem.dieClocks (dCopy + 2 ^ 5) = true ∧ rem.dieClocks (rem.dieAt 4096) = true ∧ bad.dmaBad dCopy = some 0 ∧
    ((run (.dmaDescriptorComplete 0 ⟨[], 1⟩) { m := rem }).chanD 0).run = .halted ∧
    ((run (.dmaDescriptorComplete 0 ⟨(List.replicate 64 9), 0⟩) { m := rem }).chanD 0).run = .idle ∧
    mGet (run (.dmaDescriptorComplete 0 ⟨(List.replicate 64 9), 0⟩) { m := rem }).hbm.mem 8300 = 9#8 ∧
    ((run (.dmaDescriptorComplete 0 ⟨[], 0⟩) { m := dmaM dCopy { x with chk := 1 } }).chanD 0).run = .halted := by decide +kernel

/-- A descriptor to an input queue: its one token goes, is still out, and the queue is gone; a barrier that waits; a channel with nothing
(R458, R459). -/
theorem witness_to_queue :
    let ent := 2 + 16 * 5 + 2 ^ 24 * 1
    let d := 1 + 2 ^ 6 * 3 + 2 ^ 32 * 64 + 2 ^ 64 * 8192 + 2 ^ 128 * (5 + 2 ^ 20 * 1)
    let x : ChanSt := { run := .running, cur := some (3, 0) }
    let m := fun (cr : Nat) (pl : Bool) (y : ChanSt) => ({ withCord (dmaM d y)
        (cordOf 0 [(0x11, 1, regEnt 12 8192 4096), (0xF, 2, leBytes 16 (1 + 2 ^ 20 + 2 ^ 21) ++ leBytes 16 ent)]) with
        grid := { ctls := [(cid 5 0, { placed := pl })], inqs := [(qid (cid 5 0) 1, { credit := cr })] } } : Mod)
    let go := fun (cr : Nat) (pl : Bool) (y : ChanSt) => run (.dmaDescriptorComplete 0 ⟨[], 0⟩) { m := m cr pl y }
    dDkind d = 3 ∧ (m 1 true x).dmaNext 0 = none ∧ (m 1 true x).dmaQueue d = some (qid (cid 5 0) 1) ∧ (m 1 false x).dmaQueue d = none ∧
    ((go 0 true x).chanD 0).cur = some (3, 0) ∧ ((go 1 false x).chanD 0).run = .halted ∧ ((go 1 true x).chanD 0).sent = 1 ∧
    ((go 1 true { x with sent := 1 }).chanD 0).run = .idle ∧
    ((go 1 true { x with wait := true }).chanD 0).wait = false ∧ ((go 1 true { x with cur := none }).chanD 0).cur = none := by decide +kernel

/-- A descriptor to remote memory: sent, then acknowledged, still out, and failed; one that ended with its ring (R458, R459). -/
theorem witness_writes_acknowledged :
    let d := 1 + 2 ^ 7 + 2 ^ 32 * 64 + 2 ^ 64 * 8192 + 2 ^ 272 * 2
    let x : ChanSt := { run := .running, cur := some (3, 0) }
    let m := dmaM d x
    let a : DmaAck := { ring := 3, n := 0, done := 64, ctx := 2, reqs := [(5, 64)] }
    let q := fun (r : QpRun) (snt : List SentReq) (mu : Bool) =>
      ({ dmaM d { acks := [{ a with mute := mu }] } with eth := { qps := [(2, { run := r, sent := snt })] } } : Mod)
    let out : SentReq := { psn := 5, n := 1, item := .rdma 2 0 0 [], left := [] }
    dSkind d = 0 ∧ dDkind d = 2 ∧ dDctx d = 2 ∧ (m.qp 2).run = .ready ∧ m.dmaNext 0 = none ∧ m.dmaBad d = none ∧ m.dmaDies m.dieClocks d = true ∧
    ((run (.dmaDescriptorComplete 0 ⟨[], 0⟩) { m := m }).chanD 0).acks.map (fun (y : DmaAck) => (y.ring, y.done, y.reqs)) = [(3, 64, [(0, 64)])] ∧
    (q .ready [out] false).dmaNext 0 = none ∧ (q .ready [] false).dmaNext 0 = some a ∧
    run (.dmaDescriptorComplete 0 ⟨[], 0⟩) { m := q .ready [out] false } = q .ready [out] false ∧
    slice ((run (.dmaDescriptorComplete 0 ⟨[], 0⟩) { m := q .ready [] false }).descAt ((dmaM 0).ring 3) 0) 431 400 = 64 ∧
    ((run (.dmaDescriptorComplete 0 ⟨[], 0⟩) { m := q .error [out] false }).chanD 0).run = .halted ∧
    ((run (.dmaDescriptorComplete 0 ⟨[], 0⟩) { m := q .ready [] true }).chanD 0).acks = [] ∧
    ((run (.dmaDescriptorComplete 0 ⟨[], 0⟩) { m := { m with hbm := { m.hbm with bad := [128] } } }).chanD 0).run = .running := by decide +kernel

/-- The write-back's premise: no burst is bad and side A is committed. -/
theorem witness_write_back :
    let t := (dmaM dCopy { run := .running }).dmaDone 0 3 0 6 64
    (dmaM dCopy).hbm.bad = [] ∧ (dmaM dCopy).hbm.side = false ∧ (dmaM dCopy).peatEnts = [] ∧ ((dmaM dCopy { run := .running }).chanD 0).due 3 = [] ∧
    ((dmaM dCopy { run := .running, acks := [{ ring := 3 }] }).chanD 0).due 3 ≠ [] ∧ (t.chanD 0).run = .halted ∧ slice (t.descAt (t.ring 3) 0) 431 400 = 64 := by
  decide +kernel

/-- R461: two planes of one byte; two elements of six bits. -/
theorem test_funnels :
    weave 2 1 ((List.range 2).map fun k => unweave 2 k 1 2 [1, 2, 3, 4]) = [1, 2, 3, 4] ∧ unpackBits 6 2 (packBits 6 [63, 1]) = [63, 1] := by
  decide +kernel

/-- Queue fills of LOW, between and HIGH; a queue of no placed core (R462). -/
theorem witness_pacing :
    let m := fun (n : Nat) (pl : Bool) => ({ base { ctls := [(5, { placed := pl })], inqs := [(20, { router := List.replicate n (tok []) })] } with
      dma := { chans := [(0, { high := 8, low := 2, paceQ := 2 ^ 13 * 5, paused := decide (n = 2) })] } } : Mod)
    let g := fun (n : Nat) (pl : Bool) => (run (.dmaPaceSample 0) { m := m n pl }).chanD 0
    (g 8 true).paused = true ∧ (g 7 true).paused = false ∧ (g 2 true).paused = false ∧ (g 0 false).lost = true ∧ (g 0 false).paused = true ∧
    ((m 0 true).ctl 5).placed = true := by decide +kernel

/-- A channel that shuts down with a descriptor after one unit of 4,096 B, without one, and with an enable held (R463). -/
theorem witness_channel_down :
    let m := fun (c : Option (Nat × Nat)) (p : Bool) => dmaM dCopy { run := .shutting, cur := c, pend := p }
    ((run (.dmaDisableDone 0 1 []) { m := m none false }).chanD 0).run = .disabled ∧ ((run (.dmaDisableDone 0 1 []) { m := m none true }).chanD 0).run = .idle ∧
    ((run (.dmaDisableDone 0 1 []) { m := m (some (3, 0)) false }).chanD 0).run = .disabled ∧
    slice ((run (.dmaDisableDone 0 1 []) { m := m (some (3, 0)) false }).descAt ((dmaM 0).ring 3) 0) 391 384 = 7 ∧
    (m (some (3, 0)) false).dmaDies (m (some (3, 0)) false).dieClocks dCopy = true ∧ dDkind dCopy ≠ 3 := by decide +kernel

/-! ### KOP -/

/-- Session 5 of a role holds a request under SEQ 1. -/
def reqM (p : Pdu) (role : Nat := 2) (m : Mod := base) : Mod :=
  { m with kop := { m.kop with sess := [(5, { live := true, role := role, reqs := [{ seq := 1, pdu := p.bytes, sig := true }] })] } }
/-- A request of session 5. -/
def pdu (op index sub count : Nat) (value : List Byte := []) (elem : Nat := 0) : Pdu :=
  { op := op, session := 5, seq := 1, index := index, sub := sub, count := count, elem := elem, len := value.length, value := value }
/-- The invocation of a command. -/
def ask (i : Nat) (arg : List Byte := []) : Pdu := pdu 4 i 1 1 arg

/-- The request waits, as a check that runs. -/
def waitsB (m : Mod) (p : Pdu) : Bool :=
  m.answers && decide (m.req? 5 1 = some { seq := 1, pdu := p.bytes, sig := true }) && decide (Pdu.ofBytes p.bytes = p)

theorem waits_of (m : Mod) (p : Pdu) (h : waitsB m p = true) : m.waits 5 1 p true := by
  simp only [waitsB, Bool.and_eq_true, decide_eq_true_eq] at h
  exact ⟨h.1.1, _, h.1.2, h.2, rfl⟩

/-- The invocation reaches the command's own rule, as a check that runs. -/
def invokesB (m : Mod) (i : Nat) (roles : List Nat) (inFault : Bool) (p : Pdu) : Bool :=
  waitsB m p && decide (p.op = 4 ∧ p.index = i ∧ p.sub = 1 ∧ p.count = 1 ∧ m.pow.state ≠ .kindling ∧
    (m.pow.state = .fault → inFault = true) ∧ (m.ksess 5).role ∈ roles) && !m.cmdBusy i

theorem invokes_of (m : Mod) (i : Nat) (roles : List Nat) (f : Bool) (p : Pdu) (h : invokesB m i roles f p = true) :
    m.invokes 5 1 i roles f p := by
  simp only [invokesB, Bool.and_eq_true, decide_eq_true_eq, Bool.not_eq_true'] at h
  obtain ⟨⟨hw, h1, h2, h3, h4, h5, h6, h7⟩, h8⟩ := h
  exact ⟨true, ⟨waits_of m p hw, h1, h2, h3, h4⟩, h5, h6, h7, fun _ _ => rfl, h8⟩

/-- The state of a module, changed. -/
def inState (d : ModState) (m : Mod := base) : Mod := { m with pow := { m.pow with state := d } }

/-- A module whose interface 0 is up. -/
def upM (m : Mod := base) : Mod := { m with eth := { m.eth with ifs := [(0, { up := true })] } }

/-- Datagrams of 47, 48 and 1,441 B, of an open and of an unknown session, an ACK (R465, R468, R469). -/
theorem witness_datagram :
    let m := upM (reqM (pdu 3 0x1000 1 1))
    let d := fun (op ses n : Nat) => ({ op := op, session := ses, seq := 2 } : Pdu).bytes ++ List.replicate (n - 32) 0
    let go := fun (l : List Byte) (ok : Bool) => run (.kopDatagramReceive ⟨0, 9, 700, 51480⟩ l false ok) { m := m }
    m.answers = true ∧ (m.iface 0).up = true ∧ run (.kopDatagramReceive ⟨0, 9, 700, 51481⟩ (d 3 5 48) false true) { m := m } = m ∧
    ((go (d 3 5 48) true).ksess 5).src = (0, 9, 700) ∧ (d 3 5 47).length = 47 ∧ (go (d 3 5 47) true).kop.drops = 1 ∧ (go (d 3 5 48) true).kop.drops = 0 ∧
    (go (d 3 5 1441) true).kop.drops = 1 ∧ (Pdu.ofBytes (d 1 0 48)).op = 1 ∧ (go (d 3 6 48) true).eth.wire.length = 1 ∧
    (m.ksess 6).live = false ∧ (go (d 3 5 48) false).kop.tagFail = 1 ∧ (Pdu.ofBytes (d 9 5 48)).op = 9 ∧ (base).pow.collier = true ∧
    ({ m with pow := {} } : Mod).answers = false := by decide +kernel

/-- A fresh request, one still executing, one too old (63 and 64 below the highest), one answered, a 17th (R470). -/
theorem witness_sequence :
    let m := fun (hi : Nat) (c : List (Nat × List Byte)) (n : Nat) => ({ upM with kop := { sess := [(5, { live := true, hi := hi, cache := c, reqs := (List.range n).map fun k => { seq := 100 + k, pdu := [], sig := false } })] } } : Mod)
    let d := fun (op seq : Nat) => ({ op := op, session := 5, seq := seq } : Pdu).bytes ++ List.replicate 16 0
    let go := fun (m : Mod) (l : List Byte) => run (.kopDatagramReceive ⟨0, 9, 700, 51480⟩ l false true) { m := m }
    ((go (m 64 [] 0) (d 3 1)).ksess 5).reqs.length = 1 ∧ (go (m 65 [] 0) (d 3 1)).kop.seqOld = 1 ∧ (go (m 9 [] 0) (d 3 0)).kop.seqOld = 1 ∧
    (go (m 9 [(1, [])] 0) (d 3 1)).eth.wire.length = 1 ∧ ((go (m 120 [] 2) (d 3 101)).ksess 5).reqs.length = 2 ∧
    ((go (m 9 [] 15) (d 3 1)).ksess 5).reqs.length = 16 ∧ (go (m 9 [] 16) (d 3 1)).eth.wire.length = 1 ∧
    (go (m 9 [] 0) (d 7 1)).eth.wire.length = 1 ∧ (Pdu.ofBytes (d 3 1)).version = 1 ∧ (Pdu.ofBytes (d 3 1)).len = 0 := by decide +kernel

/-- An OPEN: granted, refused, beyond the last place, a VERSION, a length and a key that are not accepted (R465, R466, R469). -/
theorem witness_open :
    let v := fun (role : Nat) => beBytes 1 role ++ beBytes 1 4 ++ beBytes 66 ecGx ++ beBytes 66 ecGy ++ List.replicate 34 (0 : Byte)
    let m := fun (n r : Nat) => ({ upM with kop := { sess := (List.range n).map fun k => (k + 1, { live := true, role := r }) } } : Mod)
    let p := fun (ver role : Nat) => ({ version := ver, op := 1, len := 168, value := v role } : Pdu).bytes
    let go := fun (m : Mod) (l : List Byte) => run (.openCmd ⟨0, 9, 700, 51480⟩ l true) { m := m }
    let st := fun (t : Mod) => t.eth.wire.map fun x => match x with
      | .kop _ b => (Pdu.ofBytes b).status
      | _ => 0
    (v 0).length = 168 ∧ beNat (((v 0).drop 166).take 2) = ((v 0).drop 168).length ∧ (Pdu.ofBytes (p 1 0)).value = v 0 ∧
    (m 0 0).grants (v 0) false = true ∧ ecOn (((v 0).drop 1).take 133) = true ∧ ecOn (List.replicate 133 0) = false ∧
    (m 0 0).grants (v 1) true = false ∧ (m 0 0).grants (v 3) true = true ∧ (m 0 0).grants (v 2) true = false ∧
    (m 2 3).roleCount 3 = 2 ∧ (m 1 3).roleCount 3 = 1 ∧ ((m 64 0).kop.sess.filter fun q => q.2.live).length = 64 ∧
    st (go (m 0 0) (p 2 0)) = [0x10] ∧ st (go (m 0 0) ((p 1 0).take 199)) = [0x10] ∧ st (go (m 0 0) (p 1 4)) = [0x16] ∧
    st (go (m 0 0) (p 1 2)) = [0x12] ∧ st (go (m 0 0) ((p 1 0).set 199 1)) = [0x15] ∧ (go (m 0 0) ((p 1 0).take 47)).kop.drops = 1 ∧
    st (go (m 2 3) (p 1 3)) = [0x1E] ∧ st (go (m 64 0) (p 1 0)) = [0x1E] := by decide +kernel

/-- CLOSE, KEEPALIVE, ACK and the timeout of 60 s (R467, R469). -/
theorem witness_session_end :
    let t := fun (n : Nat) => ({ reqM (pdu 2 0 0 0) with tick := { now := n } } : Mod)
    waitsB (reqM (pdu 2 0 0 0)) (pdu 2 0 0 0) = true ∧ waitsB (reqM (pdu 10 0 0 0)) (pdu 10 0 0 0) = true ∧
    ((run (.close 5 1) { m := reqM (pdu 2 0 0 0) }).ksess 5).live = false ∧ (run (.keepalive 5 1) { m := reqM (pdu 10 0 0 0) }).eth.wire.length = 1 ∧
    ((run (.sessionTimeout 5) { m := t 60000000000 }).ksess 5).live = false ∧ ((run (.sessionTimeout 5) { m := t 59999999999 }).ksess 5).live = true := by
  decide +kernel

/-- A PDU sent three and four times (R471). -/
theorem witness_retransmission :
    let m := fun (n : Nat) => ({ base with kop := { sess := [(5, { live := true, subs := [{ no := 3, values := true }], unacked := [{ seq := 1, op := 7, sub := some 3, pdu := [], sends := n }] })] } } : Mod)
    ((m 3).ksess 5).unacked.find? (fun u => u.seq = 1) = some { seq := 1, op := 7, sub := some 3, pdu := [], sends := 3 } ∧
    (run (.notifyRetransmit 5 1) { m := m 3 }).eth.wire.length = 1 ∧ (run (.notifyRetransmit 5 1) { m := m 4 }).eth.wire = [] ∧
    ((run (.notifyRetransmit 5 1) { m := m 4 }).ksess 5).subs.map (·.gap) = [true] := by decide +kernel

/-- GETs: of no object, of a readable one, of one that does not exist, in Kindling, of too many values, of a stopped die (R474). -/
theorem witness_get :
    let g := fun (p : Pdu) (m : Mod) => run (.get 5 1) { m := reqM p 2 m }
    let big := pdu 3 0x2000 1 255
    waitsB (reqM (pdu 3 0x1000 1 1)) (pdu 3 0x1000 1 1) = true ∧ (reqM (pdu 3 0x1000 1 1)).readBad 5 0x1000 (1, 0) = 0 ∧
    (reqM (pdu 3 0x1000 1 1)).readBad 5 0x1000 (99, 0) = 0x14 ∧ (g (pdu 3 0x1000 1 1) base).eth.wire.length = 1 ∧
    (pdu 3 0x1000 1 0).count = 0 ∧ (inState .kindling).pow.state = .kindling ∧ (∀ t ∈ big.targets, (reqM big).readBad 5 0x2000 t = 0) ∧
    (reqM big 2 { base with dieN := { run := .stopped } }).readBad 5 0x2000 (1, 0) = 0x1C ∧
    (run (.ringReadAbort 5 1 0) { m := reqM big 2 { base with dieN := { run := .stopped } } }).eth.wire.length = 1 := by decide +kernel

/-- A readable object, an operator's own, none (R485). -/
theorem witness_read_rights : (base.obj? 5 0x1000 1 0).isSome = true ∧ base.obj? 5 0x1000 0 0 = none ∧ base.obj? 5 0xFFFF 1 0 = none := by
  decide +kernel

/-- A subscription to events, an eighth and a ninth, one that is ended, a delivery that is due and one that is not (R481). -/
theorem witness_subscriptions :
    let v : List Byte := beBytes 1 1 ++ beBytes 1 1 ++ beBytes 2 0x8001 ++ beBytes 2 0x8FFF
    let p := pdu 5 0 0 0 v
    let m := fun (n : Nat) => { reqM p with kop := { (reqM p).kop with sess := [(5, { ((reqM p).ksess 5) with subs := (List.range n).map fun k => { no := k, values := false } })] } }
    let u : KSub := { no := 3, values := true, period := 10, next := 1000 }
    let d := fun (t : Nat) => ({ base with tick := { now := t }, kop := { sess := [(5, { live := true, subs := [u] })] } } : Mod)
    waitsB (m 7) p = true ∧ ((m 7).subOf 5 p.value).1 = 0 ∧ ((m 7).subOf 5 []).1 = 0x15 ∧ ((run (.subscribe 5 1) { m := m 7 }).ksess 5).subs.length = 8 ∧
    ((run (.subscribe 5 1) { m := m 8 }).ksess 5).subs.length = 8 ∧ waitsB (reqM (pdu 6 0 0 0 [] 3)) (pdu 6 0 0 0 [] 3) = true ∧
    ((d 1000).ksess 5).subs.find? (fun v => v.no = 3 && v.values) = some u ∧ (run (.subscriptionDelivery 5 3) { m := d 1000 }).eth.wire.length = 1 ∧
    run (.subscriptionDelivery 5 3) { m := d 999 } = d 999 := by decide +kernel

/-! ### Commands -/

/-- Every command of the table reaches its own rule with an argument of its length, and one byte more is refused (R478, R479). -/
theorem witness_commands :
    (commandTable 5 1 true).all (fun e =>
      let role := e.2.2.1.headD 0
      let p := ask e.2.1 (List.replicate e.2.2.2.2 0)
      let q := ask e.2.1 (List.replicate (e.2.2.2.2 + 1) 0)
      invokesB (reqM p role) e.2.1 e.2.2.1 e.2.2.2.1 p && waitsB (reqM q role) q && decide (q.value.length ≠ e.2.2.2.2)) = true := by
  decide +kernel

/-- The refusals before a command's own rule: COUNT, state, role, signature, busy (R478, R485, R486). -/
theorem witness_command_checks :
    let p := ask 0x1404
    let x := reqM { p with count := 2 }
    let nosig : Mod := { reqM p with kop := { (reqM p).kop with sess := [(5, { live := true, role := 2, reqs := [{ seq := 1, pdu := p.bytes, sig := false }] })] } }
    let go := fun (m : Mod) => ((run (.unload 5 1) { m := m }).eth.wire.length, (run (.unload 5 1) { m := m }).kop.cmds)
    waitsB x { p with count := 2 } = true ∧ go x = (1, []) ∧ go (reqM p 2 (inState .kindling)) = (1, []) ∧ go (reqM p 2 (inState .fault)) = (1, []) ∧
    (1 : Nat) ∉ [2] ∧ go (reqM p 1) = (1, []) ∧ go nosig = (1, []) ∧ nosig.req? 5 1 = some { seq := 1, pdu := p.bytes, sig := false } ∧
    (reqM p 2 { base with kop := { cmds := [(0x1404, { busy := true })] } }).cmdBusy 0x1404 = true := by decide +kernel

/-- An outcome of a busy command, with its session open and closed, and of one that is not busy (R478). -/
theorem witness_outcome :
    let m := fun (b l : Bool) => ({ base with kop := { cmds := [(0x1401, { busy := b, ses := 5 })], sess := [(5, { live := l })] } } : Mod)
    ((m true true).ksess 5).live = true ∧ ((m true true).finish 0x1401 7 0 []).eth.wire.length = 1 ∧ ((m true false).finish 0x1401 7 0 []).eth.wire = [] ∧
    (((m true false).finish 0x1401 7 0 []).cmd 0x1401).status = 7 ∧ (m false true).finish 0x1401 7 0 [] = m false true := by decide +kernel

/-- A session and a context of a host, ready. -/
def cmdM (i : Nat) (arg : List Byte) (role : Nat) (m : Mod) : Mod :=
  reqM (ask i arg) role { m with eth := { m.eth with qps := [(3, { run := .ready })] } }

/-- STAGE of the largest cord, of one byte more, on a stopped die, into the installed slot and the successor's; over a context of the
module pool, over a free one, with none free; the fetch's end (R215, R216, R448, R453). -/
theorem witness_stage :
    let a := fun (slot ctx len : Nat) => beBytes 1 slot ++ beBytes 2 ctx ++ beBytes 4 9 ++ beBytes 8 64 ++ beBytes 4 len
    let go := fun (slot len : Nat) (m : Mod) => run (.stage 5 1) { m := cmdM 0x1400 (a slot 3 len) 2 m }
    let host := fun (m : Mod) => run (.stage 5 1) { m := { cmdM 0x1400 (a 0 2000 64) 2 m with eth := { qps := [(2000, { run := .ready, qpn := 4 })] } } }
    let f := fun (r : QpRun) (c : Nat) => ({ base with cord := { slot0 := { st := .fetching, ctx := c } }, eth := { qps := [(3, { run := r })] },
                                                       kop := { cmds := [(0x1400, { busy := true, arg := a 0 3 2 })] } } : Mod)
    let bytes := fun (m : Mod) => (run (.cordFetchDone (some [1, 2, 3])) { m := m }).cord.slot0.bytes
    invokesB (cmdM 0x1400 (a 0 3 268435456) 2 base) 0x1400 [2] false (ask 0x1400 (a 0 3 268435456)) = true ∧
    (go 0 268435456 base).cord.slot0.st = .fetching ∧ ((go 0 268435457 base).cmd 0x1400).status = 0xF05 ∧ ((go 2 64 base).cmd 0x1400).status = 0xF05 ∧
    ((go 0 64 { base with dieN := { run := .stopped } }).cmd 0x1400).status = 0xF06 ∧
    ((go 0 64 { base with cord := { inst := some 0 } }).cmd 0x1400).status = 0xF07 ∧
    ((go 0 64 { base with cord := { inst := some 1, succ := some 0 } }).cmd 0x1400).status = 0xF07 ∧
    ((go 0 64 { base with cord := { load := some { slot := 0, case := 1, rnd := 0 } } }).cmd 0x1400).status = 0x1A ∧
    (go 0 64 base).cord.slot0.ctx = 3 ∧ (host base).cord.slot0.ctx = 0 ∧ ((host base).qp 0).qpn = 4 ∧
    bytes (f .ready 3) = [1, 2] ∧ bytes (f .error 3) = [] ∧ bytes (f .ready 65536) = [] ∧
    (run (.cordFetchDone none) { m := f .ready 3 }).cord.slot0.st = .empty ∧
    (run (.cordFetchDone none) { m := f .ready 4 }).eth.qps.length = 1 := by decide +kernel

/-- LOAD of a staged cord in Damped, in a state that takes none, without a cord, during a check, with scan open (R215). -/
theorem witness_load_cmd :
    let st := fun (d : ModState) => ({ inState d with cord := { slot0 := { st := .staged, bytes := cordOf 0 [] } } } : Mod)
    let go := fun (m : Mod) => run (.load 5 1) { m := cmdM 0x1401 [0] 2 m }
    let d := st .damped
    invokesB (cmdM 0x1401 [0] 2 d) 0x1401 [2] false (ask 0x1401 [0]) = true ∧ d.loadCase (cordOf 0 []) = some 1 ∧ (go d).cord.load.isSome = true ∧
    ((go (st .running)).cmd 0x1401).status = 0x108 ∧ ((go base).cmd 0x1401).status = 0xF05 ∧
    ((go { d with cord := { d.cord with load := some { slot := 1, case := 1, rnd := 0 } } }).cmd 0x1401).status = 0x109 ∧
    (st .running).pow.state = .running ∧
    ((go { d with tst := { scan := some 5 } }).cmd 0x1401).status = 0x1204 ∧
    ((go { d with dieN := { run := .stopped } }).cmd 0x1401).status = 0x204 ∧
    ((go { inState .damped with dieN := { run := .stopped }, cord := { slot0 := { st := .rejected } } }).cmd 0x1401).status = 0x204 ∧
    ((go { inState .damped with dieN := { run := .stopped } }).cmd 0x1401).detail = 0x1000000 ∧
    ((go { inState .damped with dieN := { run := .stopped } }).slot 0).st = .empty ∧
    ((go { d with cord := { d.cord with inst := some 0 } }).cmd 0x1401).status = 0xF05 := by decide +kernel

/-- A load that fails a check, and one held by a retirement (R217, R299). -/
theorem witness_load_ends :
    let m : Mod := { inState .damped with cord := { slot0 := { st := .staged, bytes := [] }, load := some { slot := 0, case := 1, rnd := 0 } } }
    let r : RetRun := { l := 0, f := 1, pset := 0, chan := 0, why := 0 }
    m.cord.load = some { slot := 0, case := 1, rnd := 0 } ∧ (m.loadCheck 0).isSome = true ∧
    (run (.loadChecksDone true) { m := m }).cord.slot0.st = .rejected ∧
    run (.loadChecksDone true) { m := { m with hbm := { ret := some r } } } = { m with hbm := { ret := some r } } := by decide +kernel

/-- A switch between two cords without placements, at its end; the HANDOVER ticks are over (R238 to R240). -/
theorem witness_switch :
    let m : Mod := { base with cord := { inst := some 0, succ := some 1, handLeft := 1 } }
    let z : Mod := { m with cord := { m.cord with handLeft := 0 } }
    m.cord.succ = some 1 ∧ m.cord.holdOff = none ∧ m.switchSet.contains 0 = false ∧ run (.hearthSwitch 0) { m := m } = m ∧ run .switchTimeout { m := m } = m ∧
    z.train.stop = none ∧ (run .switchTimeout { m := z }).train.stop = some { code := 0x8104, clear := true } := by decide +kernel

/-- The placement of an MC with image 0 on hearth 0, in both cords of a switch (R238). -/
theorem witness_switch_hearth :
    let c := cordOf 0 [(2, 1, leBytes 8 0)]
    let m : Mod := { base with cord := { slot0 := { st := .staged, bytes := c }, slot1 := { st := .staged, bytes := c }, inst := some 0, succ := some 1 } }
    m.switchSet.contains 0 = true ∧ m.coresRun = true ∧ m.maySwitch 0 = true ∧ (run (.hearthSwitch 0) { m := m }).cord.inst = some 1 ∧
    (run (.hearthSwitch 0) { m := m }).cord.succ = none := by decide +kernel

/-- START at each source, STOP of a step to come and of one past, UNLOAD in and out of Damped (R379, R480). -/
theorem witness_start_stop :
    let c := withCord (inState .damped) (cordOf 4 [])
    let go := fun (v : Nat) (m : Mod) => run (.start 5 1) { m := cmdM 0x1402 (beBytes 8 v) 2 m }
    let st := fun (v : Nat) (m : Mod) => run (.stop 5 1) { m := cmdM 0x1403 (beBytes 8 v) 2 m }
    let p := fun (src : Nat) (l : Bool) => ({ c with tick := { src := src, locked := l, cnt := 8 } } : Mod)
    let r : Mod := { withCord base (cordOf 4 []) with train := { running := true, last := 6 } }
    invokesB (cmdM 0x1402 (beBytes 8 0) 2 c) 0x1402 [2] false (ask 0x1402 (beBytes 8 0)) = true ∧ (go 0 c).train.asked = true ∧
    ((go 9 (p 1 true)).cmd 0x1402).status = 0xC01 ∧ (go 10 (p 1 true)).train.startAt = some 10 ∧ ((go 10 (p 1 false)).cmd 0x1402).status = 0xC02 ∧
    ((go 0 (withCord (inState .damped) (cordOf 0 []))).cmd 0x1402).status = 0xD06 ∧ ((go 0 base).cmd 0x1402).status = 0xF02 ∧
    ((go 0 (withCord base (cordOf 4 []))).cmd 0x1402).status = 0xF03 ∧ ((st 6 r).cmd 0x1403).status = 0xF01 ∧ (st 7 r).train.stopAt = 7 ∧
    ((st 7 c).cmd 0x1403).status = 0xF03 ∧ (run (.unload 5 1) { m := cmdM 0x1404 [] 2 c }).cord.inst = none ∧
    ((run (.unload 5 1) { m := cmdM 0x1404 [] 2 r }).cmd 0x1404).status = 0xF03 := by decide +kernel

/-! ### Commands that act on state and memory -/

/-- Status of a command after it has been invoked with an argument. -/
def stOf (c : Instr) (i : Nat) (arg : List Byte) (m : Mod) (role : Nat := 2) : Nat := ((run c { m := cmdM i arg role m }).cmd i).status
/-- The invocation of a command reaches its own rule. -/
def comes (i : Nat) (roles : List Nat) (inFault : Bool) (arg : List Byte) (m : Mod) (role : Nat := 2) : Bool :=
  invokesB (cmdM i arg role m) i roles inFault (ask i arg)
/-- The module of rank 0 of two, with one shard of its own and a job key. -/
def ownM (m : TrainSt := { haveState := true }) : Mod :=
  let r := rankM 0 2 [] [3 + 2 ^ 104 * 32]
  { r with train := m, sec := { r.sec with job := some 1 } }

/-- EXPORT of all shards, of one that is owned, of one that is none; each refusal; its end, idle and busy (R351). -/
theorem witness_export :
    let a := fun (content ctx : Nat) (l : List Nat) => beBytes 1 content ++ beBytes 2 ctx ++ beBytes 12 0 ++ beBytes 2 l.length ++ l.flatMap (beBytes 2)
    let st := fun (content ctx : Nat) (l : List Nat) (m : Mod) => stOf (.exportCmd 5 1) 0x1405 (a content ctx l) m
    let go := fun (m : Mod) => run (.exportCmd 5 1) { m := cmdM 0x1405 (a 7 3 [1]) 2 m }
    let waits : Mod := { ownM with dieN := { run := .stopped }, train := { haveState := true, exports := [{ ctx := 3, rkey := 0, addr := 0, sh := nth 0 ownM.shards 1, content := 7 }] } }
    let busy : Mod := { ownM with kop := { cmds := [(0x1405, { busy := true })] } }
    let other : Mod := { ownM with kop := { cmds := [(0x1406, { busy := true })] } }
    comes 0x1405 [2] false (a 7 3 []) ownM = true ∧ (a 7 3 [1]).length = 17 + 2 * byteN (a 7 3 [1]) 15 2 ∧ idxList 1 ((a 7 3 [1]).drop 17) = [1] ∧
    isShard (nth 0 ownM.shards 1) = true ∧ shOwner (nth 0 ownM.shards 1) = ownM.self ∧ ownM.canSeal = true ∧
    st 7 3 [] base = 0xF02 ∧ st 7 3 [] (ownM {}) = 0xB01 ∧ st 7 3 [0] ownM = 0xB02 ∧ st 7 3 [2] ownM = 0xF05 ∧ st 7 3 [] other = 0xB03 ∧
    st 0 3 [] ownM = 0xB04 ∧ st 8 3 [] ownM = 0xB04 ∧ st 7 4 [] ownM = 0xF05 ∧ st 7 3 [1] { ownM with sec := {} } = 0x1009 ∧
    st 7 3 [1] { ownM with sec := { job := some 1, sealed := 2 ^ 32 } } = 0x100A ∧
    (go { ownM with dieN := { run := .stopped } }).train.exports.length = 1 ∧ ((go { ownM with dieN := { run := .stopped } }).cmd 0x1405).busy = true ∧
    ((run .exportDone { m := { waits with kop := busy.kop } }).cmd 0x1405).busy = true ∧ waits.exportPump.train.exports.length = 1 ∧
    (busy.cmd 0x1405).busy = true ∧ ((run .exportDone { m := busy }).cmd 0x1405).busy = false ∧ run .exportDone { m := ownM } = ownM := by
  decide +kernel

/-- IMPORT's refusals; a manifest of step 9 for a module that owns no shard, and one that does not verify (R353). -/
theorem witness_import :
    let a := fun (ctx : Nat) => beBytes 2 ctx ++ beBytes 16 0
    let d : Mod := { ownM with pow := { state := .damped, collier := true } }
    let st := fun (ctx : Nat) (m : Mod) => stOf (.importCmd 5 1) 0x1406 (a ctx) m
    let n : Mod := { rankM 0 2 with kop := { cmds := [(0x1406, { busy := true })] } }
    let man := leBytes 128 (0x4C414553 + 2 ^ 32 * 2 + 2 ^ 40 + 2 ^ 320 * 128) ++ leBytes 128 (0x54504B43 + 2 ^ 128 * 9)
    let t := run (.importDone man true []) { m := n }
    comes 0x1406 [2] false (a 3) d = true ∧ st 3 base = 0xF02 ∧ st 3 ownM = 0xB11 ∧ st 4 d = 0xF05 ∧
    st 3 { d with kop := { cmds := [(0x1405, { busy := true })] } } = 0xB03 ∧ ((run (.importCmd 5 1) { m := cmdM 0x1406 (a 3) 2 d }).cmd 0x1406).busy = true ∧
    n.importBad man true [] = none ∧ t.train.last = 9 ∧ t.train.step = 10 ∧ t.train.haveState = true ∧
    n.importBad man false [] = some (0xB14, 0) ∧ ((run (.importDone man false []) { m := n }).cmd 0x1406).status = 0xB14 ∧
    run (.importDone man true []) { m := ownM } = ownM := by decide +kernel

/-- R353: the bias product of two updates of β = 0.5 is 0.25. -/
theorem test_import_bias : mulTimes 0x3F000000#32 2 0x3F800000#32 = 0x3E800000#32 := by decide +kernel

/-- DIGEST_NOW, DECLARE_LOST of the last rank and of one beyond it, both without a cord (R414, R418). -/
theorem witness_digest_and_loss :
    let n := rankM 0 2
    comes 0x1407 [2] false [] n = true ∧ stOf (.digestNow 5 1) 0x1407 [] n = 0 ∧ stOf (.digestNow 5 1) 0x1407 [] base = 0xF02 ∧
    comes 0x1408 [1] false (beBytes 2 1) n 1 = true ∧ stOf (.declareLost 5 1) 0x1408 (beBytes 2 1) n 1 = 0 ∧ n.nmod = 2 ∧
    (run (.declareLost 5 1) { m := cmdM 0x1408 (beBytes 2 1) 1 n }).clus.lost = [1] ∧ stOf (.declareLost 5 1) 0x1408 (beBytes 2 2) n 1 = 0xF05 ∧
    stOf (.declareLost 5 1) 0x1408 (beBytes 2 0) base 1 = 0xF05 ∧ (1 ∉ n.clus.lost) ∧ 1 ≠ n.self ∧ n.self = 0 ∧ n.train.stop = none ∧
    (run (.declareLost 5 1) { m := cmdM 0x1408 (beBytes 2 0) 1 n }).clus.departed = true ∧
    (run (.declareLost 5 1) { m := cmdM 0x1408 (beBytes 2 1) 1 { n with clus := { lost := [1] } } }).clus.lost = [1] := by decide +kernel

/-- REPLACE of a lost rank by its partner and by a rank that is not, of one's own, in phase 1, of a wrong MODULE_ID, beyond the ranks (R424). -/
theorem witness_replacement :
    let a := fun (r old : Nat) => beBytes 2 r ++ beBytes 8 old ++ beBytes 8 77
    let m := fun (n modes : Nat) => ({ rankM 0 n [pairSect 0 1] [] modes with clus := { lost := [n - 1], repair := true } } : Mod)
    let go := fun (r old : Nat) (m : Mod) => run (.replace 5 1) { m := cmdM 0x1409 (a r old) 2 m }
    comes 0x1409 [2] false (a 1 0) (m 2 0) = true ∧ (m 2 0).idOf 1 = 0 ∧ cPhase (m 2 0).img = 0 ∧ cPhase (m 2 16).img = 1 ∧
    (m 2 0).partner = some 1 ∧ (m 3 0).partner ≠ some 2 ∧
    ((go 1 0 (m 2 0)).clus.ids, (go 1 0 (m 2 0)).clus.lost) = ([(1, 77)], []) ∧ ((go 0 0 (m 2 0)).clus.repl) = true ∧
    (go 2 0 { m 3 0 with clus := { lost := [1, 2], repair := true } }).clus.repair = true ∧
    ((go 2 0 (m 3 0)).clus.repair, ((go 2 0 (m 3 0)).cmd 0x1409).status) = (false, 0) ∧
    ((go 2 0 (m 2 0)).cmd 0x1409).status = 0xF05 ∧ ((go 1 5 (m 2 0)).cmd 0x1409).status = 0xD11 ∧ ((go 1 0 (rankM 0 2)).cmd 0x1409).status = 0xD11 ∧
    ((go 1 0 (m 2 16)).cmd 0x1409).status = 0xD12 ∧ ((go 1 0 base).cmd 0x1409).status = 0xD11 := by decide +kernel

/-- CAPTURE of groups 0 and 127, of 128; of no tick, one, 4,096 and 4,097; of a region with just that room and one byte less (R247). -/
theorem witness_capture :
    let m := fun (len : Nat) => withCord base (cordOf 0 [(0x11, 1, regEnt 12 8192 len), (0xF, 1, leBytes 16 1)])
    let a := fun (hv g ng n : Nat) => beBytes 2 hv ++ beBytes 8 0 ++ beBytes 1 g ++ beBytes 1 ng ++ beBytes 2 n
    let st := fun (hv g ng n len : Nat) => stOf (.capture 5 1) 0x140A (a hv g ng n) (m len)
    comes 0x140A [2] false (a 0 0 1 1) (m 14336) = true ∧ st 0 0 1 1 14336 = 0 ∧ st 0 0 1 1 14335 = 0xF04 ∧ st 0 127 1 1 14336 = 0 ∧
    st 0 127 2 1 28672 = 0xF05 ∧ st 0 0 0 1 14336 = 0xF05 ∧ st 1 0 1 1 14336 = 0xF05 ∧ st 0 0 1 0 14336 = 0x16 ∧
    st 0 0 1 4096 58720256 = 0 ∧ st 0 0 1 4097 58734592 = 0x16 ∧
    (run (.capture 5 1) { m := cmdM 0x140A (a 0 0 1 1) 2 (m 14336) }).hbm.capture = some { hv := 0, off := 0, g0 := 0, ng := 1, left := 1 } := by
  decide +kernel

/-- HOST_QP_CREATE for a listed host and for one that is not; contexts 1024 to 2047; HOST_QP_DESTROY (R448, R449). -/
theorem witness_host_queue_pairs :
    let a := beBytes 16 9 ++ beBytes 4 1234 ++ beBytes 4 7
    let l : Mod := { base with sec := { hosts := [9] } }
    let one : Mod := { base with eth := { qps := [(1024, { run := .ready })] } }
    comes 0x140B [1] false a l 1 = true ∧ stOf (.hostQpCreate 5 1) 0x140B a base 1 = 0xE04 ∧ (cmdM 0x140B a 1 l).freeCtx 1024 2048 = some 1024 ∧
    ((run (.hostQpCreate 5 1) { m := cmdM 0x140B a 1 l }).qp 1024).qpn = 1234 ∧
    ((run (.hostQpCreate 5 1) { m := cmdM 0x140B a 1 l }).qp 1024).epsn = 7 ∧
    one.hostQp 1024 = true ∧ one.hostQp 1025 = false ∧ one.hostQp 3 = false ∧ comes 0x140C [1] false (beBytes 2 1024) one 1 = true ∧
    stOf (.hostQpDestroy 5 1) 0x140C (beBytes 2 1024) base 1 = 0xF05 ∧
    ((run (.hostQpDestroy 5 1) { m := reqM (ask 0x140C (beBytes 2 1024)) 1 one }).qp 1024).run = .free := by decide +kernel

/-- RING_CREATE on channels 27, 28, 31 and 32, of 8, 16 and 65,536 entries, beside its region; RING_DESTROY (R455, R463). -/
theorem witness_rings :
    let m : Mod := { withCord base (cordOf 0 [(0x11, 1, regEnt 12 8192 4194304), (0xF, 1, leBytes 16 (1 + 2 ^ 22))]) with
      eth := { qps := [(1024, { run := .ready })] } }
    let a := fun (b n ch x : Nat) => beBytes 8 b ++ beBytes 4 n ++ beBytes 1 ch ++ beBytes 2 x
    let go := fun (b n ch x : Nat) => run (.ringCreate 5 1) { m := reqM (ask 0x140D (a b n ch x)) 1 m }
    let st := fun (b n ch x : Nat) => ((go b n ch x).cmd 0x140D).status
    let two : Mod := { m with dma := { rings := [(6912, { live := true, base := 8192, own := 1025 })] } }
    invokesB (reqM (ask 0x140D (a 8192 16 27 1024)) 1 m) 0x140D [1] false (ask 0x140D (a 8192 16 27 1024)) = true ∧
    (reqM (ask 0x140D (a 8192 16 27 1024)) 1 m).freeRing 27 = some 6912 ∧ ((go 8192 16 27 1024).ring 6912).live = true ∧
    ((go 8192 65536 27 1024).ring 6912).ents = 65536 ∧ m.freeCtx 1024 2048 = some 1025 ∧
    st 8192 16 28 1024 = 0xE05 ∧ st 8192 16 31 1024 = 0xE05 ∧ st 8192 16 32 1024 = 0xF05 ∧ st 8192 16 0 1023 = 0xF05 ∧ st 8192 8 0 1024 = 0x16 ∧
    st 8192 131072 0 1024 = 0x16 ∧ st 8200 16 0 1024 = 0x16 ∧ st 8128 16 0 1024 = 0x16 ∧
    ((run (.ringDestroy 5 1) { m := reqM (ask 0x140E (beBytes 2 6912)) 1 two }).ring 6912).live = false ∧
    invokesB (reqM (ask 0x140E (beBytes 2 6912)) 1 two) 0x140E [1] false (ask 0x140E (beBytes 2 6912)) = true ∧
    ((run (.ringDestroy 5 1) { m := reqM (ask 0x140E (beBytes 2 6913)) 1 two }).cmd 0x140E).status = 0xF05 := by decide +kernel

/-- HBM sets, flash dies: the last and one beyond, in Running, Damped and Draining; a return while the set is being retired (R300, R564). -/
theorem witness_service_retires :
    let d := inState .damped
    let x := inState .draining
    let r : RetRun := { l := 0, f := 1, pset := 4, chan := 0, why := 0 }
    let busy : Mod := { d with hbm := { ret := some r, retQ := [{ r with pset := 6 }] } }
    comes 0x140F [3] true (beBytes 2 383) base 3 = true ∧ stOf (.hbmRetire 5 1) 0x140F (beBytes 2 383) base 3 = 0 ∧
    stOf (.hbmRetire 5 1) 0x140F (beBytes 2 384) base 3 = 0xF05 ∧ stOf (.hbmRetire 5 1) 0x140F (beBytes 2 0) x 3 = 0x1201 ∧ psetOf 383 ≠ 4 ∧
    comes 0x1410 [3] true [31] d 3 = true ∧ stOf (.hbmReturn 5 1) 0x1410 [32] d 3 = 0xF05 ∧ stOf (.hbmReturn 5 1) 0x1410 [4] base 3 = 0x1201 ∧
    stOf (.hbmReturn 5 1) 0x1410 [4] busy 3 = 1 ∧ stOf (.hbmReturn 5 1) 0x1410 [5] busy 3 = 0 ∧ stOf (.hbmReturn 5 1) 0x1410 [6] busy 3 = 1 ∧
    comes 0x1411 [3] true [63] base 3 = true ∧ stOf (.flashDieRetire 5 1) 0x1411 [63] base 3 = 0 ∧
    stOf (.flashDieRetire 5 1) 0x1411 [64] base 3 = 0xF05 ∧ stOf (.flashDieRetire 5 1) 0x1411 [0] x 3 = 0x1201 := by decide +kernel

/-- COLUMN_RETIRE of columns 63, 64 and 65 of dies 1 and 2, of a die whose spare is used or unsound, with a cord (R564). -/
theorem witness_column_retired :
    let d := inState .damped
    let st := fun (die col : Nat) (fails : Bool) (m : Mod) => stOf (.columnRetire 5 1 fails) 0x1412 [BitVec.ofNat 8 die, BitVec.ofNat 8 col] m 3
    let used : Mod := { d with dieN := { f := 63 } }
    comes 0x1412 [3] true [0, 63] d 3 = true ∧ (d.die 0).f = 64 ∧ (d.die 0).sound = true ∧ st 0 63 false d = 0 ∧ st 1 64 false d = 0 ∧
    st 2 63 false d = 0xF05 ∧ st 0 65 false d = 0xF05 ∧ st 0 63 false base = 0x1201 ∧ st 0 63 false (withCord d (cordOf 0 [])) = 0x1202 ∧
    st 0 5 false used = 0x1203 ∧ st 0 5 false { d with dieN := { sound := false } } = 0x1203 ∧ st 0 64 true used = 0x1206 ∧
    st 0 64 false used = 0 ∧ ((run (.columnRetire 5 1 false) { m := cmdM 0x1412 [0, 64] 3 used }).die 0).f = 64 := by decide +kernel

/-- Every context of the host pool is in use. -/
def fullHost : Mod := { base with sec := { hosts := [9] }, eth := { qps := (List.range' 1024 1024).map fun k => (k, {}) } }
theorem witness_host_pool_full : fullHost.freeCtx 1024 2048 = none := by
  simp only [Mod.freeCtx, fullHost, List.map_map, List.length_map, List.length_range', List.find?_eq_none, List.mem_map, List.mem_range]
  rintro _ ⟨i, hi, rfl⟩
  have h : i < 1024 := by rwa [show Nat.min (1024 + 1) (2048 - 1024) = 1024 from rfl] at hi
  simpa [Function.comp_def, List.mem_range'] using h

/-! ### Trust -/

/-- A point of the curve, 7 times its base point. -/
def ecKey : List Byte := beBytes 1 4 ++ beBytes 66 0x56d5d1d99d5b7f6346eeb65fda0b073a0c5f22e0e8f5483228f018d2c2f7114c5d8c308d0abfc698d8c9a6df30dce3bbc46f953f50fdc2619a01cead882816ecd4 ++
  beBytes 66 0x3d2d1b7d9baaa2a110d1d8317a39d68478b5c582d02824f0dd71dbd98a26cbde556bd0f293cdec9e2b9523a34591ce1a5f9e76712a5ddefc7b5c6b8bc90525251b
/-- Signatures of its key over the text of BIND and over those of DEBUG_UNLOCK to state 1 and 2 under the nonce 7, of MODULE_ID 5. -/
def sigBind : List Byte := beBytes 66 0x8a75841259fdedff546f1a39573b4315cfed5dc7ed7c17849543ef2c54f2991652f3dbc5332663da1bd19b1aebe3191085015c024fa4c9a902ecc0e02dda0cdb9a ++
  beBytes 66 0x2998c7a87959a1741cc588e2056de8b62bde56791f5ba9395bcd6f3cd9ee8d4d72abd869702d7d20ce55a733de38fe28905605b07013591ab96a3053a11081a706
def sigState : Nat → List Byte
  | 1 => beBytes 66 0x7e3e98f984c396ad9cd7865d2b4924861a93f736cde1b4c2384eedd2beaf5b866132c45908e03c996a3550a5e79ab88ee94bec3b00ab38eff81887848d32fbcda7 ++
    beBytes 66 0x1cde60ee1aee6f46cb51de75a0f23dc2e683da85bb74a6777dcc3ea825ad2c76185cd999dcdb99c71b35218b91845155421f60092c9658eba22086c0230319eda1c
  | _ => beBytes 66 0x1b00ddb707f130eda13a0b874645923906a99ee9e269fa2b3b4d66524f269250858760a69e674fe0287df4e799b5681380ff8c3042af0d1a41076f817a853110ae0 ++
    beBytes 66 0xd012900da361f59c979117207eb22b28f6c6cff01da93739af006400c324cba7e54611c9e37b028579c63ee3a732088ced853acc331ef70e77d45be5c53a9bb92b

/-- BIND, Damped; bound already; a bad proof; a journal that does not take it; in Running (R502). -/
theorem witness_binding :
    let d : Mod := { inState .damped with sec := { id := 5 } }
    let a := ecKey ++ sigBind
    let st := fun (m : Mod) => stOf (.bind 5 1 true) 0x1413 a m
    d.bindProof a = true ∧ comes 0x1413 anyRole true a d 0 = true ∧ st { d with sec := { owner := [4], id := 5 } } = 0x1001 ∧
    stOf (.bind 5 1 true) 0x1413 (List.replicate 265 4) d = 0x1003 := by decide +kernel
theorem witness_binding_not_kept :
    stOf (.bind 5 1 false) 0x1413 (ecKey ++ sigBind) { inState .damped with sec := { id := 5 } } = 0x1D := by decide +kernel
theorem witness_binding_damped :
    let d : Mod := { inState .damped with sec := { id := 5 } }
    let a := ecKey ++ sigBind
    let t := run (.bind 5 1 true) { m := cmdM 0x1413 a 0 d }
    t.sec.owner = ecKey ∧ (t.cmd 0x1413).status = 0 ∧ (run (.bind 5 1 true) { m := cmdM 0x1413 a 0 { d with pow := base.pow } }).sec.owner = [] := by
  decide +kernel

/-- ATTEST, and one that waits for a zeroisation (R511, R527). -/
theorem witness_attestation :
    let a : List Byte := List.replicate 64 255
    let z : Mod := { base with sec := { zero := some 0x141B } }
    comes 0x1415 anyRole true a base 0 = true ∧ stOf (.attest 5 1) 0x1415 a base 0 = 0 ∧ z.sec.zero.isSome = true ∧
    ((run (.attest 5 1) { m := cmdM 0x1415 a 0 z }).ksess 5).reqs.length = 1 := by decide +kernel

/-- A report of a module in the last debug state under the greatest nonce (R511). -/
theorem witness_report :
    let m : Mod := { base with sec := { state := 2, id := 2 ^ 64 - 1, fwVer := 2 ^ 32 - 1, roll := 2 ^ 32 - 1, jobId := 2 ^ 64 - 1 } }
    let nonce : List Byte := List.replicate 64 255
    nonce.length = 64 ∧ m.sec.state < 256 ∧ m.sec.id < 2 ^ 64 ∧ m.sec.fwVer < 2 ^ 32 ∧ cId m.img < 2 ^ 64 ∧ m.time < 2 ^ 64 ∧
    slice (leNat (m.report nonce)) 55 48 = 2 ∧ slice (leNat (m.report nonce)) 1919 1408 = 2 ^ 512 - 1 := by decide +kernel

/-- JOB_KEY_SET and JOB_KEY_CLEAR, with each refusal (R516, R523). -/
theorem witness_job_key :
    let a := List.replicate 133 (0 : Byte) ++ beBytes 8 6 ++ List.replicate 48 0
    let d : Mod := { inState .damped with sec := { owner := [4], sealed := 9 } }
    let st := fun (ok : Bool) (m : Mod) => stOf (.jobKeySet 5 1 ok) 0x1416 a m
    let x : Mod := { d with kop := { cmds := [(0x1405, { busy := true })] } }
    comes 0x1416 [2] false a d = true ∧ d.mayKey = true ∧ x.mayKey = false ∧ st true d = 0 ∧ st false d = 0x1005 ∧ st true x = 0x1004 ∧
    st true { d with pow := base.pow } = 0x1004 ∧ st true (inState .damped) = 0x1002 ∧
    (run (.jobKeySet 5 1 true) { m := cmdM 0x1416 a 2 d }).sec.jobId = 6 ∧ (run (.jobKeySet 5 1 true) { m := cmdM 0x1416 a 2 d }).sec.sealed = 0 ∧
    comes 0x1417 [2] false [] d = true ∧ stOf (.jobKeyClear 5 1) 0x1417 [] d = 0 ∧ stOf (.jobKeyClear 5 1) 0x1417 [] x = 0x1004 := by decide +kernel

/-- The commands that zeroise, in Damped, Fault and Running (R504, R520). -/
theorem witness_zeroise_commands :
    let f : Mod := { inState .fault with sec := { owner := [4] } }
    let goes := fun (c : Instr) (i : Nat) (arg : List Byte) (role : Nat) (m : Mod) => (run c { m := cmdM i arg role m }).sec.zero
    comes 0x141B [2] true [] f = true ∧ goes (.zeroise 5 1) 0x141B [] 2 f = some 0x141B ∧ stOf (.zeroise 5 1) 0x141B [] base = 0x1004 ∧
    comes 0x1414 [2] true [] f = true ∧ goes (.unbind 5 1) 0x1414 [] 2 f = some 0x1414 ∧ stOf (.unbind 5 1) 0x1414 [] (inState .damped) = 0x1002 ∧
    stOf (.unbind 5 1) 0x1414 [] { base with sec := f.sec } = 0x1004 ∧
    comes 0x141A [2, 3] true [] f = true ∧ goes (.debugLock 5 1) 0x141A [] 3 f = some 0x141A ∧ stOf (.debugLock 5 1) 0x141A [] base = 0x1004 ∧
    comes 0x1418 [3] true [] f 3 = true ∧ stOf (.debugChallenge 5 1) 0x1418 [] f 3 = 0 := by decide +kernel

/-- DEBUG_UNLOCK to states 0 to 3, with a nonce of 300 s and 1 ns more, without a nonce, an owner, a signature, in Running (R519). -/
theorem witness_debug_unlock :
    let f : Mod := { inState .fault with sec := { owner := ecKey, id := 5 } }
    let u := fun (age : Nat) => ({ f with tick := { now := age }, sec := { f.sec with nonce := some ([7], 0) } } : Mod)
    let a := fun (g : Nat) => beBytes 1 g ++ sigState g ++ List.replicate 132 (0 : Byte)
    let st := fun (g : Nat) (ok : Bool) (m : Mod) => stOf (.debugUnlock 5 1 ok) 0x1419 (a g) m 3
    comes 0x1419 [3] true (a 1) (u 0) 3 = true ∧ st 0 true (u 0) = 0x16 ∧ st 3 true (u 0) = 0x16 ∧
    st 1 true (u 300000000001) = 0x1006 ∧ st 1 false (u 0) = 0x1006 ∧ st 1 true f = 0x1006 ∧ st 1 true (inState .damped) = 0x1002 ∧
    st 1 true { u 0 with pow := base.pow } = 0x1004 := by decide +kernel
theorem witness_debug_unlocks :
    let u : Mod := { inState .fault with sec := { owner := ecKey, id := 5, nonce := some ([7], 0) }, tick := { now := 300000000000 } }
    u.unlockSigned (beBytes 1 1 ++ sigState 1) = true ∧ u.unlockSigned (beBytes 1 2 ++ sigState 2) = true ∧
    u.unlockSigned (beBytes 1 2 ++ sigState 1) = false ∧
    (run (.debugUnlock 5 1 true) { m := cmdM 0x1419 (beBytes 1 1 ++ sigState 1 ++ List.replicate 132 (0 : Byte)) 3 u }).sec.zero = some 0x1419 := by
  decide +kernel

/-- A zeroisation that ends, of each command, and none (R520, R521). -/
theorem witness_zeroisation :
    let m := fun (c : Nat) => ({ inState .damped with sec := { zero := some c, owner := [4], state := 1 }, hbm := { mem := [(0, 1)] }, kop := { cmds := [(c, { arg := [2], ses := 5 })], sess := [(5, { live := true })] } } : Mod)
    let t := fun (c : Nat) => run .zeroiseDone { m := m c }
    (base).sec.zero = none ∧ (m 0x1414).sec.zero = some 0x1414 ∧ (t 0x1414).sec.owner = [] ∧ (t 0x141B).sec.owner = [4] ∧ (t 0x141B).sec.state = 1 ∧
    (t 0x1419).sec.state = 2 ∧ (t 0x1419).sec.dbgBind = true ∧ (t 0x141A).sec.state = 0 ∧ (t 0x141A).hbm.mem = [] ∧ (t 0x141A).sec.zero = none := by
  decide +kernel

/-- An image pair with empty images, at a rollback index. -/
def pairOf (k1 k2 roll : Nat) : List Byte :=
  leBytes 128 (0x4D524946 + 2 ^ 32 * k1 + 2 ^ 96 * roll) ++ List.replicate 132 0 ++ leBytes 128 (0x4D524946 + 2 ^ 32 * k2 + 2 ^ 64 * 8 + 2 ^ 96 * roll) ++
    List.replicate 132 0

/-- A pair that verifies, at the fuses' index; one below, a byte missing, kinds exchanged, a signature that fails (R499). -/
theorem witness_firmware_checks :
    fwBad (pairOf 1 2 5) true 5 = none ∧ fwBad (pairOf 1 2 5) true 6 = some 0x1008 ∧ fwBad ((pairOf 1 2 5).dropLast) true 5 = some 0x1007 ∧
    fwBad (pairOf 2 1 5) true 5 = some 0x1007 ∧ fwBad (pairOf 1 2 5) false 5 = some 0x1007 ∧
    fwBad (pairOf 1 2 5 ++ [0]) true 5 = none := by decide +kernel

/-- FW_UPDATE of an Owner and of the Service role in Fault, without a context; its end with a pair, with a bad one, with none (R500). -/
theorem witness_firmware_update :
    let f := inState .fault
    let a := fun (x : Nat) => beBytes 2 x ++ beBytes 16 0
    let m : Mod := { base with kop := { cmds := [(0x141C, { busy := true })] } }
    comes 0x141C [2, 3] true (a 3) f 3 = true ∧ ((run (.fwUpdate 5 1) { m := cmdM 0x141C (a 3) 3 f }).cmd 0x141C).busy = true ∧
    stOf (.fwUpdate 5 1) 0x141C (a 3) f 2 = 0x1B ∧ stOf (.fwUpdate 5 1) 0x141C (a 4) f 3 = 0xF05 ∧ (m.cmd 0x141C).busy = true ∧ m.sec.active ≤ 1 ∧
    (run (.fwStaged (some (pairOf 1 2 0)) true) { m := m }).sec.bank1.ver = 8 ∧ (run (.fwStaged (some (pairOf 1 2 0)) true) { m := m }).sec.trial = true ∧
    ((run (.fwStaged (some []) true) { m := m }).cmd 0x141C).status = 0x1007 ∧ ((run (.fwStaged none true) { m := m }).cmd 0x141C).status = 0x1007 ∧
    run (.fwStaged none true) { m := base } = base := by decide +kernel

/-- A KEX message of a type from a rank, with a tail. -/
def kexMsg (ty r : Nat) (l : List Byte) : List Byte := beBytes 1 ty ++ beBytes 8 0 ++ beBytes 2 r ++ l
/-- A certificate of no bytes and a report over a transcript. -/
def kexEnd (t : List Byte) : List Byte := beBytes 2 0 ++ leBytes 256 (2 ^ 1408 * leNat (sha512 t))
/-- Rank `self` of two, its session with the other in a state of the exchange. -/
def kexM (self : Nat) (k : KexSt) (trans : List Byte := []) (age : Nat := 0) (op : Bool := false) : Mod :=
  let m := rankM self 2 [pairSect 0 1]
  { m with sec := { m.sec with sess := [(1 - self, { kex := k, trans := trans, open' := op })] }, tick := { now := age } }

/-- KEX1 to a higher rank and to a lower; KEX2 and KEX3, awaited, not awaited, refused, verified (R508, R509). -/
theorem witness_key_exchange :
    let part : List Byte := List.replicate 166 0
    let k1 := kexMsg 1 0 []
    let k2 := kexMsg 2 1 (part ++ kexEnd part)
    let k3 := kexMsg 3 0 (kexEnd [9])
    kexType k1 = 1 ∧ kexRank k1 = 0 ∧ (kexM 1 .none).kexFor 0 = true ∧ (kexM 1 .none).self = 1 ∧ (base).kexFor 0 = false ∧
    ((run (.kex1Receive k1) { m := kexM 1 .none }).msess 0).kex = .sent2 ∧ run (.kex1Receive (kexMsg 1 1 [])) { m := kexM 0 .none } = kexM 0 .none ∧
    kex2Part k2 = part ∧ kexType k2 = 2 ∧ ((kexM 0 .sent1).msess 1).kex = .sent1 ∧
    (kexM 0 .sent1).peerBad 1 (kexReport (kexProof k2 177)) part true true = none ∧
    (kexM 0 .sent1).peerBad 1 (kexReport (kexProof k2 177)) part false true = some 0x1011 ∧
    ((run (.kex2Receive k2 true true) { m := kexM 0 .sent1 }).msess 1).kex = .sent3 ∧
    ((run (.kex2Receive k2 false true) { m := kexM 0 .sent1 }).msess 1).kex = .none ∧
    run (.kex2Receive k2 true true) { m := kexM 0 .none } = kexM 0 .none ∧
    kexType k3 = 3 ∧ (kexM 1 .sent2 [9]).peerBad 0 (kexReport (kexProof k3 11)) [9] true true = none ∧
    ((run (.kex3Receive k3 true true) { m := kexM 1 .sent2 [9] }).msess 0).open' = true ∧
    ((run (.kex3Receive k3 true false) { m := kexM 1 .sent2 [9] }).msess 0).kex = .none ∧
    run (.kex3Receive k3 true true) { m := kexM 1 .none } = kexM 1 .none := by decide +kernel

/-- R509: each of the six codes. -/
theorem witness_peer_checks :
    let rep := fun (id own st cord : Nat) => leBytes 256 (2 ^ 48 * st + 2 ^ 64 * id + 2 ^ 192 * cord + 2 ^ 384 * own + 2 ^ 1408 * leNat (sha512 [9]))
    let bad := fun (r : List Byte) (t : List Byte) => (kexM 0 .sent1).peerBad 1 r t true true
    bad (rep 0 0 0 0) [9] = none ∧ bad (rep 0 0 0 0) [8] = some 0x1012 ∧ bad (rep 5 0 0 0) [9] = some 0x1013 ∧ bad (rep 0 5 0 0) [9] = some 0x1014 ∧
    bad (rep 0 0 1 0) [9] = some 0x1015 ∧ bad (rep 0 0 0 5) [9] = some 0x1016 ∧ (kexM 0 .sent1).peerBad 1 (rep 0 0 0 0) [9] true false = some 0x1012 := by
  decide +kernel

/-- The exchange's last message; 2 s and 1 ns less; 1 s after a failure (R508). -/
theorem witness_key_exchange_ends :
    let go := fun (m : Mod) => ((run (.kexTimeout 1) { m := m }).msess 1).kex
    ((run (.kexConfirmReceive 1 true) { m := kexM 0 .sent3 }).msess 1).open' = true ∧ run (.kexConfirmReceive 1 false) { m := kexM 0 .sent3 } = kexM 0 .sent3 ∧
    run (.kexConfirmReceive 1 true) { m := kexM 0 .sent1 } = kexM 0 .sent1 ∧ go (kexM 0 .sent1 [] 2000000000) = .none ∧
    go (kexM 0 .sent1 [] 1999999999) = .sent1 ∧ (kexM 0 .none).needs.contains 1 = true ∧ go (kexM 0 .none [] 1000000000) = .sent1 ∧
    go (kexM 0 .none [] 999999999) = .none ∧ go (kexM 0 .none [] 1000000000 true) = .none := by decide +kernel

/-! ### Settings -/

/-- A SET of one object for every row of settings, with a value that its owner takes. -/
def settingSets : List (Nat × Nat × List Byte) :=
  [(0x1800, 1, [2]), (0x1210, 1, [9]), (0x1210, 2, [0]), (0x1210, 2, [1]), (0x1200, 5, [1]), (0x1100, 3, [1]), (0x2010, 1, [1]), (0x2010, 2, [1]),
   (0x2010, 3, [1]), (0x2011, 13, [0, 5]), (0x2020, 1, [1])]

/-- Each row takes its SET (R476, R487). -/
theorem witness_setting_rows :
    (List.zip (settingRows 5 1 true) settingSets).all (fun q =>
      let p := pdu 4 q.2.1 q.2.2.1 1 q.2.2.2
      let m := reqM p 2 (inState .damped)
      waitsB m p && decide (p.row = q.1.2) && decide (m.writeBad 5 p.index true (p.sub, 0) = 0) && (m.obj? 5 p.index p.sub 0).all (fun x => decide (x.ty.take p.value = some p.value.length)) &&
        decide ((m.setOne 5 p.index p.sub 0 p.value).status < 2) && decide ((run q.1.1 { m := m }).eth.wire.length = 1)) = true := by
  decide +kernel

/-- A SET in Kindling, of a read-only object, of a value too long, refused by its owner, and a journal write that fails (R476, R487). -/
theorem witness_setting_refused :
    let p := fun (i sub : Nat) (v : List Byte) => pdu 4 i sub 1 v
    let go := fun (kept : Bool) (p : Pdu) (m : Mod) => (run (.objectWrite 5 1 kept) { m := reqM p 2 m })
    (inState .kindling).pow.state = .kindling ∧ (go true (p 0x1800 1 [2]) (inState .kindling)).pow.policy = 0 ∧
    (reqM (p 0x1000 1 [0])).writeBad 5 0x1000 true (1, 0) ≠ 0 ∧ (go true (p 0x1800 1 [1, 1]) base).pow.policy = 0 ∧
    2 ≤ ((reqM (p 0x1800 1 [3])).setOne 5 0x1800 1 0 [3]).status ∧ (go true (p 0x1800 1 [3]) base).pow.policy = 0 ∧
    (go false (p 0x1800 1 [2]) base).pow.policy = 0 ∧ (go true (p 0x1800 1 [2]) base).pow.policy = 2 ∧
    (go true (p 0x1800 1 [2]) base).pow.journal.length = 1 ∧ (go true (p 0x1600 4 [2]) base).pow.journal = [] := by decide +kernel

/-- A SET of two objects: none named, in Kindling, a second that is not there, too few bytes, a second value refused, a journal that fails,
both written, and one that is pending (R476, R487). -/
theorem witness_settings :
    let p := fun (sub n : Nat) (v : List Byte) => pdu 4 0x1800 sub n v
    let v := fun (pol cap : Nat) => beBytes 1 pol ++ beBytes 2 cap
    let go := fun (kept : Bool) (p : Pdu) (m : Mod) => run (.objectWrite 5 1 kept) { m := reqM p 2 m }
    let st := fun (kept : Bool) (p : Pdu) (m : Mod) => (go kept p m).eth.wire.map fun x => match x with
      | .kop _ b => (Pdu.ofBytes b).status
      | _ => 0
    let two := p 1 2 (v 1 900)
    let m := reqM two
    let dr : Mod := { base with dieS := { run := .draining } }
    waitsB m two = true ∧ two.row = 0 ∧ two.targets = [(1, 0), (2, 0)] ∧ (∀ t ∈ two.targets, m.writeBad 5 0x1800 true t = 0) ∧
    st true (p 1 0 []) base = [0x10] ∧ st true two (inState .kindling) = [0x1B] ∧ st true (p 98 2 (v 1 900)) base = [0x14] ∧
    (reqM (p 1 200 [])).writeBad 5 0x1800 true (1, 0) = 0 ∧ (reqM (p 1 200 [])).writeBad 5 0x1800 true (99, 0) = 0x14 ∧
    st true (p 1 2 [1, 2]) base = [0x15] ∧ (m.setAll 5 0x1800 false [((1, 0), [1]), ((2, 0), beBytes 2 790)]).2 = some (2, 0) ∧
    st true (p 1 2 (v 1 790)) base = [0x16] ∧ (go true (p 1 2 (v 1 790)) base).pow.policy = 0 ∧ st false two base = [0x1D] ∧
    (go true two base).pow.policy = 1 ∧ (go true two base).pow.capW = 900 ∧ (go true two base).pow.journal.map (·.kind) = [2, 3, 3] ∧
    (dr.setAll 5 0x1211 false [((2, 0), [1])]).1.status = 1 ∧ (dr.setAll 5 0x1211 false [((2, 0), [1])]).2 = none := by decide +kernel

/-- R485: an object that exists and may be written; one that does not. -/
theorem witness_write_rights :
    let m := reqM (pdu 4 0x1800 1 1 [2])
    m.obj? 5 0x1800 99 0 = none ∧ (m.obj? 5 0x1800 1 0).isSome = true ∧ m.writeBad 5 0x1800 true (1, 0) = 0 := by decide +kernel

/-- Settings 16 and 17 of a die that runs, is stopped, while one stops, under a static cord that fits it and one that does not (R269, R270, R494). -/
theorem witness_die_setting :
    let o := fun (v : Nat) (m : Mod) => (m.setOne 5 0x1210 1 0 [BitVec.ofNat 8 v]).status
    let st := fun (tend us : Nat) => ({ withCord base (cordOf 1 [(8, 1, leBytes 32 (2 ^ 32 * tend))]) with tick := { us := us } } : Mod)
    o 17 base = 0x904 ∧ o 16 base = 0 ∧ o 0 { base with dieS := { run := .draining } } = 0x905 ∧ (st 2400 1).cord.inst.isSome = true ∧ cStatic (st 2400 1).img = true ∧
    staticFits (st 2400 1).img 16 (st 2400 1).tick.us = true ∧ staticFits (st 2400 1).img 15 1 = false ∧ o 15 (st 2400 1) = 0x903 ∧ o 16 (st 2400 1) = 0 ∧
    (base.setOne 5 0x1210 1 0 [9]).m.dieN.req = some 9 ∧ (({ base with dieN := { run := .stopped } } : Mod).setOne 5 0x1210 1 0 [9]).m.dieN.want = 9 := by
  decide +kernel

/-- DIE_RUN of 0, 1 and 2 in every state of a die, with each refusal (R271 to R273). -/
theorem witness_die_run :
    let o := fun (v : Nat) (m : Mod) => (m.setOne 5 0x1210 2 0 [BitVec.ofNat 8 v]).status
    let d := fun (x : DieSt) => ({ base with dieN := x } : Mod)
    let on := fun (h : Nat) => withCord base (cordOf 0 [(2, 1, leBytes 8 h)])
    o 0 base = 0 ∧ o 0 (d { run := .stopped }) = 0 ∧ o 0 (d { run := .draining, pend := true }) = 0 ∧ o 0 { base with dieS := { req := some 1 } } = 0x905 ∧
    (on 0).cordOn 0 = true ∧ o 0 (on 0) = 0x901 ∧ o 0 { base with dieS := { run := .stopped } } = 0x902 ∧
    (on 4096).cordOn 0 = false ∧ (on 4096).cord.inst = some 0 ∧ o 0 (on 4096) = 0x907 ∧
    o 1 base = 0 ∧ o 1 (d { run := .starting }) = 0 ∧ o 1 (d { run := .draining }) = 1 ∧ o 1 (d { run := .stopped, held := true }) = 0x1208 ∧
    o 1 { d { run := .stopped } with dieS := { run := .starting } } = 0x905 ∧ o 1 (d { run := .stopped }) = 0 ∧ o 2 base = 0x16 := by decide +kernel

/-- PEAT_EN and DMA_EN in each state, TICK_SRC of 2 and 3, channels 27 and 28 (R323, R379, R463). -/
theorem witness_switches :
    let pe := fun (v : Nat) (q : PeatOn) => ((({ base with peat := { state := q } } : Mod).setOne 5 0x1200 5 0 [BitVec.ofNat 8 v]).status)
    let dm := fun (v e : Nat) (r : ChanRun) => ((({ base with dma := { chans := [(27, { run := r })] } } : Mod).setOne 5 0x2020 1 e [BitVec.ofNat 8 v]).status)
    let pc := withCord base (cordOf 8 [])
    cPeat pc.img = true ∧ (pc.setOne 5 0x1200 5 0 [0]).status = 0xA01 ∧ pe 0 .on = 0 ∧ pe 0 .shutting = 0 ∧ pe 0 .off = 0 ∧ pe 1 .on = 0 ∧
    pe 1 .shutting = 1 ∧ pe 1 .off = 0 ∧ pe 2 .on = 0x16 ∧ dm 0 28 .idle = 0xE05 ∧ dm 0 27 .running = 0 ∧ dm 0 27 .shutting = 0 ∧ dm 0 27 .idle = 0 ∧
    dm 1 27 .running = 0 ∧ dm 1 27 .shutting = 1 ∧ dm 1 27 .disabled = 0 ∧ (base.setOne 5 0x1100 3 0 [3]).status = 0x16 ∧
    (base.setOne 5 0x1100 3 0 [2]).m.tick.src = 2 ∧ ((withCord base (cordOf 0 [])).setOne 5 0x1100 3 0 [2]).status = 0xC03 := by decide +kernel

/-- TICK_SRC written with the source in force under a cord; DMA_EN of a disabled channel that waits for an acknowledgement and of one that does not. -/
theorem witness_switch_edges :
    let pc := withCord base (cordOf 0 [])
    let dm := fun (r : ChanRun) (n : Nat) => (({ base with dma := { chans := [(3, { run := r, acks := List.replicate n {} })] } } : Mod).setOne 5 0x2020 1 3 [0])
    (pc.setOne 5 0x1100 3 0 [BitVec.ofNat 8 pc.tick.src]).status = 0 ∧ (dm .idle 1).status = 0 ∧ ((dm .idle 1).m.chanD 3).run = .shutting ∧
    ((dm .idle 0).m.chanD 3).run = .disabled := by decide +kernel

/-- PORT_EN in each state; the last value of each port setting and one more; in Running and Damped (R436, R446). -/
theorem witness_port_settings :
    let d := inState .damped
    let p := fun (x : PortSt) => ({ d with eth := { ports := [(7, x)] } } : Mod)
    let o := fun (i sub v : Nat) (m : Mod) => (m.setOne 5 i sub 7 (beBytes 2 v))
    (o 0x2010 1 0 (p { run := .down })).status = 0 ∧ ((o 0x2010 1 0 (p { run := .starting })).m.port 7).run = .shutting ∧
    (o 0x2010 1 1 (p { run := .shutting })).status = 1 ∧ (o 0x2010 1 1 (p { testing := true })).status = 1 ∧
    ((o 0x2010 1 1 (p { run := .down })).m.port 7).run = .starting ∧ (o 0x2010 1 2 d).status = 0x16 ∧ (o 0x2010 2 2 d).status = 0 ∧
    (o 0x2010 2 3 d).status = 0x16 ∧ (o 0x2010 3 1 d).status = 0 ∧ (o 0x2010 3 2 d).status = 0x16 ∧ (o 0x2011 13 4094 d).status = 0 ∧
    (o 0x2011 13 4095 d).status = 0x16 ∧ (o 0x2010 2 2 base).status = 0xE01 ∧ (o 0x2010 3 1 base).status = 0xE01 ∧ (o 0x2011 13 4094 base).status = 0xE01 := by
  decide +kernel

/-- The ends of each range (R477, R530, R435, R443). -/
theorem witness_plain_settings :
    let o := fun (i sub v : Nat) => ((base.setOne 5 i sub 0 (beBytes 2 v)).status)
    o 0x1600 4 15 = 0 ∧ o 0x1600 4 16 = 0x16 ∧ o 0x1800 1 2 = 0 ∧ o 0x1800 1 3 = 0x16 ∧ o 0x1800 2 800 = 0 ∧ o 0x1800 2 2600 = 0 ∧ o 0x1800 2 790 = 0x16 ∧
    o 0x1800 2 805 = 0x16 ∧ o 0x1800 2 2610 = 0x16 ∧ o 0x2011 8 1 = 0 ∧ o 0x2011 8 32 = 0 ∧ o 0x2011 8 0 = 0x16 ∧ o 0x2011 8 33 = 0x16 ∧
    o 0x2012 1 64 = 0x16 ∧ o 0x2012 2 8 = 0x16 := by decide +kernel

/-! ### Power, states and resets -/

/-- R530: 2,600 W, the derate cap at 60.0 V, AUTO's at 60.0 V, the fixed cap and recovery. -/
def powP (policy mv capW : Nat) (rec : Bool) : PowSt := { policy := policy, inMv := mv, capW := capW, recover := rec }
theorem witness_lowest_cap :
    (powP 0 64000 800 false).least.2 = 2600 ∧ (powP 0 60000 800 false).least = (1, derateCap 60000) ∧ derateCap 60000 = 1791 ∧
    (powP 2 60000 800 false).least = (2, 1072) ∧ (powP 1 64000 800 false).least = (3, 800) ∧ (powP 0 80000 800 true).least = (4, 1000) := by decide

/-- A measurement in Off, under dataflow firing with recovery at its end, under a static cord (R531, R535). -/
theorem witness_power_loop :
    let go := fun (w bus : BitVec 17) (step : Bool) (m : Mod) => run (.powerLoopUpdate 64000 9 w bus 128 64 step) { m := m }
    let r : Mod := { base with pow := { base.pow with recover := true } }
    let st := withCord base (cordOf 1 [])
    run (.powerLoopUpdate 0 0 0 0 0 0 false) { m := {} } = {} ∧ (go 100 64000 false r).pow.recover = false ∧ (go 100 63999 false r).pow.recover = true ∧
    (go 100 64000 false base).pow.dutyN = 128 ∧ st.staticOn = true ∧ (go 100 64000 true st).pow.dutyS = 256 ∧ (go 100 64000 false st).pow.inW = 100 := by
  decide +kernel

/-- R545 at 94.9, 95.0, 104.9 and 105.0 degrees. -/
theorem test_thermal_duty :
    thermDuty 949 = 256 ∧ thermDuty 950 = 256 ∧ thermDuty 960 = 224 ∧ thermDuty 1049 = 0 ∧ thermDuty 1050 = 0 ∧ thermK 949 = none ∧
    thermK 950 = some 16 ∧ thermK 951 = some 15 ∧ thermK 1050 = some 6 := by decide

/-- One reading at 105 degrees, a second in a row; the alert's two bounds (R544 to R546). -/
theorem witness_thermal :
    let go := fun (t : BitVec 12) (m : Mod) => run (.thermalSample [t] [0] [0] [] []) { m := m }
    let hot : Mod := { base with pow := { base.pow with govN := 1050 } }
    let al : Mod := { base with pow := { base.pow with alert := true } }
    (base).pow.state ≠ .off ∧ (go 1050 base).pow.trips = 0 ∧ (go 1050 hot).pow.trips = 1 ∧ (go 1050 hot).pow.state = .fault ∧ (go 1049 hot).pow.trips = 0 ∧
    (go 950 base).pow.alert = true ∧ (go 949 base).pow.alert = false ∧ (go 900 al).pow.alert = true ∧ (go 899 al).pow.alert = false ∧
    (go 960 base).pow.thermN = 224 := by decide +kernel

/-- The window's bounds, 60.0 and 80.0 V; the return at 60.5 V; the derated class below 64.0 V and until 64.5 V; a surge of 100.0 V for 10 ms (R528, R533 to R535). -/
theorem witness_input_window :
    let o : Mod := { base with pow := { base.pow with swOpen := true } }
    let f : Mod := { base with pow := { base.pow with swOpen := false, inClass := .full } }
    let d : Mod := { base with pow := { base.pow with swOpen := false, inClass := .derated } }
    (run (.inputOutOfWindow 59999) { m := f }).pow.swOpen = true ∧ (run (.inputOutOfWindow 80001) { m := f }).pow.overs = 1 ∧
    run (.inputOutOfWindow 60000) { m := f } = f ∧ run (.inputOutOfWindow 80000) { m := f } = f ∧ run (.inputOutOfWindow 0) { m := o } = o ∧
    (run (.inputReturn 60500 63999 7) { m := o }).pow.recover = true ∧ (run (.inputReturn 80000 64000 7) { m := o }).pow.dips = 1 ∧
    (run (.inputReturn 60499 63999 7) { m := o }).pow.swOpen = true ∧
    (run (.derateChange 63999) { m := f }).pow.derates = 1 ∧ (run (.derateChange 64000) { m := f }).pow.derates = 0 ∧
    (run (.derateChange 64500) { m := d }).pow.inClass = .full ∧ (run (.derateChange 64499) { m := d }).pow.inClass = .derated ∧
    (run (.surge 100000 10000) { m := f }).pow.surges = 1 ∧ (run (.surge 80001 0) { m := f }).pow.surges = 1 := by decide +kernel

/-- The loss procedure with an open and a closed switch (R536, R543). -/
theorem witness_input_lost :
    let o : Mod := { base with pow := { base.pow with swOpen := true } }
    let f : Mod := { base with pow := { base.pow with swOpen := false } }
    (run (.lossProcedure true) { m := o }).pow.state = .off ∧ (run (.lossProcedure true) { m := o }).pow.losses = 1 ∧
    (run (.lossProcedure true) { m := o }).pow.journal.any (fun r => r.kind = 4) = true ∧ run (.lossProcedure true) { m := f } = f ∧
    run (.lossProcedure true) { m := {} } = {} := by decide +kernel

/-- RESET_IN_N: asserted in Running and in Off, held, released (R541). -/
theorem witness_reset_pin :
    let h := fun (d : ModState) => ({ inState d with pow := { state := d, held := true } } : Mod)
    (run .resetInAssert { m := base }).pow.state = .kindling ∧ (run .resetInAssert { m := base }).pow.held = true ∧
    (run .resetInAssert { m := {} }).pow.held = true ∧ run .resetInAssert { m := h .kindling } = h .kindling ∧
    run (.resetInRelease 0 0 0 []) { m := base } = base ∧ (run (.resetInRelease 1 1 0 []) { m := h .off }).pow.held = false ∧
    (run (.resetInRelease 1 1 0 []) { m := h .kindling }).pow.state = .damped ∧ (run (.resetInRelease 33 5 3 []) { m := h .kindling }).pow.slotCode = 33 := by
  decide +kernel

/-- RESET in Damped and Running; a trial boot that has not come up; the collier's watchdog (R500, R501, R542). -/
theorem witness_reset_causes :
    let t : Mod := { inState .kindling with sec := { onTrial := true, trial := true } }
    let go := fun (m : Mod) => run (.reset 5 1 0 0 0 []) { m := cmdM 0x1420 [] 2 m }
    comes 0x1420 [2, 3] true [] (inState .damped) = true ∧ (go (inState .damped)).pow.state = .damped ∧ (go (inState .damped)).kop.sess = [] ∧
    ((go base).cmd 0x1420).status = 0x1101 ∧ run (.bootWatchdog 0 0 0 []) { m := base } = base ∧ (run (.bootWatchdog 0 0 0 []) { m := t }).sec.trial = false ∧
    (run (.bootWatchdog 0 0 0 []) { m := t }).pow.state = .damped ∧ (run (.collierWatchdog 0 0 1 []) { m := base }).pow.state = .fault ∧
    run (.collierWatchdog 0 0 0 []) { m := {} } = {} := by decide +kernel

/-- Starts at 64.0 V and 80.0 V, held, without a bank that verifies, with every hearth column of both dies failing (R529, R540, R562). -/
theorem witness_start_up :
    let up := fun (mv : BitVec 17) (fails : List (Fin 2 × Fin 64 × Fin 65)) (m : Mod) => run (.powerUp mv 1 2 0 fails) { m := m }
    let bare : Mod := { sec := { bank0 := {} } }
    (up 64000 [] {}).pow.state = .damped ∧ (up 80000 [] {}).pow.powerUps = 1 ∧ up 63999 [] {} = {} ∧ up 80001 [] {} = {} ∧ up 64000 [] base = base ∧
    (up 64000 [] { pow := { held := true } }).pow.state = .kindling ∧ bare.bootBank = none ∧ (up 64000 [] bare).tst.recovery = true ∧
    (up 64000 [(0, 0, 1), (0, 0, 2), (1, 0, 1), (1, 0, 2)] {}).pow.state = .fault ∧ ({} : Mod).bootBank = some 0 := by decide +kernel

/-- Draining that ends, in time and not, and a module that does not drain; a rail that fails (R539). -/
theorem witness_draining :
    let d := inState .draining
    let f : Mod := { base with pow := { base.pow with swOpen := false } }
    (run .drainingComplete { m := d }).pow.state = .damped ∧ (run .drainingComplete { m := d }).hbm.selfRef = true ∧
    (run .drainTimeout { m := d }).pow.reason = 0x1127 ∧ run .drainTimeout { m := base } = base ∧ run .drainingComplete { m := base } = base ∧
    (run .railFault { m := f }).pow.state = .fault ∧ run .railFault { m := {} } = {} := by decide +kernel

/-- Fault, entered once (R538). -/
theorem witness_fault :
    (base.enterFault 0x1126).pow.reason = 0x1126 ∧ (base.enterFault 0x1126).pow.faultN = .low ∧
    ((base.enterFault 0x1126).enterFault 0x1127).pow.reason = 0x1126 := by decide +kernel

/-- A snapshot of a running collier, at the last record before 80 % wear, and none (R548 to R550). -/
theorem witness_journal :
    (run (.journalSnapshot [(0, 5, 6)]) { m := base }).pow.journal.map (·.kind) = [1] ∧ run (.journalSnapshot []) { m := {} } = {} := by decide +kernel

/-! ### Test and service -/

/-- A module whose scan chain is open, in a debug state. -/
def scanM (state : Nat := 1) : Mod := { inState .damped with sec := { state := state, owner := [4] }, tst := { scan := some 5 } }

/-- TRST_N, IDCODE, and each instruction with scan open, closed and in Off (R556 to R560). -/
theorem witness_test_port :
    let go := fun (c : Instr) (m : Mod) => (run c { m := m }).tst
    (scanM).scanOn = true ∧ (base).scanOn = false ∧ (go (.extest 3 9) scanM).ir = 0 ∧ (go (.extest 3 (1 <<< 132)) scanM).bsr = 1 <<< 132 ∧ (go (.extest 3 9) scanM).bsr = 0 ∧
    (go (.samplePreload 3 9) scanM).takes = false ∧ (go .highz scanM).takes = true ∧ (go .highz base).takes = false ∧ (go .idcode base).cap = 0x14800DCB ∧
    run .idcode { m := {} } = {} ∧ (go .trst scanM).ir = 1 := by decide +kernel

/-- HIGHZ, EXTEST with the FAULT_N cell on and off, and the functional drive (R559). -/
theorem witness_pin_drive :
    let m := fun (ir : BitVec 8) (takes : Bool) (b : BitVec 147) => ({ inState .fault with tst := { ir := ir, takes := takes, bsr := b } } : Mod)
    let f : Mod := base.enterFault 0x1126
    f.faultPin = .low ∧ (base).faultPin = .z ∧ (m 6 true 0).faultPin = .z ∧ (m 0 true (1 <<< 132)).faultPin = .low ∧
    (m 0 true (3 <<< 131)).faultPin ≠ .low ∧ (m 0 true (3 <<< 136)).ppsPin = .high ∧ (m 0 true (1 <<< 136)).ppsPin = .z := by decide +kernel

/-- The debug instructions in the states locked, owner-debug and service; a stopped die; HBM below 768 GB and beyond (R558). -/
theorem witness_debug :
    let go := fun (c : Instr) (m : Mod) => run c { m := m }
    let lock := scanM 0
    (scanM).debugOn = true ∧ lock.debugOn = false ∧ ((go (.hdbgHalt 7) scanM).hearth 7).halted = true ∧ ((go (.hdbgHalt 7) lock).hearth 7).halted = false ∧
    (go (.hdbgHbm 70 (some 1)) scanM).hbm.mem = [(64, 1)] ∧ (go (.hdbgHbm 768000000000 (some 1)) scanM).hbm.mem = [] ∧
    (go (.hdbgHbm 767999999999 none) scanM).tst.ir = 0x22 ∧ (go (.hdbgRing 0 false 0) { scanM with dieN := { run := .stopped } }).tst.ir = 0x21 ∧
    (go (.hdbgRing 0 false 0) { scanM with dieN := { run := .stopped } }).tst.aborted = true ∧ (go (.collierDbg 4) (scanM 2)) = (scanM 2).asBypass ∧
    (go (.collierDbg 3) scanM).tst.dbgCore = none ∧ (go (.collierDbg 3) (scanM 2)).tst.dbgCore = some 3 := by decide +kernel

/-- HDBG_HBM of a stopped die; a spare column's word, its status word, and a spare in use (R63, R259, R261). -/
theorem witness_spare_ring :
    let go := fun (c : Instr) (m : Mod) => run c { m := m }
    let at' := fun (i k : Nat) => 4096 + 2 ^ 15 + 2 ^ 16 * i + 2 ^ 30 * k
    let w := base.spareWrite (at' 3 0) 9
    let u : Mod := { base with dieS := { f := 9 } }
    let st : Mod := { base with dieS := { spares := [(0, { ce := 7 })] } }
    (go (.hdbgHbm 70 (some 1)) { scanM with dieN := { run := .stopped } }).hbm.mem = [] ∧ spareStop (at' 3 0) = true ∧ spareStop (at' 0 1) = true ∧
    spareStop 4096 = false ∧ (base.die 1).f = 64 ∧ (w.spareRead (at' 3 0) 5).1 = 9 ∧ (w.spareRead (at' 4 0) 5).1 = 0 ∧
    (w.spareRead (at' 3 1) 5).1 = 0 ∧ ((base.spareWrite (at' 3 1) 4).spareRead (at' 3 1) 5).1 = 4 ∧
    slice (st.spareRead (at' 0 1) 5).1 15 8 = 7 ∧ (tGet {} ((st.spareRead (at' 0 1) 5).2.die 1).spares 0).ce = 0 ∧
    u.spareRead (at' 3 0) 5 = (5, u) ∧ u.spareWrite (at' 3 0) 5 = u ∧
    (go (.hdbgRing (BitVec.ofNat 32 (at' 3 0)) true 9) scanM).dieS.words.length = 1 ∧
    (go (.hdbgRing (BitVec.ofNat 32 (at' 3 0)) false 0) { scanM with dieS := w.dieS }).tst.ring = 9 := by decide +kernel

/-- SCAN_OPEN in Damped, with a cord, in Running; SCAN_CLOSE (R557). -/
theorem witness_scan :
    let d := inState .damped
    comes 0x1421 [3] true [] d 3 = true ∧ stOf (.scanOpen 5 1) 0x1421 [] d 3 = 0 ∧ stOf (.scanOpen 5 1) 0x1421 [] (withCord d (cordOf 0 [])) 3 = 0x1202 ∧
    stOf (.scanOpen 5 1) 0x1421 [] base 3 = 0x1201 ∧ comes 0x1422 [3] true [] d 3 = true ∧ stOf (.scanClose 5 1) 0x1422 [] d 3 = 0 ∧
    (run (.scanClose 5 1) { m := cmdM 0x1422 [] 3 scanM }).tst.scan = none := by decide +kernel

/-- SELFTEST_RUN of dies 2 and 3, with a cord, in Running; its end with no failure and with a held die, idle (R562). -/
theorem witness_self_test :
    let d := inState .damped
    let r : Mod := { d with tst := { running := some 0 }, kop := { cmds := [(0x1423, { busy := true })] }, hbm := { mem := [(0, 1)] } }
    let t := run (.selftestDone [(0, 3, 5)]) { m := r }
    comes 0x1423 [3] true [2] d 3 = true ∧ (run (.selftestRun 5 1) { m := cmdM 0x1423 [2] 3 d }).tst.running = some 2 ∧ stOf (.selftestRun 5 1) 0x1423 [3] d 3 = 0xF05 ∧
    stOf (.selftestRun 5 1) 0x1423 [2] (withCord d (cordOf 0 [])) 3 = 0x1202 ∧ stOf (.selftestRun 5 1) 0x1423 [0] base 3 = 0x1201 ∧
    t.tst.running = none ∧ t.tst.failN = 1 ∧ t.dieN.f = 5 ∧ t.hbm.mem = [(0, 1)] ∧ (t.cmd 0x1423).busy = false ∧
    run (.selftestDone []) { m := base } = base := by decide +kernel

/-- Failures: none, in the spare, in one column with the spare used, in two columns (R562). -/
theorem witness_self_test_outcome :
    let u : Mod := { base with dieN := { f := 9 } }
    (((base.die 0).failing []).map Prod.snd).eraseDups = [] ∧ (((base.die 0).failing [(3, 64), (4, 64)]).map Prod.snd).eraseDups = [64] ∧
    ((base.selfTest 0 false [(3, 64)]).die 0).sound = false ∧ (((u.die 0).failing [(3, 5)]).map Prod.snd).eraseDups = [5] ∧
    ((u.selfTest 0 false [(3, 5)]).die 0).held = true ∧ 1 < (((base.die 1).failing [(3, 5), (3, 6)]).map Prod.snd).eraseDups.length ∧
    ((base.selfTest 1 false [(3, 5), (3, 6)]).die 1).held = true ∧ ((base.selfTest 1 false [(3, 5)]).die 1).f = 5 := by decide +kernel

/-- LANE_TEST of ports 7 and 8, for 0, 1, 3,600 and 3,601 s, of an enabled port, in Draining; its end (R566). -/
theorem witness_lane_test :
    let d : Mod := { inState .damped with eth := { ports := [(7, { en := false })] } }
    let a := fun (q pat n : Nat) => beBytes 1 q ++ beBytes 1 pat ++ beBytes 2 n
    let st := fun (q pat n : Nat) (m : Mod) => stOf (.laneTest 5 1) 0x1424 (a q pat n) m 3
    let e := fun (pend : Bool) => ({ d with eth := { ports := [(7, { en := false, pend := pend, testing := true })] }, tst := { lane := some (7, 1, 9) } } : Mod)
    comes 0x1424 [3] true (a 7 1 3600) d 3 = true ∧ (run (.laneTest 5 1) { m := cmdM 0x1424 (a 7 1 3600) 3 d }).tst.lane = some (7, 1, 3600) ∧
    (run (.laneTest 5 1) { m := cmdM 0x1424 (a 7 0 1) 3 d }).tst.lane = some (7, 0, 1) ∧ st 8 1 9 d = 0xF05 ∧ st 7 2 9 d = 0x16 ∧ st 7 1 0 d = 0x16 ∧
    st 7 1 3601 d = 0x16 ∧ st 7 1 9 { d with pow := { d.pow with state := .draining } } = 0x1201 ∧ st 6 1 9 d = 0x1205 ∧
    ((run (.laneTestDone []) { m := e true }).port 7).run = .starting ∧ ((run (.laneTestDone []) { m := e false }).port 7).en = false ∧
    (run (.laneTestDone []) { m := e false }).tst.lane = none ∧ run (.laneTestDone []) { m := base } = base := by decide +kernel

/-- 1,023 and 1,024 ticks after the last test; a spare in use, a die that is stopped (R563). -/
theorem witness_spare_test :
    let m := fun (n : Nat) => ({ base with tst := { sinceT := n, rowN := 63 }, dieS := { f := 3 } } : Mod)
    run (.spareOnlineTest true true) { m := m 1023 } = m 1023 ∧ (run (.spareOnlineTest true true) { m := m 1024 }).tst.rowN = 0 ∧
    (run (.spareOnlineTest true true) { m := m 1024 }).dieN.sound = false ∧ (run (.spareOnlineTest true true) { m := m 1024 }).dieS = { f := 3 } := by
  decide +kernel

/-- FW_LOAD and FW_COMMIT with no bank that verifies, with a pair that verifies and one that does not, and in Running (R565). -/
theorem witness_recovery :
    let m := fun (ws : List Word) => ({ inState .kindling with tst := { recovery := true }, sec := { bank0 := { words := ws } }, pow := { state := .kindling } } : Mod)
    let l := pairOf 1 2 0
    let ws := bytesWords (l.length / 4) l
    let go := fun (ws : List Word) => run (.fwCommit true 1 1 0 []) { m := m ws }
    fwBad (wsBytes ws) true 0 = none ∧ (go ws).pow.state = .damped ∧ (go ws).sec.active = 0 ∧ fwBad [] true 0 ≠ none ∧ (go []).pow.state = .kindling ∧
    (go []).tst.recovery = true ∧ (run (.fwLoad [7]) { m := m [] }).sec.bank0.words = [7] ∧ (run (.fwLoad [7]) { m := base }).tst.ir = 0xFF := by
  decide +kernel

/-- A stopped hearth's word at the greatest of each count; columns beside a retired one (R62, R63). -/
theorem witness_hearth_words :
    let m : Mod := { base { hearths := [(0, { stopped := true, cause := 31, ce := 255, passes := 255 })] } with dieN := { f := 5 } }
    slice (m.hearthWord 0) 1 0 = 3 ∧ slice (m.hearthWord 0) 7 3 = 31 ∧ slice (m.hearthWord 0) 15 8 = 255 ∧ m.physWord 0 0 6 = m.hearthWord 5 ∧
    m.physWord 0 0 4 = m.hearthWord 4 ∧ (m.die 0).f = 5 ∧ slice (m.physWord 0 0 5) 1 0 = 3 ∧ m.physWord 1 0 64 = 0 := by decide +kernel

/-! ### Bytes and the whole machine -/

/-- Messages whose fields stand at the last value that fits. -/
theorem witness_messages :
    let p : Pdu := { op := 15, session := 2 ^ 32 - 1, seq := 2 ^ 32 - 1, index := 65535, sub := 255, count := 255, elem := 2 ^ 32 - 1, len := 2, value := [1, 2] }
    (Pdu.ofBytes (p.bytes ++ [9, 9])) = p ∧ ExMsg.ofBytes (({} : ExMsg).bytes) = {} ∧ ClMsg.ofBytes (({} : ClMsg).bytes) = {} ∧
    tokRecs 1 (tokRec 5#32 (List.replicate 16 7#32)) = [(5#32, List.replicate 16 7#32)] := by decide +kernel

/-- Two bursts' bytes written and read back; a canonical memory before a step. -/
theorem witness_hbm :
    (base).hbm.bad = [] ∧ (base.hbmPut 10 [1, 2]).hbmRaw 10 2 = [1, 2] ∧ (base.hbmPut 64 (List.replicate 64 1)).hbm.bad = [] := by decide +kernel

theorem witness_canonical : State.reset.hbmCanonical ∧ State.reset.pending = [] ∧ Sys2Proof.Machine.step State.reset = .next State.reset := by
  refine ⟨?_, rfl, rfl⟩
  unfold State.hbmCanonical; decide +kernel

/-- The first of two commands is taken, the second waits (R1). -/
theorem test_queue :
    Sys2Proof.Machine.step { m := {}, pending := [.resetInAssert, .trst] } =
      .next { m := { pow := { held := true } }, pending := [.trst] } := rfl

/-! ### A load that passes -/

/-- The public point of private key 1 (R495). -/
def ownerG : List Byte := 4 :: (beBytes 66 ecGx ++ beBytes 66 ecGy)

/-- A cord of a single module with the sections that R205 requires, empty where they may be, STEP_TICKS 3: its first 64 bytes, those of
the signature, and the rest. Hashes and signature (private key 1, nonce 1) were worked out outside the model. -/
def cordBytes (id sig1 sig2 : Nat) : List Byte :=
  ([id,
     0xadf225851e15dd6be877397e5f3eb3aacef8dbdb728e23bdfcf8d13de59836ac80865e0012fc5aee,
     0x2fec7e87d21883ffb0f2855d3cd1d047cee96cd321a9f483dc15570b05e420d607806dd6502854f1bdb8ef7e35e183cf00000000000005400000000000000001,
     0x7806dd6502854f1bdb8ef7e35e183cf00000000000005400000000000000002000000000000000000000000000000003eda27f97a3238a5817a4147bd31b963,
     0x3eda27f97a3238a5817a4147bd31b9632fec7e87d21883ffb0f2855d3cd1d047cee96cd321a9f483dc15570b05e420d6,
     0x2fec7e87d21883ffb0f2855d3cd1d047cee96cd321a9f483dc15570b05e420d607806dd6502854f1bdb8ef7e35e183cf00000000000005400000000000000003,
     0x7806dd6502854f1bdb8ef7e35e183cf00000000000005400000000000000004000000000000000000000000000000003eda27f97a3238a5817a4147bd31b963,
     0x3eda27f97a3238a5817a4147bd31b9632fec7e87d21883ffb0f2855d3cd1d047cee96cd321a9f483dc15570b05e420d6,
     0x2fec7e87d21883ffb0f2855d3cd1d047cee96cd321a9f483dc15570b05e420d607806dd6502854f1bdb8ef7e35e183cf00000000000005400000000000000005,
     0xc74ddcecc4cf3fc15beab9dc5c5b5edb000000a0000005400000000500000008000000000000000000000000000000003eda27f97a3238a5817a4147bd31b963,
     0x3765de6695888a83d0c3cda19d3bbbc0b79bc296c55d2f3f3e7840b16750ccd8f3469bfa28f8b744d27bf7c4576c4d3f,
     0x2fec7e87d21883ffb0f2855d3cd1d047cee96cd321a9f483dc15570b05e420d607806dd6502854f1bdb8ef7e35e183cf00000000000006000000000000000009,
     0x7fecac83ad799258397bd8b1b4d1143a0000008000000600000000020000000c000000000000000000000000000000003eda27f97a3238a5817a4147bd31b963,
     0xbd5c25b0a6f6847a0ae66ce20b4ead83c42daa1f6be6c25720b4fc6419c81231508584293010f96ae0e2ff9398e2f538,
     0x5fef59248a530b5fbc856425970461f589115afaa5020716176fcd61ad67f15a3bbae57c6048a3743468e77c902f8fd0000008000000680000000020000000e,
     0x7806dd6502854f1bdb8ef7e35e183cf000000000000070000000000000000110000000000000000000000000000000021b4cab54b5924c2d69e411a4795e37b,
     0x3eda27f97a3238a5817a4147bd31b9632fec7e87d21883ffb0f2855d3cd1d047cee96cd321a9f483dc15570b05e420d6,
     0x2994bc86e2deacff40c842a67fc21991a084475f1f61d74f6c10a0e608c86c73f28d1e70469ecd5baa32398c26d8e7c900001800000007000000018000000013,
     0x4d6b60af28f821b53f053981649c42b4952366cb3e9ecde90404b7068e85c60000000000000000000000000000000000daa31bd495d1ca76d858833cc50f5e9a,
     sig1, sig2,
     0x20000000000000000000000000000000000000000000101000000000100011501,
     0x200000130000000000000000000000000000000000000000000000000000000010000003,
     0x30000023,
     0x1000000000000010001,
     2,
     1,
     2] : List Nat).flatMap (leBytes 64) ++ List.replicate 6144 0
def cordA : List Byte :=
  cordBytes 0xefaac21c66222fd4375bf6747f73babaf48ce9c06a67b9270000000300000004000301f400001f0000000000000000000000000000000005000b000144524f43
    0x6dbd18a59f73d21dbc419872a27c9b1495855786dffbf5f0c8eeca15c70066bde5c2317e7ef99b426a85c1b34833dea8ffa227c11dfe2859e7ef775e4ba1ba3d
    0x572629e7330d0b1efe8792bde2f4fa4d9d4040547694e9f369dd203111f11acad7656389
def cordB : List Byte :=
  cordBytes 0xefaac21c66222fd4375bf6747f73babaf48ce9c06a67b9270004000300000004000301f400001f0000000000000000050000000000000006000b000144524f43
    0xd46b9c12fc26e455e045f324c2943436e93cc3f55331b9f065ff536cc70066bde5c2317e7ef99b426a85c1b34833dea8ffa227c11dfe2859e7ef775e4ba1ba3d
    0x60c43c047ad25ac41bd05db7544e940d53110b5de4eca407c1763c498f0a2932b0276454
/-- A module bound to that owner, with that cord staged in slot 0, in Damped. -/
def loadM : Mod :=
  { base with pow := { state := .damped, collier := true }, sec := { owner := ownerG, ownerId := sha512 ownerG },
              cord := { slot0 := { st := .staged, bytes := cordA }, load := some { slot := 0, case := 1, rnd := 0 } } }
/-- The cord installed, and a successor staged in slot 1. -/
def succM (d : ModState) : Mod :=
  { loadM with pow := { state := d, collier := true }, cord := { loadM.cord with
      inst := some 0, slot1 := { st := .staged, bytes := cordB }, load := some { slot := 1, case := 2, rnd := 0 } } }

theorem firstOf_cons (x : Refuse) (l : List Refuse) (hx : x = none) (hl : firstOf l = none) : firstOf (x :: l) = none := by
  subst hx; exact hl

theorem leBytes_len (n x : Nat) : (leBytes n x).length = n := by
  induction n generalizing x with
  | zero => rfl
  | succ n ih => rw [leBytes, List.length_cons, ih]

theorem flat_len (l : List Nat) : (l.flatMap (leBytes 64)).length = 64 * l.length := by
  induction l with
  | nil => rfl
  | cons a t ih => rw [List.flatMap_cons, List.length_append, ih, leBytes_len, List.length_cons]; omega

theorem after_head (l t : List Nat) (k n : Nat) (z : List Byte) (h : l.length = k) :
    ((l ++ t).flatMap (leBytes 64) ++ z).drop (64 * k + n) = (t.flatMap (leBytes 64) ++ z).drop n := by
  rw [List.flatMap_append, List.append_assoc, ← List.drop_drop, List.drop_left' (by rw [flat_len, h])]

/-- What follows the signature does not depend on it. -/
theorem after_sig (a b d a' b' d' n : Nat) : (cordBytes a b d).drop (1344 + n) = (cordBytes a' b' d').drop (1344 + n) :=
  (after_head [_, _, _, _, _, _, _, _, _, _, _, _, _, _, _, _, _, _, _, _, _] _ 21 n _ rfl).trans
    (after_head [_, _, _, _, _, _, _, _, _, _, _, _, _, _, _, _, _, _, _, _, _] _ 21 n _ rfl).symm

theorem last_section : (cordA.drop 1792).take 6144 = List.replicate 6144 0 := by
  rw [cordA, cordBytes, List.drop_left' (by rw [flat_len]; rfl), List.take_of_length_le (Nat.le_of_eq List.length_replicate)]

/-- One block of zeros, and n of them. -/
def zeroBlock (h : List (BitVec 64)) : List (BitVec 64) :=
  List.zipWith (· + ·) h ((List.zip shaK (shaW 80 (List.replicate 16 0))).foldl shaRound h)
def zeroRun (n : Nat) (h : List (BitVec 64)) : List (BitVec 64) := (List.replicate n ()).foldl (fun h _ => zeroBlock h) h

theorem zero_blocks (n k : Nat) (l : List Byte) (h : List (BitVec 64)) :
    shaBlocks (n + k) (List.replicate (128 * n) 0 ++ l) h = shaBlocks k l (zeroRun n h) := by
  induction n generalizing h with
  | zero => simp [zeroRun]
  | succ n ih =>
    have hl : List.replicate (128 * (n + 1)) (0 : Byte) ++ l = List.replicate 128 0 ++ (List.replicate (128 * n) 0 ++ l) := by
      rw [← List.append_assoc, List.replicate_append_replicate, Nat.mul_succ, Nat.add_comm 128]
    have hw : beWords 16 (List.replicate 128 0) = List.replicate 16 0 := by decide +kernel
    rw [hl, show n + 1 + k = (n + k) + 1 by omega, shaBlocks, List.take_left' List.length_replicate, List.drop_left' List.length_replicate, hw]
    exact ih _

/-- The state after 8, 16, … blocks of zeros. -/
def zeroStates : List (List (BitVec 64)) :=
  [shaH,
   [0x215013d15bc4653b, 0xd8bbcfb5e39a7400, 0xdb2e0b246542c158, 0x2b07db0051775cfd, 0x236084293a383f63, 0xc6dbd18bcec6349, 0x9628b6b865d716d9, 0x791285dea7cb5aa2],
   [0xdb8dfe3429fb2b84, 0xee28c26477942994, 0x72ba77c56776308c, 0x659e8220c347329c, 0x303c338438016416, 0x413fd4f2b86e781, 0xf0f0f2d52a818d92, 0x73046f664060d914],
   [0xf52a3c15d546c33d, 0xcf2486cdd45289a, 0xffa30950e77680cd, 0x954a4196a8efb487, 0x9a7a78c38f899b2f, 0x2b014fb05a67a0bc, 0xdaf13995c6009df6, 0xc84bd935296cbf0a],
   [0xa1eb4c74393db054, 0x93d0018a74196650, 0x88db79e6e1311dc3, 0x45854a15c4747329, 0xe7491c5a3955d167, 0x9f6462bb8507007e, 0xf392463d68dabb6e, 0x54e8d9904008a530],
   [0xa4f045b5747283b1, 0x873cbf3edfefa70f, 0xbec40eed0db39593, 0xcb1801a4b862d381, 0x8a456677f14030a4, 0xd6adc850f1a1c5e4, 0x714802dbb61a4bad, 0xf7706e1678845689],
   [0x1ac18c988ba23656, 0x4343670dbdb6c7e4, 0x713333b580e3b680, 0xe1ec26aaef19d123, 0x783c85058df8696, 0xddc6381464d7440c, 0xf254cd113abc163e, 0xfc4ac8f50a51d84a]]

theorem zero_state_1 : zeroRun 8 (nth [] zeroStates 0) = nth [] zeroStates 1 := by decide +kernel
theorem zero_state_2 : zeroRun 8 (nth [] zeroStates 1) = nth [] zeroStates 2 := by decide +kernel
theorem zero_state_3 : zeroRun 8 (nth [] zeroStates 2) = nth [] zeroStates 3 := by decide +kernel
theorem zero_state_4 : zeroRun 8 (nth [] zeroStates 3) = nth [] zeroStates 4 := by decide +kernel
theorem zero_state_5 : zeroRun 8 (nth [] zeroStates 4) = nth [] zeroStates 5 := by decide +kernel
theorem zero_state_6 : zeroRun 8 (nth [] zeroStates 5) = nth [] zeroStates 6 := by decide +kernel

theorem zero_add (a b : Nat) (h : List (BitVec 64)) : zeroRun (a + b) h = zeroRun b (zeroRun a h) := by
  rw [zeroRun, ← List.replicate_append_replicate, List.foldl_append]; rfl

theorem zero_run : zeroRun 48 shaH = nth [] zeroStates 6 := by
  have h1 : zeroRun 8 shaH = _ := zero_state_1
  rw [show 48 = 8 + 8 + 8 + 8 + 8 + 8 from rfl, zero_add, zero_add, zero_add, zero_add, zero_add, h1, zero_state_2, zero_state_3,
    zero_state_4, zero_state_5, zero_state_6]

theorem zeros_hash : leNat (sha512 (List.replicate 6144 0)) = slice (cEnt cordA 10) 639 128 := by
  have e : sha512 (List.replicate 6144 0) = (shaBlocks (48 + 1) (List.replicate (128 * 48) 0 ++
      ([0x80] ++ List.replicate 111 0 ++ beBytes 16 49152)) shaH).flatMap fun w => beBytes 8 w.toNat := by
    simp only [sha512, List.length_append, List.length_replicate, List.append_assoc]
    rfl
  rw [e, zero_blocks, zero_run]
  decide +kernel

theorem no_hash_bad (c : List Byte) (h : ∀ i < cNsect c, hashBad c (cEnt c i) = false) :
    refuseAt 0x106 0 (cEnts c) (fun _ e => hashBad c e) = none := by
  have : badIdx (cEnts c) (fun _ e => hashBad c e) = none := by
    rw [badIdx, List.find?_eq_none]
    intro i hi
    simp only [indices, List.mem_range, cEnts, List.length_map, List.length_range] at hi
    have hn : nth 0 (cEnts c) i = cEnt c i := by simp [nth, cEnts, hi]
    rw [hn, h i hi]; decide
  rw [refuseAt, this]; rfl

theorem cordA_hash : ∀ i < 11, hashBad cordA (cEnt cordA i) = false := by
  intro i hi
  by_cases hi' : i < 10
  · by_cases h5 : i < 5
    · exact (by decide +kernel : ∀ i < 5, hashBad cordA (cEnt cordA i) = false) i h5
    · obtain ⟨k, rfl⟩ := Nat.exists_eq_add_of_le (Nat.le_of_not_lt h5)
      exact (by decide +kernel : ∀ k < 5, hashBad cordA (cEnt cordA (5 + k)) = false) k (by omega)
  · have : i = 10 := by omega
    subst this
    rw [hashBad, (by decide +kernel : slice (cEnt cordA 10) 95 64 = 1792), (by decide +kernel : slice (cEnt cordA 10) 127 96 = 6144),
      last_section, zeros_hash]
    simp

theorem cordA_hashes : refuseAt 0x106 0 (cEnts cordA) (fun _ e => hashBad cordA e) = none :=
  no_hash_bad _ fun i hi => cordA_hash i ((by decide +kernel : cNsect cordA = 11) ▸ hi)

theorem cordB_hashes : refuseAt 0x106 0 (cEnts cordB) (fun _ e => hashBad cordB e) = none := by
  refine no_hash_bad _ fun i hi => ?_
  rw [(by decide +kernel : cNsect cordB = 11)] at hi
  have he : cEnt cordB i = cEnt cordA i := (by decide +kernel : ∀ i < 11, cEnt cordB i = cEnt cordA i) i hi
  have ho : 1344 ≤ slice (cEnt cordA i) 95 64 := (by decide +kernel : ∀ i < 11, 1344 ≤ slice (cEnt cordA i) 95 64) i hi
  have hs : cordB.drop (slice (cEnt cordA i) 95 64) = cordA.drop (slice (cEnt cordA i) 95 64) := by
    obtain ⟨k, hk⟩ := Nat.exists_eq_add_of_le ho
    rw [hk]; exact after_sig _ _ _ _ _ _ k
  have h := cordA_hash i hi
  rw [hashBad, he, hs]; exact h

theorem loadM_obj : loadM.checkObj cordA = none := by
  unfold Mod.checkObj
  exact firstOf_cons _ _ (by decide +kernel) (firstOf_cons _ _ (by decide +kernel) (firstOf_cons _ _ (by decide +kernel)
    (firstOf_cons _ _ (by decide +kernel) (firstOf_cons _ _ (by decide +kernel) (firstOf_cons _ _ (by decide +kernel)
    (firstOf_cons _ _ (by decide +kernel) (firstOf_cons _ _ cordA_hashes (by decide +kernel))))))))

theorem cordB_signed : loadM.cordSigned cordB = true := by decide +kernel

theorem succM_obj (d : ModState) (h : d = .running ∨ d = .damped) : (succM d).checkObj cordB = none := by
  unfold Mod.checkObj
  have hs : (succM d).cordSigned cordB = true := cordB_signed
  rcases h with rfl | rfl <;>
  exact firstOf_cons _ _ (by decide +kernel) (firstOf_cons _ _ (by decide +kernel) (firstOf_cons _ _ (by decide +kernel)
    (firstOf_cons _ _ (by decide +kernel) (firstOf_cons _ _ (by decide +kernel) (firstOf_cons _ _ (by decide +kernel)
    (firstOf_cons _ _ (by rw [hs]; rfl) (firstOf_cons _ _ cordB_hashes (by decide +kernel))))))))

/-- The three cases of R215 of a load that passes every check. -/
theorem witness_load_passes :
    (loadM.cord.load = some { slot := 0, case := 1, rnd := 0 } ∧ loadM.hbm.ret = none ∧ loadM.loadCheck 0 = none ∧ loadM.loadCase cordA = some 1) ∧
    ((succM .running).loadCheck 1 = none ∧ (succM .running).loadCase cordB = some 2) ∧
    ((succM .damped).loadCheck 1 = none ∧ (succM .damped).loadCase cordB = some 3) := by
  refine ⟨⟨rfl, rfl, ?_, by decide +kernel⟩, ⟨?_, by decide +kernel⟩, ⟨?_, by decide +kernel⟩⟩ <;> unfold Mod.loadCheck
  · exact firstOf_cons _ _ loadM_obj (by decide +kernel)
  · exact firstOf_cons _ _ (succM_obj _ (.inl rfl)) (by decide +kernel)
  · exact firstOf_cons _ _ (succM_obj _ (.inr rfl)) (by decide +kernel)


/-- What a reset keeps of a hearth, and its STATE_CHANGE; a snapshot with two blocks' erases (R492, R541, R548). -/
theorem witness_kept :
    let h : Hearth := { passes := 3, ce := 4, cause := 5, hs := [(0, 1)] }
    let m : Mod := { base { hearths := [(7, h)] } with peat := { erases := [(2 ^ 32 + 9, 4), (5, 6)] } }
    let t := m.hardReset 0
    let q := (run (.journalSnapshot []) { m := m }).pow.journal
    t.grid.hearths = [(7, h.kept)] ∧ h.kept ≠ {} ∧ h.kept.hs = [] ∧ t.log.ring.map (fun e => (e.code, e.d0)) = [(0x8001, 0)] ∧
    ((inState .kindling).hardReset 0).log.ring = [] ∧
    (({ m with tst := { m.tst with scan := some 6 } } : Mod).hardReset 0).log.ring.map (fun (e : EvRec) => (e.code, e.d0, e.d1)) = [(0x8C01, 0, 6), (0x8001, 0, 0)] ∧ q.map (·.kind) = [1, 1] ∧
    (q.map JRec.body).head? = some (leBytes 4 1 ++ leBytes 4 9 ++ leBytes 8 4 ++ leBytes 4 0 ++ leBytes 4 5 ++ leBytes 8 6) := by decide +kernel

end Sys2Proof.Tests
end

section
/-! SUPPORT. The issue of a scalar instruction of format I: what the core reads from the word, its effect or its fault. -/

namespace Sys2Proof.Machine

section Issue
variable {s : State} {h : BitVec 13} {n : Fin 123} {w : Word} {op : Nat} {cause : Env → Option Nat} {eff : Env → Mod}

/-- Where no cause is found, the issued instruction has its effect. -/
theorem lift_scIssue_effect (hs : s.m.scStands h n w = true) (hw : opOf w = op) (ho : op < 0x36)
    (hc : cause (scEnv s.m h n w) = none) :
    lift (scIssue op cause eff h.toNat n.val) s = .next { s with m := eff (scEnv s.m h n w) } := by
  rw [lift, scIssue_stands cause eff hs hw ho, hc]

/-- Where a cause is found, the issued instruction raises its fault and has no effect. -/
theorem lift_scIssue_fault {code : Nat} (hs : s.m.scStands h n w = true) (hw : opOf w = op) (ho : op < 0x36)
    (hc : cause (scEnv s.m h n w) = some code) :
    lift (scIssue op cause eff h.toNat n.val) s = .next { s with m := s.m.raise h.toNat (coreSc n.val) 1 code } := by
  rw [lift, scIssue_stands cause eff hs hw ho, hc]

end Issue

/-! ### What a scalar core reads from a word of format I (R74) -/

section FormatI
variable (m : Mod) (h : BitVec 13) (n : Fin 123) (op : BitVec 6) (d a : BitVec 4) (i : BitVec 18)

theorem opOf_fmtI : opOf (fmtI op d a i) = op.toNat := (fmtI_fields op d a i).1

@[simp] theorem scEnv_fmtI_rd : (scEnv m h n (fmtI op d a i)).rd = d.toNat := (fmtI_fields op d a i).2.1

@[simp] theorem scEnv_fmtI_ra : (scEnv m h n (fmtI op d a i)).ra = a.toNat := (fmtI_fields op d a i).2.2.1

@[simp] theorem scEnv_fmtI_imm : (scEnv m h n (fmtI op d a i)).imm = i.toNat := (fmtI_fields op d a i).2.2.2

@[simp] theorem scEnv_sc (w : Word) : (scEnv m h n w).sc = m.sc (scAt h n) := rfl

@[simp] theorem scEnv_fmtI_va : (scEnv m h n (fmtI op d a i)).va = m.scReg h n a := by
  simp [Env.va, Mod.scReg]

@[simp] theorem scEnv_next_setSc (w : Word) (st : ScSt) :
    (scEnv m h n w).next (m.setSc (scAt h n) st) = m.scThen h n st := rfl

@[simp] theorem scEnv_fmtI_wr (v : Word) : (scEnv m h n (fmtI op d a i)).wr v = m.scResult h n d v := by
  simp [Env.wr, Mod.scResult]

end FormatI

@[simp] theorem unless'_true (code : Nat) : unless' true code = none := rfl

@[simp] theorem unless'_false (code : Nat) : unless' false code = some code := rfl

section RegisterImmediate
variable {s : State} {h : BitVec 13} {n : Fin 123} {d a : BitVec 4} {i : BitVec 18} {ok : Nat → Bool}
  {g : Word → Nat → Word}

/-- An operation on ra and an accepted immediate puts its result in rd. -/
theorem scRI_result (op : BitVec 6) (ho : op.toNat < 0x36) (hok : ok i.toNat = true)
    (hs : s.m.scStands h n (fmtI op d a i) = true) :
    scRI op.toNat ok g h n s = .next { s with m := s.m.scResult h n d (g (s.m.scReg h n a) i.toNat) } := by
  rw [scRI, lift_scIssue_effect hs (opOf_fmtI op d a i) ho (by simp [hok])]
  simp

/-- An operation on ra and a refused immediate is ILLEGAL_OP. -/
theorem scRI_refuses (op : BitVec 6) (ho : op.toNat < 0x36) (hok : ok i.toNat = false)
    (hs : s.m.scStands h n (fmtI op d a i) = true) :
    scRI op.toNat ok g h n s = .next { s with m := s.m.raise h.toNat (coreSc n.val) 1 1 } := by
  rw [scRI, lift_scIssue_fault hs (opOf_fmtI op d a i) ho (code := 1) (by simp [hok])]

end RegisterImmediate

end Sys2Proof.Machine
end

section
/-! PROOF. HASH (R81). -/

namespace Sys2Proof.Machine

section Instruction
variable {s : State} {h : BitVec 13} {n : Fin 123} {d a : BitVec 4} {i : BitVec 18}

/-- HASH of an accepted immediate puts the shifted product in rd. -/
theorem execScHash_result (hk : 1 ≤ i.toNat ∧ i.toNat ≤ 32) (hs : s.m.scStands h n (fmtI 0x1B d a i) = true) :
    execScHash h n s = .next { s with
      m := s.m.scResult h n d ((s.m.scReg h n a * 0x2C1B3C6D#32) >>> (32 - i.toNat)) } :=
  scRI_result 0x1B (by decide) (decide_eq_true hk) hs

/-- HASH of any other immediate is ILLEGAL_OP. -/
theorem execScHash_refuses (hk : ¬ (1 ≤ i.toNat ∧ i.toNat ≤ 32))
    (hs : s.m.scStands h n (fmtI 0x1B d a i) = true) :
    execScHash h n s = .next { s with m := s.m.raise h.toNat (coreSc n.val) 1 1 } :=
  scRI_refuses 0x1B (by decide) (decide_eq_false hk) hs

end Instruction

/-- The top k bits of a 32-bit number. -/
theorem shiftRight_lt_two_pow {x k : Nat} (hx : x < 2 ^ 32) (hk : k ≤ 32) : x >>> (32 - k) < 2 ^ k := by
  rw [Nat.shiftRight_eq_div_pow]
  apply Nat.div_lt_of_lt_mul
  rwa [← Nat.pow_add, Nat.sub_add_cancel hk]

/-- The model's bucket, a product of words shifted, is the number of R81. -/
theorem bucket_eq_ofNat (x : Word) (k : Nat) :
    (x * 0x2C1B3C6D#32) >>> k = BitVec.ofNat 32 ((x.toNat * 0x2C1B3C6D % 2 ^ 32) >>> k) := by
  apply BitVec.eq_of_toNat_eq
  have hlt : (x.toNat * 0x2C1B3C6D % 2 ^ 32) >>> k < 2 ^ 32 :=
    Nat.lt_of_le_of_lt (Nat.shiftRight_le _ k) (Nat.mod_lt _ (Nat.two_pow_pos 32))
  rw [BitVec.toNat_ushiftRight, BitVec.toNat_mul, BitVec.toNat_ofNat, BitVec.toNat_ofNat, Nat.mod_eq_of_lt hlt]

/-- Settles O9: an accepted immediate runs HASH as a register and immediate operation, any other is refused by the same
frame. -/
theorem hashBucket : Obligations.HashBucket := by
  intro s h n d a i k v
  split
  case isTrue hk =>
    refine ⟨shiftRight_lt_two_pow (Nat.mod_lt _ (Nat.two_pow_pos 32)) hk.2, fun hs => ?_⟩
    rw [← bucket_eq_ofNat]
    exact execScHash_result hk hs
  case isFalse hk => exact fun hs => execScHash_refuses hk hs

end Sys2Proof.Machine
end

section
/-! PROOF. SORT (R82): its stages on the core's registers, and the network of three stages on any values. -/

namespace Sys2Proof.Machine

/-! ### A stage on the registers of a core -/

theorem ScSt.get_put (st : ScSt) {r : Nat} (hr : r ≠ 0) (v : Word) (x : Nat) :
    (st.put r v).get x = if x = r then v else st.get x := by
  rw [ScSt.put, if_neg hr]
  by_cases hx : x = r
  · simp [ScSt.get, hx, hr]
  · simp [ScSt.get, hx, tGet_tSet]

@[simp] theorem ScSt.put_dmem (st : ScSt) (r : Nat) (v : Word) : (st.put r v).dmem = st.dmem := by
  unfold ScSt.put; split <;> rfl

@[simp] theorem ScSt.put_prog (st : ScSt) (r : Nat) (v : Word) : (st.put r v).prog = st.prog := by
  unfold ScSt.put; split <;> rfl

/-- A compare-exchange exchanges where the second value is the smaller one, and otherwise leaves the core. -/
theorem cmpEx_eq (st : ScSt) (i j : Nat) :
    cmpEx st i j = if (st.get j).toNat < (st.get i).toNat then (st.put i (st.get j)).put j (st.get i) else st := by
  simp [cmpEx, BitVec.ult]

@[simp] theorem cmpEx_dmem (st : ScSt) (i j : Nat) : (cmpEx st i j).dmem = st.dmem := by
  rw [cmpEx_eq]; split <;> simp

@[simp] theorem cmpEx_prog (st : ScSt) (i j : Nat) : (cmpEx st i j).prog = st.prog := by
  rw [cmpEx_eq]; split <;> simp

/-- A compare-exchange of the model, read register by register. -/
theorem get_cmpEx (st : ScSt) {i j : Nat} (hi : i ≠ 0) (hj : j ≠ 0) (hij : i ≠ j) :
    (cmpEx st i j).get = sorted2 st.get i j := by
  funext r
  rw [cmpEx_eq, sorted2]
  by_cases hlt : (st.get j).toNat < (st.get i).toNat
  · rw [if_pos hlt, ScSt.get_put _ hj, ScSt.get_put _ hi, Nat.min_eq_right (Nat.le_of_lt hlt),
      Nat.max_eq_left (Nat.le_of_lt hlt)]
    by_cases hri : r = i
    · simp [hri, hij]
    · simp [hri]
  · rw [if_neg hlt, Nat.min_eq_left (Nat.not_lt.mp hlt), Nat.max_eq_right (Nat.not_lt.mp hlt)]
    by_cases hri : r = i
    · simp [hri]
    · by_cases hrj : r = j
      · simp [hrj, hij.symm]
      · simp [hri, hrj]

/-- A stage of the model, read register by register. -/
theorem get_sortStage (st : ScSt) {r : Nat} (hr : r ≠ 0) (k : Nat) :
    (sortStage st r k).get = sortedStage st.get r k := by
  match k with
  | 0 | 1 | _ + 2 => simp [sortStage, sortedStage, get_cmpEx, hr]

/-- A stage leaves data and program memory. -/
theorem sortStage_memories (st : ScSt) (r k : Nat) :
    (sortStage st r k).dmem = st.dmem ∧ (sortStage st r k).prog = st.prog := by
  match k with
  | 0 | 1 | _ + 2 => simp [sortStage]

/-! ### The network -/

section Network
variable (f : Nat → Word)

@[simp] theorem toNat_sorted2_fst (i j : Nat) : (sorted2 f i j i).toNat = min (f i).toNat (f j).toNat := by
  rw [sorted2, if_pos rfl, BitVec.toNat_ofNat]
  omega

@[simp] theorem toNat_sorted2_snd {i j : Nat} (hij : j ≠ i) :
    (sorted2 f i j j).toNat = max (f i).toNat (f j).toNat := by
  rw [sorted2, if_neg hij, if_pos rfl, BitVec.toNat_ofNat]
  omega

@[simp] theorem sorted2_other {i j r : Nat} (hi : r ≠ i) (hj : r ≠ j) : sorted2 f i j r = f r := by
  rw [sorted2, if_neg hi, if_neg hj]

/-- Stage 0 orders the lower and the upper pair. -/
theorem sortedStage_zero_pairs (r : Nat) :
    let g := sortedStage f r 0
    (g r).toNat ≤ (g (r + 1)).toNat ∧ (g (r + 2)).toNat ≤ (g (r + 3)).toNat := by
  simp (disch := omega) only [sortedStage, sorted2_other, toNat_sorted2_fst, toNat_sorted2_snd]
  omega

variable {f}

/-- From ordered pairs, stage 1 brings the least value to the first register and the greatest to the last. -/
theorem sortedStage_one_extremes {r : Nat} (h01 : (f r).toNat ≤ (f (r + 1)).toNat)
    (h23 : (f (r + 2)).toNat ≤ (f (r + 3)).toNat) :
    let g := sortedStage f r 1
    ((g r).toNat ≤ (g (r + 1)).toNat ∧ (g r).toNat ≤ (g (r + 2)).toNat) ∧
      (g (r + 1)).toNat ≤ (g (r + 3)).toNat ∧ (g (r + 2)).toNat ≤ (g (r + 3)).toNat := by
  simp (disch := omega) only [sortedStage, sorted2_other, toNat_sorted2_fst, toNat_sorted2_snd]
  omega

/-- With the extremes in place, stage 2 orders the inner pair, and all four values ascend. -/
theorem sortedStage_two_ascending {r : Nat}
    (hlo : (f r).toNat ≤ (f (r + 1)).toNat ∧ (f r).toNat ≤ (f (r + 2)).toNat)
    (hhi : (f (r + 1)).toNat ≤ (f (r + 3)).toNat ∧ (f (r + 2)).toNat ≤ (f (r + 3)).toNat) :
    let g := sortedStage f r 2
    (g r).toNat ≤ (g (r + 1)).toNat ∧ (g (r + 1)).toNat ≤ (g (r + 2)).toNat ∧ (g (r + 2)).toNat ≤ (g (r + 3)).toNat := by
  simp (disch := omega) only [sortedStage, sorted2_other, toNat_sorted2_fst, toNat_sorted2_snd]
  omega

end Network

/-! ### The instruction -/

/-- The check of the register field, made on its number, is a check on the field itself. -/
theorem sort_accepts_iff (d : BitVec 4) (k : Nat) :
    ((d.toNat = 4 ∨ d.toNat = 8 ∨ d.toNat = 12) ∧ k < 3) ↔ ((d = 4 ∨ d = 8 ∨ d = 12) ∧ k < 3) := by
  simp [← BitVec.toNat_inj]

section Instruction
variable {s : State} {h : BitVec 13} {n : Fin 123} {d a : BitVec 4} {i : BitVec 18}

/-- SORT of an accepted register and stage runs that stage, then the next instruction. -/
theorem execScSort_stage (hok : (d = 4 ∨ d = 8 ∨ d = 12) ∧ i.toNat < 3)
    (hs : s.m.scStands h n (fmtI 0x1C d a i) = true) :
    execScSort h n s =
      .next { s with m := s.m.scThen h n (sortStage (s.m.sc (scAt h n)) d.toNat i.toNat) } := by
  have hop : opOf (fmtI 0x1C d a i) = 0x1C := opOf_fmtI 0x1C d a i
  rw [← sort_accepts_iff] at hok
  rw [execScSort, lift_scIssue_effect hs hop (by decide)
    (by simp only [scEnv_fmtI_rd, scEnv_fmtI_imm, decide_eq_true hok, unless'_true])]
  simp

/-- SORT of any other register or immediate is ILLEGAL_OP. -/
theorem execScSort_refuses (hok : ¬ ((d = 4 ∨ d = 8 ∨ d = 12) ∧ i.toNat < 3))
    (hs : s.m.scStands h n (fmtI 0x1C d a i) = true) :
    execScSort h n s = .next { s with m := s.m.raise h.toNat (coreSc n.val) 1 1 } := by
  have hop : opOf (fmtI 0x1C d a i) = 0x1C := opOf_fmtI 0x1C d a i
  rw [← sort_accepts_iff] at hok
  rw [execScSort, lift_scIssue_fault hs hop (by decide) (code := 1)
    (by simp only [scEnv_fmtI_rd, scEnv_fmtI_imm, decide_eq_false hok, unless'_false])]

end Instruction

/-- Settles O10: a stage of the model is the stage of R82 on the values of its registers, which are not s0, and the three
stages in turn order the pairs, bring the extremes out and order the inner pair. -/
theorem sortStages : Obligations.SortStages := by
  refine ⟨fun s h n d a i => ?_, fun f r => ?_⟩
  · split
    case isTrue hok =>
      have hd : d.toNat ≠ 0 := by
        obtain ⟨rfl | rfl | rfl, -⟩ := hok <;> decide
      exact fun hs => ⟨sortStage (s.m.sc (scAt h n)) d.toNat i.toNat, execScSort_stage hok hs,
        fun r _ => congrFun (get_sortStage _ hd _) r, sortStage_memories _ _ _⟩
    case isFalse hok => exact fun hs => execScSort_refuses hok hs
  · obtain ⟨h01, h23⟩ := sortedStage_zero_pairs f r
    obtain ⟨hlo, hhi⟩ := sortedStage_one_extremes h01 h23
    exact sortedStage_two_ascending hlo hhi

end Sys2Proof.Machine
end

section
/-! PROOF. The digest of a hearth group (R244). -/

namespace Sys2Proof.Machine

/-- Where a condition fails, every word of a record kept under it reads the default. -/
theorem tGet_ite_nil {α : Type} (d : α) (c : Prop) [Decidable c] (r : Tbl α) (w : Nat) :
    tGet d (if c then r else []) w = if c then tGet d r w else d := by
  split
  · rfl
  · rfl

/-- The digest folds hearth by hearth and, of each hearth, word by word; a hearth that the cord did not place folds zeros. -/
theorem groupDigest_eq_nested_fold (m : Mod) (g k : Nat) :
    m.groupDigest g k = (groupHearths g).foldl (fun d h =>
      (List.range 15).foldl (fun d w => foldWord d (if h ∈ m.train.prevOn then tGet 0 (m.hearth h).repPrev w else 0) w) d)
      (mix (BitVec.ofNat 64 (g * 2 ^ 32 + k))) := by
  simp only [Mod.groupDigest, List.contains_iff_mem, tGet_ite_nil]

/-- Settles O28: the fold over the hearths of the fold over their words is one fold over the words of all hearths, in row-major
order. -/
theorem groupDigest : Obligations.GroupDigest := by
  refine ⟨fun _ => rfl, fun m g k => ?_⟩
  rw [groupDigest_eq_nested_fold]
  simp only [groupHearths, foldWord, List.foldl_flatMap, List.foldl_map]

end Sys2Proof.Machine
end
